-- ==== Sys2Proof/Word.lean ====
section
/-! DEFINITION. The widths the manual names: bytes, 32-bit words and 64-bit doublewords (R3, R55, R76). -/

namespace Sys2Proof

/-- One byte. -/
abbrev Byte := BitVec 8

/-- A 32-bit word: an instruction word, a tag, an FP32 pattern. -/
abbrev Word := BitVec 32

/-- A 64-bit doubleword: a scalar entry, a CSR, a page-table entry. -/
abbrev Dword := BitVec 64

end Sys2Proof
end

