-- ==== Sys2Proof/Syntax.lean ====
section
/-! DEFINITION. The LX instructions and the events of the opcode table, one constructor per row. A register field
is its seven encoded bits; an immediate or a b operand keeps the 28 bits of its L prefix when it has one (R55-R60). -/

namespace Sys2Proof

/-- The b operand of kind g: the field and, with an L prefix, ext28 (R58). -/
structure Src where
  field : BitVec 7
  ext   : Option (BitVec 28)
  deriving DecidableEq, Repr

/-- imm11 or off11 and the ext28 of a prefix (R57, R58). -/
structure Imm11 where
  low : BitVec 11
  ext : Option (BitVec 28)
  deriving DecidableEq, Repr

/-- imm20 or off20 and the ext28 of a prefix (R57, R58). -/
structure Imm20 where
  low : BitVec 20
  ext : Option (BitVec 28)
  deriving DecidableEq, Repr

/-- The order modifier (R73). -/
inductive Order where
  | plain | acq | rel | acqrel
  deriving DecidableEq, Repr

/-- The operation of an AMO (R74). -/
inductive AmoOp where
  | add | swp | cas | and | or | xor | min | max
  deriving DecidableEq, Repr

/-- What a TQREPLAY write names (R329): every access of the tenant in replay-wait, a thread's, or an engine command's. -/
inductive ReplaySel where
  | all
  | thread (tid : BitVec 32)
  | engine (tid : BitVec 32) (slot : BitVec 5)
  deriving DecidableEq, Repr

/-- An access from outside the dies: host, CXL peer or Bruron Link peer (R262, R346, R347). `publish` raises a watermark, as PUBWM does
(R112). -/
inductive MemOp where
  | read (len : BitVec 8)
  | write (data : List Byte)
  | amo (op : AmoOp) (operand cmp : Dword)
  | publish (value : Dword)
  deriving DecidableEq, Repr

/-- A physical access: address, operation, and the release flag of R257. -/
structure MemAccess where
  pa      : BitVec 56
  op      : MemOp
  release : Bool
  deriving DecidableEq, Repr

/-- A reply on its way back (R234): its packet's tag, and the index of the element that it answers, counted from the packet's first; a write
acknowledgement has index 0. -/
structure ReplyName where
  tag   : BitVec 8
  index : BitVec 16
  deriving DecidableEq, Repr

/-- Where a soft error strikes (R242); `hard` is an error that the hop's check cannot correct. -/
inductive ErrorSite where
  | memory (pa : BitVec 56) (hard : Bool)
  | tag (stack : BitVec 4) (entry : BitVec 20) (hard : Bool)
  | vectorRegister (tid : BitVec 32) (reg : BitVec 8) (dword : BitVec 10) (hard : Bool)
  | maskRegister (tid : BitVec 32) (reg : BitVec 4) (dword : BitVec 10) (hard : Bool)
  | scalarEntry (tid : BitVec 32) (entry : BitVec 9) (hard : Bool)
  | scratchpad (die : BitVec 2) (core : BitVec 6) (granule : BitVec 17) (hard : Bool)
  | fullEmpty (die : BitVec 2) (core : BitVec 6) (granule : BitVec 17)
  | accumulator (die : BitVec 2) (core : BitVec 6) (tile : BitVec 1) (row : BitVec 7)
  | lane (die : BitVec 2) (core : BitVec 6) (group : BitVec 6) (lane : BitVec 5)
  | directory (die : BitVec 2) (hard : Bool)
  | l1Data (die : BitVec 2) (core : BitVec 6) (pa : BitVec 56) (hard : Bool)
  | l2Data (pa : BitVec 56) (hard : Bool)
  | packetBuffer (stack : BitVec 4) (place : BitVec 12) (hard : Bool)
  | rowBuffer (tid : BitVec 32) (slot : BitVec 5) (hard : Bool)
  | tileFetch (die : BitVec 2) (core : BitVec 6)
  deriving DecidableEq, Repr

/-- One constructor per row of the opcode table. -/
inductive Instr where
  /-- NOP (R62). Does nothing; the word 0x0000_0000 that fills unused slots. -/
  | nop
  /-- EXIT (R114). Waits for older vector and matrix work to commit, releases at device scope and ends the thread. -/
  | exit
  /-- TRAP (R118). Takes a program trap with code n to the thread's handler. -/
  | trap (n : BitVec 7)
  /-- ECALL (R118). Takes a system call, which waits in replay-wait for system software. -/
  | ecall
  /-- BRK (R118). Takes a breakpoint to the debugger or to the thread's handler. -/
  | brk
  /-- ERET (R119). Restores the handler snapshot and resumes at TRAPSAVE after the arrival checks. -/
  | eret
  /-- FENCE (R106). Orders the before set of accesses before the after set at the named scope. -/
  | fence (kinds : BitVec 7) (scope : BitVec 7)
  /-- FENCESV (R167). Orders the thread's scalar and vector accesses against each other in one direction. -/
  | fencesv (kind : BitVec 7)
  /-- BARC (R109). Arrives at the crew barrier and waits until every live member has arrived. -/
  | barc
  /-- BARG (R109). Arrives at the gang barrier and waits until every live member has arrived. -/
  | barg
  /-- BARA (R110). Atomically adds 1 to a memory-count barrier counter with release at gang scope. -/
  | bara (a : BitVec 7)
  /-- BARW (R110). Waits until the barrier counter reaches the expected count, then acquires at gang scope. -/
  | barw (a : BitVec 7) (b : Src)
  /-- YIELD (R117). Places the thread behind every other ready thread of its core until the dispatch round ends. -/
  | yield
  /-- PAUSE (R117). Stalls the thread's scalar stream for 64 CYC counts. -/
  | pause
  /-- KILL (R116). Ends the thread of the same tenant that the identifier names, and completes when it has ended. -/
  | kill (a : BitVec 7)
  /-- PUBWM (R112). Waits for earlier accesses to perform at device scope, then raises the watermark word to the value if larger. -/
  | pubwm (d : BitVec 7) (a : BitVec 7)
  /-- WAITWM (R113). Waits until the watermark word reaches the bound, then acquires at device scope. -/
  | waitwm (d : BitVec 7) (a : BitVec 7)
  /-- ASW (R120). Supervisor-only: waits for in-flight vector accesses, then writes ATP. -/
  | asw (a : BitVec 7)
  /-- TLBI (R120). Invalidates cached translations of a page or all pages for an ASID, and discards fetched lines. -/
  | tlbi (a : BitVec 7) (b : Src)
  /-- IDLE (R117). Stalls until a held ticket's command has completed or 65,536 counts pass. -/
  | idle
  /-- CYC (R115). Writes the core's cycle count to a register. -/
  | cyc (d : BitVec 7)
  /-- TID (R115). Writes the issuing thread's identifier to a register. -/
  | tid (d : BitVec 7)
  /-- HINT (R62). Executes as NOP whatever its fields hold. -/
  | hint (n : BitVec 4) (d : BitVec 7) (a : BitVec 7) (b : BitVec 7)
  /-- ADD (R97). Writes g(a) + y modulo 2^64. -/
  | add (d : BitVec 7) (a : BitVec 7) (b : Src)
  /-- SUB (R97). Writes g(a) − y modulo 2^64. -/
  | sub (d : BitVec 7) (a : BitVec 7) (b : Src)
  /-- AND (R97). Writes the bitwise and. -/
  | and (d : BitVec 7) (a : BitVec 7) (b : Src)
  /-- OR (R97). Writes the bitwise or. -/
  | or (d : BitVec 7) (a : BitVec 7) (b : Src)
  /-- XOR (R97). Writes the bitwise xor. -/
  | xor (d : BitVec 7) (a : BitVec 7) (b : Src)
  /-- ANDN (R97). Writes g(a) and not y. -/
  | andn (d : BitVec 7) (a : BitVec 7) (b : Src)
  /-- ORN (R97). Writes g(a) or not y. -/
  | orn (d : BitVec 7) (a : BitVec 7) (b : Src)
  /-- SLL (R97). Shifts left logically by y[5:0]. -/
  | sll (d : BitVec 7) (a : BitVec 7) (b : Src)
  /-- SRL (R97). Shifts right logically by y[5:0]. -/
  | srl (d : BitVec 7) (a : BitVec 7) (b : Src)
  /-- SRA (R97). Shifts right arithmetically by y[5:0]. -/
  | sra (d : BitVec 7) (a : BitVec 7) (b : Src)
  /-- ROR (R97). Rotates right by y[5:0]. -/
  | ror (d : BitVec 7) (a : BitVec 7) (b : Src)
  /-- MUL (R97). Writes the low 64 bits of the product. -/
  | mul (d : BitVec 7) (a : BitVec 7) (b : Src)
  /-- MULH (R97). Writes the high 64 bits of the signed product. -/
  | mulh (d : BitVec 7) (a : BitVec 7) (b : Src)
  /-- MULHN (R97). Writes the high 64 bits of the unsigned product. -/
  | mulhn (d : BitVec 7) (a : BitVec 7) (b : Src)
  /-- DIV (R98). Signed division toward zero, without trap. -/
  | div (d : BitVec 7) (a : BitVec 7) (b : Src)
  /-- DIVN (R98). Unsigned division, without trap. -/
  | divn (d : BitVec 7) (a : BitVec 7) (b : Src)
  /-- REM (R98). Signed remainder, without trap. -/
  | rem (d : BitVec 7) (a : BitVec 7) (b : Src)
  /-- REMN (R98). Unsigned remainder, without trap. -/
  | remn (d : BitVec 7) (a : BitVec 7) (b : Src)
  /-- MIN (R97). Writes the lesser as i64. -/
  | min (d : BitVec 7) (a : BitVec 7) (b : Src)
  /-- MAX (R97). Writes the greater as i64. -/
  | max (d : BitVec 7) (a : BitVec 7) (b : Src)
  /-- MINN (R97). Writes the lesser as n64. -/
  | minn (d : BitVec 7) (a : BitVec 7) (b : Src)
  /-- MAXN (R97). Writes the greater as n64. -/
  | maxn (d : BitVec 7) (a : BitVec 7) (b : Src)
  /-- SLT (R97). Writes 1 if g(a) < y as i64. -/
  | slt (d : BitVec 7) (a : BitVec 7) (b : Src)
  /-- SLTN (R97). Writes 1 if g(a) < y as n64. -/
  | sltn (d : BitVec 7) (a : BitVec 7) (b : Src)
  /-- SEQ (R97). Writes 1 if g(a) = y. -/
  | seq (d : BitVec 7) (a : BitVec 7) (b : Src)
  /-- SNE (R97). Writes 1 if g(a) ≠ y. -/
  | sne (d : BitVec 7) (a : BitVec 7) (b : Src)
  /-- CLZ (R97). Counts leading zero bits of g(a). -/
  | clz (d : BitVec 7) (a : BitVec 7)
  /-- CTZ (R97). Counts trailing zero bits of g(a). -/
  | ctz (d : BitVec 7) (a : BitVec 7)
  /-- POPC (R97). Counts 1 bits of g(a). -/
  | popc (d : BitVec 7) (a : BitVec 7)
  /-- BFX (R99). Extracts a bit field described by y. -/
  | bfx (d : BitVec 7) (a : BitVec 7) (b : Src)
  /-- BFI (R99). Inserts a bit field of g(a) into g(d). -/
  | bfi (d : BitVec 7) (a : BitVec 7) (b : Src)
  /-- ADDI (R97). Adds a sign-extended immediate. -/
  | addi (d : BitVec 7) (a : BitVec 7) (imm : Imm11)
  /-- ANDI (R97). Ands with a sign-extended immediate. -/
  | andi (d : BitVec 7) (a : BitVec 7) (imm : Imm11)
  /-- ORI (R97). Ors with a sign-extended immediate. -/
  | ori (d : BitVec 7) (a : BitVec 7) (imm : Imm11)
  /-- XORI (R97). Xors with a sign-extended immediate. -/
  | xori (d : BitVec 7) (a : BitVec 7) (imm : Imm11)
  /-- SLLI (R97). Shifts left logically by an immediate 0–63. -/
  | slli (d : BitVec 7) (a : BitVec 7) (imm : Imm11)
  /-- SRLI (R97). Shifts right logically by an immediate 0–63. -/
  | srli (d : BitVec 7) (a : BitVec 7) (imm : Imm11)
  /-- SRAI (R97). Shifts right arithmetically by an immediate 0–63. -/
  | srai (d : BitVec 7) (a : BitVec 7) (imm : Imm11)
  /-- SLTI (R97). Writes 1 if g(a) < immediate as i64. -/
  | slti (d : BitVec 7) (a : BitVec 7) (imm : Imm11)
  /-- LIH (R100). Loads the immediate shifted left by 16. -/
  | lih (d : BitVec 7) (imm : Imm20)
  /-- ADDPC (R100). Writes the instruction's address plus the immediate. -/
  | addpc (d : BitVec 7) (imm : Imm20)
  /-- BEQ (R101). Branches when g(a) = g(b). -/
  | beq (a : BitVec 7) (b : BitVec 7) (off : Imm11)
  /-- BNE (R101). Branches when g(a) ≠ g(b). -/
  | bne (a : BitVec 7) (b : BitVec 7) (off : Imm11)
  /-- BLT (R101). Branches when g(a) < g(b) as i64. -/
  | blt (a : BitVec 7) (b : BitVec 7) (off : Imm11)
  /-- BGE (R101). Branches when g(a) ≥ g(b) as i64. -/
  | bge (a : BitVec 7) (b : BitVec 7) (off : Imm11)
  /-- BLTN (R101). Branches when g(a) < g(b) as n64. -/
  | bltn (a : BitVec 7) (b : BitVec 7) (off : Imm11)
  /-- BGEN (R101). Branches when g(a) ≥ g(b) as n64. -/
  | bgen (a : BitVec 7) (b : BitVec 7) (off : Imm11)
  /-- BBS (R101). Branches when bit n of g(a) is 1. -/
  | bbs (a : BitVec 7) (n : BitVec 7) (off : Imm11)
  /-- BBC (R101). Branches when bit n of g(a) is 0. -/
  | bbc (a : BitVec 7) (n : BitVec 7) (off : Imm11)
  /-- JAL (R53). Jumps by an ordinal offset, writing the return point when d is not 0. -/
  | jal (d : BitVec 7) (off : Imm20)
  /-- JALR (R54). Jumps to the address in g(a), writing the return point when d is not 0. -/
  | jalr (d : BitVec 7) (a : BitVec 7)
  /-- LDD (R102). Loads a doubleword. -/
  | ldd (d : BitVec 7) (a : BitVec 7) (imm : Imm11)
  /-- LDW (R102). Loads a sign-extended word. -/
  | ldw (d : BitVec 7) (a : BitVec 7) (imm : Imm11)
  /-- LDH (R102). Loads a sign-extended halfword. -/
  | ldh (d : BitVec 7) (a : BitVec 7) (imm : Imm11)
  /-- LDB (R102). Loads a sign-extended byte. -/
  | ldb (d : BitVec 7) (a : BitVec 7) (imm : Imm11)
  /-- STD (R102). Stores a doubleword. -/
  | std (d : BitVec 7) (a : BitVec 7) (imm : Imm11)
  /-- STW (R102). Stores a word. -/
  | stw (d : BitVec 7) (a : BitVec 7) (imm : Imm11)
  /-- STH (R102). Stores a halfword. -/
  | sth (d : BitVec 7) (a : BitVec 7) (imm : Imm11)
  /-- STB (R102). Stores a byte. -/
  | stb (d : BitVec 7) (a : BitVec 7) (imm : Imm11)
  /-- AMOADD (R104). Atomically adds the operand to a doubleword at its home slice. -/
  | amoadd (d : BitVec 7) (a : BitVec 7) (b : Src) (o : Order) (dev : Bool)
  /-- AMOSWP (R104). Atomically swaps a doubleword. -/
  | amoswp (d : BitVec 7) (a : BitVec 7) (b : Src) (o : Order) (dev : Bool)
  /-- AMOCAS (R104). Atomically compares and swaps a doubleword. -/
  | amocas (d : BitVec 7) (a : BitVec 7) (b : Src) (o : Order) (dev : Bool)
  /-- AMOAND (R104). Atomically ands into a doubleword. -/
  | amoand (d : BitVec 7) (a : BitVec 7) (b : Src) (o : Order) (dev : Bool)
  /-- AMOOR (R104). Atomically ors into a doubleword. -/
  | amoor (d : BitVec 7) (a : BitVec 7) (b : Src) (o : Order) (dev : Bool)
  /-- AMOXOR (R104). Atomically xors into a doubleword. -/
  | amoxor (d : BitVec 7) (a : BitVec 7) (b : Src) (o : Order) (dev : Bool)
  /-- AMOMIN (R104). Atomically keeps the lesser as i64. -/
  | amomin (d : BitVec 7) (a : BitVec 7) (b : Src) (o : Order) (dev : Bool)
  /-- AMOMAX (R104). Atomically keeps the greater as i64. -/
  | amomax (d : BitVec 7) (a : BitVec 7) (b : Src) (o : Order) (dev : Bool)
  /-- SETVL (R121). Sets VTYPE, negotiates lane groups and sets VL for a requested length. -/
  | setvl (d : BitVec 7) (a : BitVec 7) (b : Src)
  /-- SETVLMAX (R121). Sets VTYPE and requests the largest VL. -/
  | setvlmax (d : BitVec 7) (b : Src)
  /-- CSRR (R122). Reads a CSR into a register, waiting as the CSR requires. -/
  | csrr (d : BitVec 7) (csr : BitVec 14)
  /-- CSRW (R122). Writes every RW field of a CSR. -/
  | csrw (csr : BitVec 14) (b : Src)
  /-- CSRS (R122). Sets bits in the RW fields of a CSR. -/
  | csrs (csr : BitVec 14) (b : Src)
  /-- CSRC (R122). Clears bits in the RW fields of a CSR. -/
  | csrc (csr : BitVec 14) (b : Src)
  /-- WINSG (R123). Slides the scalar window base by a displacement. -/
  | winsg (b : Src)
  /-- WINSV (R123). Slides the vector window base by a displacement. -/
  | winsv (b : Src)
  /-- LAT (R124). Returns a snapshot of the lane allocation table for a slot. -/
  | lat (d : BitVec 7) (a : BitVec 7)
  /-- VADD_VV (R130). Element-wise integer add of two vectors. -/
  | vaddVV (d : BitVec 7) (a : BitVec 7) (b : BitVec 7) (m : Bool)
  /-- VADD_VG (R130). Element-wise integer add of a scalar. -/
  | vaddVG (d : BitVec 7) (a : BitVec 7) (b : Src) (m : Bool)
  /-- VSUB_VV (R130). Element-wise integer subtract of two vectors. -/
  | vsubVV (d : BitVec 7) (a : BitVec 7) (b : BitVec 7) (m : Bool)
  /-- VSUB_VG (R130). Element-wise integer subtract of a scalar. -/
  | vsubVG (d : BitVec 7) (a : BitVec 7) (b : Src) (m : Bool)
  /-- VMUL_VV (R130). Low bits of element-wise products. -/
  | vmulVV (d : BitVec 7) (a : BitVec 7) (b : BitVec 7) (m : Bool)
  /-- VMUL_VG (R130). Low bits of products with a scalar. -/
  | vmulVG (d : BitVec 7) (a : BitVec 7) (b : Src) (m : Bool)
  /-- VMULH_VV (R130). High bits of element-wise products. -/
  | vmulhVV (d : BitVec 7) (a : BitVec 7) (b : BitVec 7) (m : Bool)
  /-- VMULH_VG (R130). High bits of products with a scalar. -/
  | vmulhVG (d : BitVec 7) (a : BitVec 7) (b : Src) (m : Bool)
  /-- VMACC_VV (R130). Multiply-accumulate into d with a vector. -/
  | vmaccVV (d : BitVec 7) (a : BitVec 7) (b : BitVec 7) (m : Bool)
  /-- VMACC_VG (R130). Multiply-accumulate into d with a scalar. -/
  | vmaccVG (d : BitVec 7) (a : BitVec 7) (b : Src) (m : Bool)
  /-- VAND_VV (R130). Element-wise and with a vector. -/
  | vandVV (d : BitVec 7) (a : BitVec 7) (b : BitVec 7) (m : Bool)
  /-- VAND_VG (R130). Element-wise and with a scalar. -/
  | vandVG (d : BitVec 7) (a : BitVec 7) (b : Src) (m : Bool)
  /-- VOR_VV (R130). Element-wise or with a vector. -/
  | vorVV (d : BitVec 7) (a : BitVec 7) (b : BitVec 7) (m : Bool)
  /-- VOR_VG (R130). Element-wise or with a scalar. -/
  | vorVG (d : BitVec 7) (a : BitVec 7) (b : Src) (m : Bool)
  /-- VXOR_VV (R130). Element-wise xor with a vector. -/
  | vxorVV (d : BitVec 7) (a : BitVec 7) (b : BitVec 7) (m : Bool)
  /-- VXOR_VG (R130). Element-wise xor with a scalar. -/
  | vxorVG (d : BitVec 7) (a : BitVec 7) (b : Src) (m : Bool)
  /-- VSLL_VV (R130). Element-wise left shift by a vector. -/
  | vsllVV (d : BitVec 7) (a : BitVec 7) (b : BitVec 7) (m : Bool)
  /-- VSLL_VG (R130). Element-wise left shift by a scalar. -/
  | vsllVG (d : BitVec 7) (a : BitVec 7) (b : Src) (m : Bool)
  /-- VSRL_VV (R130). Element-wise logical right shift by a vector. -/
  | vsrlVV (d : BitVec 7) (a : BitVec 7) (b : BitVec 7) (m : Bool)
  /-- VSRL_VG (R130). Element-wise logical right shift by a scalar. -/
  | vsrlVG (d : BitVec 7) (a : BitVec 7) (b : Src) (m : Bool)
  /-- VSRA_VV (R130). Element-wise arithmetic right shift by a vector. -/
  | vsraVV (d : BitVec 7) (a : BitVec 7) (b : BitVec 7) (m : Bool)
  /-- VSRA_VG (R130). Element-wise arithmetic right shift by a scalar. -/
  | vsraVG (d : BitVec 7) (a : BitVec 7) (b : Src) (m : Bool)
  /-- VMIN_VV (R130). Signed minimum with a vector. -/
  | vminVV (d : BitVec 7) (a : BitVec 7) (b : BitVec 7) (m : Bool)
  /-- VMIN_VG (R130). Signed minimum with a scalar. -/
  | vminVG (d : BitVec 7) (a : BitVec 7) (b : Src) (m : Bool)
  /-- VMAX_VV (R130). Signed maximum with a vector. -/
  | vmaxVV (d : BitVec 7) (a : BitVec 7) (b : BitVec 7) (m : Bool)
  /-- VMAX_VG (R130). Signed maximum with a scalar. -/
  | vmaxVG (d : BitVec 7) (a : BitVec 7) (b : Src) (m : Bool)
  /-- VMINN_VV (R130). Unsigned minimum with a vector. -/
  | vminnVV (d : BitVec 7) (a : BitVec 7) (b : BitVec 7) (m : Bool)
  /-- VMINN_VG (R130). Unsigned minimum with a scalar. -/
  | vminnVG (d : BitVec 7) (a : BitVec 7) (b : Src) (m : Bool)
  /-- VMAXN_VV (R130). Unsigned maximum with a vector. -/
  | vmaxnVV (d : BitVec 7) (a : BitVec 7) (b : BitVec 7) (m : Bool)
  /-- VMAXN_VG (R130). Unsigned maximum with a scalar. -/
  | vmaxnVG (d : BitVec 7) (a : BitVec 7) (b : Src) (m : Bool)
  /-- VSADD_VV (R130). Saturating add with a vector. -/
  | vsaddVV (d : BitVec 7) (a : BitVec 7) (b : BitVec 7) (m : Bool)
  /-- VSADD_VG (R130). Saturating add with a scalar. -/
  | vsaddVG (d : BitVec 7) (a : BitVec 7) (b : Src) (m : Bool)
  /-- VSSUB_VV (R130). Saturating subtract with a vector. -/
  | vssubVV (d : BitVec 7) (a : BitVec 7) (b : BitVec 7) (m : Bool)
  /-- VSSUB_VG (R130). Saturating subtract with a scalar. -/
  | vssubVG (d : BitVec 7) (a : BitVec 7) (b : Src) (m : Bool)
  /-- VSEQ_VV (R130). Mask bit set where elements are bitwise equal to a vector. -/
  | vseqVV (d : BitVec 7) (a : BitVec 7) (b : BitVec 7) (m : Bool)
  /-- VSEQ_VG (R130). Mask bit set where elements equal a scalar. -/
  | vseqVG (d : BitVec 7) (a : BitVec 7) (b : Src) (m : Bool)
  /-- VSNE_VV (R130). Mask bit set where elements differ from a vector. -/
  | vsneVV (d : BitVec 7) (a : BitVec 7) (b : BitVec 7) (m : Bool)
  /-- VSNE_VG (R130). Mask bit set where elements differ from a scalar. -/
  | vsneVG (d : BitVec 7) (a : BitVec 7) (b : Src) (m : Bool)
  /-- VSLT_VV (R130). Mask bit set where a < vector as i. -/
  | vsltVV (d : BitVec 7) (a : BitVec 7) (b : BitVec 7) (m : Bool)
  /-- VSLT_VG (R130). Mask bit set where a < scalar as i. -/
  | vsltVG (d : BitVec 7) (a : BitVec 7) (b : Src) (m : Bool)
  /-- VSLTN_VV (R130). Mask bit set where a < vector as n. -/
  | vsltnVV (d : BitVec 7) (a : BitVec 7) (b : BitVec 7) (m : Bool)
  /-- VSLTN_VG (R130). Mask bit set where a < scalar as n. -/
  | vsltnVG (d : BitVec 7) (a : BitVec 7) (b : Src) (m : Bool)
  /-- VMERGE_VV (R131). Selects a vector or a by the mask. -/
  | vmergeVV (d : BitVec 7) (a : BitVec 7) (b : BitVec 7) (m : Bool)
  /-- VMERGE_VG (R131). Selects a scalar or a by the mask. -/
  | vmergeVG (d : BitVec 7) (a : BitVec 7) (b : Src) (m : Bool)
  /-- VMV_VV (R131). Moves a vector into the destination. -/
  | vmvVV (d : BitVec 7) (b : BitVec 7) (m : Bool)
  /-- VMV_VG (R131). Moves a scalar into every destination element. -/
  | vmvVG (d : BitVec 7) (b : Src) (m : Bool)
  /-- VMV_VV_INVERTED (R69). Moves a vector into elements whose mask bit is 0. -/
  | vmvVVInverted (d : BitVec 7) (b : BitVec 7)
  /-- VMV_VG_INVERTED (R69). Moves a scalar into elements whose mask bit is 0. -/
  | vmvVGInverted (d : BitVec 7) (b : Src)
  /-- VFADD_VV (R132). Floating-point add of two vectors. -/
  | vfaddVV (d : BitVec 7) (a : BitVec 7) (b : BitVec 7) (m : Bool)
  /-- VFADD_VG (R132). Floating-point add of a scalar. -/
  | vfaddVG (d : BitVec 7) (a : BitVec 7) (b : Src) (m : Bool)
  /-- VFSUB_VV (R132). Floating-point subtract of a vector. -/
  | vfsubVV (d : BitVec 7) (a : BitVec 7) (b : BitVec 7) (m : Bool)
  /-- VFSUB_VG (R132). Floating-point subtract of a scalar. -/
  | vfsubVG (d : BitVec 7) (a : BitVec 7) (b : Src) (m : Bool)
  /-- VFMUL_VV (R132). Floating-point multiply by a vector. -/
  | vfmulVV (d : BitVec 7) (a : BitVec 7) (b : BitVec 7) (m : Bool)
  /-- VFMUL_VG (R132). Floating-point multiply by a scalar. -/
  | vfmulVG (d : BitVec 7) (a : BitVec 7) (b : Src) (m : Bool)
  /-- VFMA_VV (R132). Fused multiply-add with a vector. -/
  | vfmaVV (d : BitVec 7) (a : BitVec 7) (b : BitVec 7) (m : Bool)
  /-- VFMA_VG (R132). Fused multiply-add with a scalar. -/
  | vfmaVG (d : BitVec 7) (a : BitVec 7) (b : Src) (m : Bool)
  /-- VFNMS_VV (R132). Fused d − a × vector. -/
  | vfnmsVV (d : BitVec 7) (a : BitVec 7) (b : BitVec 7) (m : Bool)
  /-- VFNMS_VG (R132). Fused d − a × scalar. -/
  | vfnmsVG (d : BitVec 7) (a : BitVec 7) (b : Src) (m : Bool)
  /-- VFMIN_VV (R133). Floating-point minimum with a vector. -/
  | vfminVV (d : BitVec 7) (a : BitVec 7) (b : BitVec 7) (m : Bool)
  /-- VFMIN_VG (R133). Floating-point minimum with a scalar. -/
  | vfminVG (d : BitVec 7) (a : BitVec 7) (b : Src) (m : Bool)
  /-- VFMAX_VV (R133). Floating-point maximum with a vector. -/
  | vfmaxVV (d : BitVec 7) (a : BitVec 7) (b : BitVec 7) (m : Bool)
  /-- VFMAX_VG (R133). Floating-point maximum with a scalar. -/
  | vfmaxVG (d : BitVec 7) (a : BitVec 7) (b : Src) (m : Bool)
  /-- VFDIV_VV (R132). Floating-point divide by a vector. -/
  | vfdivVV (d : BitVec 7) (a : BitVec 7) (b : BitVec 7) (m : Bool)
  /-- VFDIV_VG (R132). Floating-point divide by a scalar. -/
  | vfdivVG (d : BitVec 7) (a : BitVec 7) (b : Src) (m : Bool)
  /-- VFSQRT (R132). Floating-point square root. -/
  | vfsqrt (d : BitVec 7) (a : BitVec 7) (m : Bool)
  /-- VFRSQRTE (R135). 12-bit estimate of the reciprocal square root. -/
  | vfrsqrte (d : BitVec 7) (a : BitVec 7) (m : Bool)
  /-- VFRECE (R136). 12-bit estimate of the reciprocal. -/
  | vfrece (d : BitVec 7) (a : BitVec 7) (m : Bool)
  /-- VFSGNJ_VV (R133). Magnitude of a with the sign of a vector. -/
  | vfsgnjVV (d : BitVec 7) (a : BitVec 7) (b : BitVec 7) (m : Bool)
  /-- VFSGNJ_VG (R133). Magnitude of a with the sign of a scalar. -/
  | vfsgnjVG (d : BitVec 7) (a : BitVec 7) (b : Src) (m : Bool)
  /-- VFSGNN_VV (R133). Magnitude of a with the inverted sign of a vector. -/
  | vfsgnnVV (d : BitVec 7) (a : BitVec 7) (b : BitVec 7) (m : Bool)
  /-- VFSGNN_VG (R133). Magnitude of a with the inverted sign of a scalar. -/
  | vfsgnnVG (d : BitVec 7) (a : BitVec 7) (b : Src) (m : Bool)
  /-- VFSGNX_VV (R133). Magnitude of a with xored signs of a vector. -/
  | vfsgnxVV (d : BitVec 7) (a : BitVec 7) (b : BitVec 7) (m : Bool)
  /-- VFSGNX_VG (R133). Magnitude of a with xored signs of a scalar. -/
  | vfsgnxVG (d : BitVec 7) (a : BitVec 7) (b : Src) (m : Bool)
  /-- VFEQ_VV (R133). Mask bit set where a = vector. -/
  | vfeqVV (d : BitVec 7) (a : BitVec 7) (b : BitVec 7) (m : Bool)
  /-- VFEQ_VG (R133). Mask bit set where a = scalar. -/
  | vfeqVG (d : BitVec 7) (a : BitVec 7) (b : Src) (m : Bool)
  /-- VFLT_VV (R133). Mask bit set where a < vector. -/
  | vfltVV (d : BitVec 7) (a : BitVec 7) (b : BitVec 7) (m : Bool)
  /-- VFLT_VG (R133). Mask bit set where a < scalar. -/
  | vfltVG (d : BitVec 7) (a : BitVec 7) (b : Src) (m : Bool)
  /-- VFLE_VV (R133). Mask bit set where a ≤ vector. -/
  | vfleVV (d : BitVec 7) (a : BitVec 7) (b : BitVec 7) (m : Bool)
  /-- VFLE_VG (R133). Mask bit set where a ≤ scalar. -/
  | vfleVG (d : BitVec 7) (a : BitVec 7) (b : Src) (m : Bool)
  /-- VFCLASS (R133). Writes the class word of each element. -/
  | vfclass (d : BitVec 7) (a : BitVec 7) (m : Bool)
  /-- VFCVTIF (R134). Converts integers to the named floating format. -/
  | vfcvtif (d : BitVec 7) (a : BitVec 7) (m : Bool)
  /-- VFCVTFI (R134). Converts floating values to saturated integers. -/
  | vfcvtfi (d : BitVec 7) (a : BitVec 7) (m : Bool)
  /-- VFCVTW (R134). Narrows FP32 to BF16, FP16, E4M3 or E5M2. -/
  | vfcvtw (d : BitVec 7) (a : BitVec 7) (m : Bool)
  /-- VCVTB (R137). Converts FP32 elements into a stream of self-describing blocks. -/
  | vcvtb (d : BitVec 7) (a : BitVec 7) (m : Bool)
  /-- VCVTX (R138). Widens narrow elements to FP32, or decodes a block stream. -/
  | vcvtx (d : BitVec 7) (a : BitVec 7) (m : Bool)
  /-- VBFLY (R139). Performs one Hadamard butterfly stage at distance h. -/
  | vbfly (d : BitVec 7) (a : BitVec 7) (b : Src) (m : Bool)
  /-- VBFLYC (R140). Fused pair: a Hadamard stage into the chain buffer, converted to blocks by VCVTBC. -/
  | vbflyc (a : BitVec 7) (b : Src) (pair : Option (BitVec 7 × Bool))
  /-- VPERM (R141). Permutes elements by an index vector. -/
  | vperm (d : BitVec 7) (a : BitVec 7) (b : BitVec 7) (m : Bool)
  /-- VSLUP (R141). Slides elements up by a scalar count. -/
  | vslup (d : BitVec 7) (a : BitVec 7) (b : Src) (m : Bool)
  /-- VSLDN (R141). Slides elements down by a scalar count. -/
  | vsldn (d : BitVec 7) (a : BitVec 7) (b : Src) (m : Bool)
  /-- VCOMP (R141). Compresses enabled elements to the front. -/
  | vcomp (d : BitVec 7) (a : BitVec 7) (m : Bool)
  /-- VEXPD (R141). Expands leading elements into enabled positions. -/
  | vexpd (d : BitVec 7) (a : BitVec 7) (m : Bool)
  /-- VIOTA (R141). Writes the prefix count of set mask bits. -/
  | viota (d : BitVec 7) (a : BitVec 7) (m : Bool)
  /-- VID (R141). Writes each element's index. -/
  | vid (d : BitVec 7) (m : Bool)
  /-- VREDSUM (R142). Integer sum reduction into element 0. -/
  | vredsum (d : BitVec 7) (a : BitVec 7) (m : Bool)
  /-- VREDMAX (R142). Integer maximum reduction into element 0. -/
  | vredmax (d : BitVec 7) (a : BitVec 7) (m : Bool)
  /-- VREDMIN (R142). Integer minimum reduction into element 0. -/
  | vredmin (d : BitVec 7) (a : BitVec 7) (m : Bool)
  /-- VFREDSUM (R142). Ordered floating-point sum reduction into element 0. -/
  | vfredsum (d : BitVec 7) (a : BitVec 7) (m : Bool)
  /-- VFREDMAX (R142). Floating-point maximum reduction into element 0. -/
  | vfredmax (d : BitVec 7) (a : BitVec 7) (m : Bool)
  /-- VCSWI (R144). Compare-swaps value-index register pairs for top-k. -/
  | vcswi (d : BitVec 7) (a : BitVec 7) (b : BitVec 7) (m : Bool)
  /-- VSEGSUM (R143). Writes each segment's total to its active elements. -/
  | vsegsum (d : BitVec 7) (a : BitVec 7) (b : BitVec 7) (m : Bool)
  /-- VSEGSCAN (R143). Writes inclusive prefix sums within segments. -/
  | vsegscan (d : BitVec 7) (a : BitVec 7) (b : BitVec 7) (m : Bool)
  /-- MAND (R145). Ands two masks. -/
  | mand (d : BitVec 7) (a : BitVec 7) (b : BitVec 7)
  /-- MOR (R145). Ors two masks. -/
  | mor (d : BitVec 7) (a : BitVec 7) (b : BitVec 7)
  /-- MXOR (R145). Xors two masks. -/
  | mxor (d : BitVec 7) (a : BitVec 7) (b : BitVec 7)
  /-- MANDN (R145). Ands a mask with the complement of another. -/
  | mandn (d : BitVec 7) (a : BitVec 7) (b : BitVec 7)
  /-- MNOT (R145). Complements a mask. -/
  | mnot (d : BitVec 7) (a : BitVec 7)
  /-- MPOPC (R145). Counts set mask bits below VL into a scalar. -/
  | mpopc (d : BitVec 7) (a : BitVec 7)
  /-- MFIRST (R145). Writes the index of the first set mask bit below VL, or −1. -/
  | mfirst (d : BitVec 7) (a : BitVec 7)
  /-- MTOV (R145). Writes mask bits as integer elements. -/
  | mtov (d : BitVec 7) (a : BitVec 7) (m : Bool)
  /-- MFRV (R145). Sets mask bits where elements are nonzero. -/
  | mfrv (d : BitVec 7) (a : BitVec 7) (m : Bool)
  /-- VLD (R154). Unit-stride vector load. -/
  | vld (d : BitVec 7) (a : BitVec 7) (m : Bool)
  /-- VLDS (R154). Strided vector load. -/
  | vlds (d : BitVec 7) (a : BitVec 7) (b : Src) (m : Bool)
  /-- VLDX (R154). Indexed vector load. -/
  | vldx (d : BitVec 7) (a : BitVec 7) (b : BitVec 7) (m : Bool)
  /-- VST (R154). Unit-stride vector store, breaking links and setting scratchpad full bits. -/
  | vst (d : BitVec 7) (a : BitVec 7) (m : Bool)
  /-- VSTS (R154). Strided vector store. -/
  | vsts (d : BitVec 7) (a : BitVec 7) (b : Src) (m : Bool)
  /-- VSTX (R154). Indexed vector store. -/
  | vstx (d : BitVec 7) (a : BitVec 7) (b : BitVec 7) (m : Bool)
  /-- VLDFF (R155). First-fault load that truncates VL at a fault above VSTART. -/
  | vldff (d : BitVec 7) (a : BitVec 7) (m : Bool)
  /-- VLDNR (R156). Load that reads zero for non-resident pages and reports them in m13. -/
  | vldnr (d : BitVec 7) (a : BitVec 7) (m : Bool)
  /-- VLDFE (R159). Scratchpad load that waits for each granule to be full. -/
  | vldfe (d : BitVec 7) (a : BitVec 7) (m : Bool)
  /-- VLDFEC (R159). Scratchpad load that waits for full and sets each granule empty atomically. -/
  | vldfec (d : BitVec 7) (a : BitVec 7) (m : Bool)
  /-- VGL (R160). Indexed load that replaces the link set with links on the lines read. -/
  | vgl (d : BitVec 7) (a : BitVec 7) (b : BitVec 7) (m : Bool)
  /-- VSC (R162). Indexed store that writes only elements whose line link is intact, reporting in m15. -/
  | vsc (d : BitVec 7) (a : BitVec 7) (b : BitVec 7) (m : Bool)
  /-- VLDT (R164). Loads one row of a tile named by a handle. -/
  | vldt (d : BitVec 7) (a : BitVec 7) (b : Src) (m : Bool)
  /-- VPF (R165). Prefetch hint for the lines of the active elements. -/
  | vpf (a : BitVec 7) (m : Bool)
  /-- THNEW (R177). Validates a tile descriptor and registers it, returning a handle or 0. -/
  | thnew (d : BitVec 7) (a : BitVec 7)
  /-- THFREE (R178). Frees a tile handle and advances its generation. -/
  | thfree (a : BitVec 7)
  /-- THACQR (R179). Requests read tenure on a tile and waits for the grant. -/
  | thacqr (a : BitVec 7)
  /-- THACQW (R179). Requests write tenure on a tile and waits for the grant. -/
  | thacqw (a : BitVec 7)
  /-- THREL (R180). Releases tenure, making the tenure's writes visible in one step. -/
  | threl (a : BitVec 7)
  /-- THSPLIT (R181). Cuts a tile handle at a row into two handles. -/
  | thsplit (d : BitVec 7) (a : BitVec 7) (b : Src)
  /-- THINFO (R182). Returns a description of a handle, or 0. -/
  | thinfo (d : BitVec 7) (a : BitVec 7)
  /-- MACQ (R183). Takes ownership of an accumulator tile, waiting if a running thread owns it. -/
  | macq (d : BitVec 7)
  /-- MRELZ (R184). Zeroes and releases an accumulator tile. -/
  | mrelz (d : BitVec 7)
  /-- MZERO (R184). Sets every element of an accumulator tile to +0. -/
  | mzero (d : BitVec 7)
  /-- MMA (R186). Accumulates A · Bᵀ into a tile row by row. -/
  | mma (d : BitVec 7) (a : BitVec 7) (b : Src)
  /-- MMAI (R186). Accumulates A · Bᵀ and advances MKOFF by 512. -/
  | mmai (d : BitVec 7) (a : BitVec 7) (b : Src)
  /-- MMAG (R186). Tile-gang multiply on the member's 128 rows of A. -/
  | mmag (d : BitVec 7) (a : BitVec 7) (b : Src)
  /-- MATV (R191). Moves an accumulator row into a vector register. -/
  | matv (d : BitVec 7) (a : BitVec 7) (b : Src)
  /-- MVTA (R191). Moves a vector register into an accumulator row. -/
  | mvta (d : BitVec 7) (a : BitVec 7) (b : Src)
  /-- MLDA (R192). Loads accumulator rows from packed memory. -/
  | mlda (d : BitVec 7) (a : BitVec 7)
  /-- MSTA (R192). Stores accumulator rows to packed memory. -/
  | msta (d : BitVec 7) (a : BitVec 7)
  /-- TAGST (R200). Writes the tag of one row owned by the tenant. -/
  | tagst (d : BitVec 7) (a : BitVec 7) (b : Src) (o : Order)
  /-- TAGLD (R200). Reads the tag of one row. -/
  | tagld (d : BitVec 7) (a : BitVec 7) (b : Src) (o : Order)
  /-- TCNT (R200). Counts matching rows of a window. -/
  | tcnt (d : BitVec 7) (a : BitVec 7) (b : Src) (o : Order)
  /-- TCLR (R200). Zeroes and untags matching rows. -/
  | tclr (d : BitVec 7) (a : BitVec 7) (b : Src) (o : Order)
  /-- TFILL (R200). Fills matching rows with a 64-bit value. -/
  | tfill (d : BitVec 7) (a : BitVec 7) (b : Src) (o : Order)
  /-- TRETAG (R200). Retags matching rows. -/
  | tretag (d : BitVec 7) (a : BitVec 7) (b : Src) (o : Order)
  /-- TINC (R200). Adds a saturating increment to matching rows' tag values. -/
  | tinc (d : BitVec 7) (a : BitVec 7) (b : Src) (o : Order)
  /-- TCOMP (R200). Writes the indices of matching rows to a list. -/
  | tcomp (d : BitVec 7) (a : BitVec 7) (b : Src) (o : Order)
  /-- TSUM (R200). Sums a doubleword over matching rows. -/
  | tsum (d : BitVec 7) (a : BitVec 7) (b : Src) (o : Order)
  /-- RCOPY (R207). Copies whole DRAM rows, in DRAM where subarrays match, else through the buffer. -/
  | rcopy (d : BitVec 7) (a : BitVec 7) (b : Src) (o : Order)
  /-- RCOPYS (R207). Copies rows only if every pair shares a subarray. -/
  | rcopys (d : BitVec 7) (a : BitVec 7) (b : Src) (o : Order)
  /-- RZERO (R207). Resets whole DRAM rows inside the DRAM. -/
  | rzero (d : BitVec 7) (a : BitVec 7) (b : Src) (o : Order)
  /-- CPY (R208). Copies a byte range by engine. -/
  | cpy (d : BitVec 7) (a : BitVec 7) (b : Src) (o : Order)
  /-- VSTRM (R209). Gathers indexed elements into the core's scratchpad. -/
  | vstrm (d : BitVec 7) (a : BitVec 7) (b : Src) (o : Order)
  /-- RHIST (R210). Counts tokens routed to each expert. -/
  | rhist (d : BitVec 7) (a : BitVec 7) (b : Src) (o : Order)
  /-- RSCAN (R210). Turns the histogram into capped slot offsets. -/
  | rscan (d : BitVec 7) (a : BitVec 7) (b : Src) (o : Order)
  /-- RSORT (R210). Copies token rows into expert segments and writes the inverse table. -/
  | rsort (d : BitVec 7) (a : BitVec 7) (b : Src) (o : Order)
  /-- RCOMB (R210). Adds gated slot rows back into the token output rows. -/
  | rcomb (d : BitVec 7) (a : BitVec 7) (b : Src) (o : Order)
  /-- EXPQ (R211). Pins a resident expert or begins its fetch. -/
  | expq (d : BitVec 7) (b : Src) (o : Order)
  /-- EXPPARK (R213). Adds a segment to the token wait queue for an expert. -/
  | exppark (d : BitVec 7) (a : BitVec 7) (b : Src) (o : Order)
  /-- EXPPOLL (R213). Removes the oldest ready entry of the token wait queue and passes its pin. -/
  | exppoll (d : BitVec 7) (a : BitVec 7) (b : Src) (o : Order)
  /-- EXPREL (R211). Removes one pin of an expert held by the tenant. -/
  | exprel (d : BitVec 7) (b : Src) (o : Order)
  /-- PGREQ (R211). Requests residency of the page holding an address. -/
  | pgreq (d : BitVec 7) (b : Src) (o : Order)
  /-- TLAUNCH (R276). Posts a launch block to a device-fed queue of the tenant. -/
  | tlaunch (d : BitVec 7) (a : BitVec 7) (b : Src) (o : Order)
  /-- ENGWAIT (R214). Waits for a ticket's command to complete and collects its status. -/
  | engwait (d : BitVec 7) (a : BitVec 7)
  /-- ENGTEST (R214). Collects a ticket's status if complete, without waiting. -/
  | engtest (d : BitVec 7) (a : BitVec 7)
  /-- COMMAND_ACCEPT (R201). An engine accepts a command and reads its parameter block once. -/
  | commandAccept (tid : BitVec 32) (slot : BitVec 5)
  /-- COMMAND_COMPLETION (R205). An engine command ends: RESULT is written, REL visibility and NOTIFY follow, and the final status is set. -/
  | commandCompletion (tid : BitVec 32) (slot : BitVec 5)
  /-- ACCORD_PACKET (R299). An accord packet arrives at a stack, fixing the stack's match point. -/
  | accordPacket (tid : BitVec 32) (stack : BitVec 4)
  /-- MATCH_AND_ACT (R300). A row's match-and-act event executes from its bank queue; the last one completes the TAG instruction. -/
  | matchAndAct (tid : BitVec 32) (row : BitVec 25)
  /-- REQUEST_PACKET (R235). A request packet arrives at a base die and its accesses are completed in arrival order. -/
  | requestPacket (stack : BitVec 4)
  /-- READ_REPLY (R234). The read reply of an element, or a write acknowledgement, returns, freeing the packet tag after the last. -/
  | readReply (port : BitVec 12) (reply : ReplyName)
  /-- TENURE_GRANT (R260). All claims of a tenure request become granted, after recalls, and the acquire completes. -/
  | tenureGrant (tid : BitVec 32)
  /-- DISPATCH_ROUND (R283). A dispatch round ends: urgent restore, aging and deficit placement are decided. -/
  | dispatchRound (die : BitVec 2)
  /-- PAUSE_EXPIRY (R117). The 64 counts of a PAUSE expire and the scalar stream continues. -/
  | pauseExpiry (tid : BitVec 32)
  /-- IDLE_EXPIRY (R117). 65,536 counts pass and IDLE ends. -/
  | idleExpiry (tid : BitVec 32)
  /-- TQREPLAY_REPLAY (R331). TQREPLAY KIND 0 re-issues the named accesses in replay-wait. -/
  | tqreplayReplay (tenant : BitVec 4) (sel : ReplaySel)
  /-- TQREPLAY_ANSWER (R331). TQREPLAY KIND 1 answers a system call with TQRESP in g3. -/
  | tqreplayAnswer (tenant : BitVec 4) (sel : ReplaySel)
  /-- TQREPLAY_DELIVER (R331). TQREPLAY KIND 2 sends the waiting thread into its handler. -/
  | tqreplayDeliver (tenant : BitVec 4) (sel : ReplaySel)
  /-- TQREPLAY_END (R331). TQREPLAY KIND 3 ends the thread fatally or the engine command with an access failure. -/
  | tqreplayEnd (tenant : BitVec 4) (sel : ReplaySel)
  /-- TQCFG_WRITE (R329). Writes the trap queue configuration, refused while records or replay-waits are pending. -/
  | tqcfgWrite (tenant : BitVec 4) (value : Dword)
  /-- TQPTR_HEAD_WRITE (R329). Advances the trap queue HEAD, letting waiting fatal records enter. -/
  | tqptrHeadWrite (tenant : BitVec 4) (value : Dword)
  /-- EXPERT_FETCH_DONE (R310). A fetch finishes: STATE becomes resident and waiting queue entries become ready. -/
  | expertFetchDone (tenant : BitVec 4) (expert : BitVec 16)
  /-- EXPERT_FETCH_FAILURE (R310). A fetch fails: STATE becomes failed and waiting entries are removed with 0x11. -/
  | expertFetchFailure (tenant : BitVec 4) (expert : BitVec 16)
  /-- EVICTION_END (R310). An eviction ends after translation invalidation, returning the entry to absent or to a recorded fetch. -/
  | evictionEnd (tenant : BitVec 4) (expert : BitVec 16)
  /-- EXPDONE_WRITE (R315). The host driver ends a host-assisted fetch with success or failure. -/
  | expdoneWrite (tenant : BitVec 4) (value : Dword)
  /-- HARPTR_HEAD_WRITE (R345). Consumes host-assisted request records, letting waiting fetches place records. -/
  | harptrHeadWrite (tenant : BitVec 4) (value : Dword)
  /-- ERTCFG_WRITE (R307). Writes the expert residency table base and size, refused while entries are active. -/
  | ertcfgWrite (tenant : BitVec 4) (value : Dword)
  /-- EXPPOOL_WRITE (R307). Writes the expert pool, refused on bad LOGSLOT or while entries are active. -/
  | exppoolWrite (tenant : BitVec 4) (value : Dword)
  /-- TOWNCTL_ASSIGN (R295). Starts assignment of a frame range to a tenant. -/
  | townctlAssign (stack : BitVec 4) (frame : BitVec 14) (countM1 : BitVec 14) (tenant : BitVec 4)
  /-- TOWNCTL_RELEASE (R295). Starts release of a frame range, untagging and zeroing its rows. -/
  | townctlRelease (stack : BitVec 4) (frame : BitVec 14) (countM1 : BitVec 14)
  /-- OWNERSHIP_ROW_CHANGE (R296). One row's ownership update takes its place in the row's order; the last ends BUSY. -/
  | ownershipRowChange (stack : BitVec 4)
  /-- QCFG_WRITE (R272). Configures or enables a hardware queue, under the queue limits. -/
  | qcfgWrite (queue : BitVec 10) (value : Dword)
  /-- QTAIL_WRITE (R272). Posts launch blocks by advancing TAIL, or is refused and sets ERRF. -/
  | qtailWrite (queue : BitVec 10) (value : Dword)
  /-- DOORBELL (R338). A VF doorbell write acts as a QTAIL write or is dropped. -/
  | doorbell (vf : BitVec 5) (value : Dword) (width : BitVec 4)
  /-- L2WQ_WRITE (R232). Writes a tenant's L2 way quota under its limits. -/
  | l2wqWrite (die : BitVec 2) (tenant : BitVec 4) (value : Dword)
  /-- DIRQ_WRITE (R267). Writes a tenant's tile directory quota under its limits. -/
  | dirqWrite (die : BitVec 2) (tenant : BitVec 4) (value : Dword)
  /-- CTXPOOL_WRITE (R279). Writes a tenant's context pool, refused while an image is in use. -/
  | ctxpoolWrite (die : BitVec 2) (tenant : BitVec 4) (value : Dword)
  /-- LANEDIS_WRITE (R335). Disables lane groups of a core for later grants. -/
  | lanedisWrite (die : BitVec 2) (core : BitVec 6) (value : Dword)
  /-- HDMBASE_WRITE (R341). Writes an HDM decoder window, refused while enabled. -/
  | hdmbaseWrite (die : BitVec 2) (k : BitVec 3) (value : Dword)
  /-- HDMCTL_WRITE (R341). Enables, disables or retargets an HDM decoder under overlap and region checks. -/
  | hdmctlWrite (die : BitVec 2) (k : BitVec 3) (value : Dword)
  /-- APBASE_WRITE (R346). Writes a Bruron Link aperture window, refused while enabled. -/
  | apbaseWrite (k : BitVec 6) (value : Dword)
  /-- APCTL_WRITE (R346). Enables, disables or retargets an aperture under overlap and region checks. -/
  | apctlWrite (k : BitVec 6) (value : Dword)
  /-- SPLIT_WRITE (R344). Selects hardware or host-assisted mode for requests that begin later. -/
  | splitWrite (tenant : BitVec 4) (value : Dword)
  /-- MANAGEMENT_REGISTER_WRITE (R373). Writes a management register without its own row, refused as a whole when out of range. -/
  | managementRegisterWrite (die : BitVec 2) (offset : BitVec 16) (value : Dword)
  /-- VF_FUNCTION_LEVEL_RESET (R339). Disables the tenant's queues, kills its threads and ends its replay-waits. -/
  | vfFunctionLevelReset (tenant : BitVec 4)
  /-- BRING_UP (R352). At reset, verifies firmware, trains links, bins refresh, zeroes tagged rows and enables functions. -/
  | bringUp
  /-- REFRESH (R238). A row is refreshed when its class period expires. -/
  | refresh (stack : BitVec 4) (bank : BitVec 10) (row : BitVec 16)
  /-- PATROL_SCRUB (R239). Patrol scrub reads a row, moving rows with correctable errors to faster classes. -/
  | patrolScrub (stack : BitVec 4) (bank : BitVec 10) (row : BitVec 16)
  /-- STACK_TEMPERATURE_HIGH (R238). Stack temperature above 85 °C halves every refresh period. -/
  | stackTemperatureHigh (stack : BitVec 4)
  /-- ACTIVATION_COUNT_BACK_OFF (R240). The DRAM signals back-off; the bank pays owed and targeted refreshes, then reopens. -/
  | activationCountBackOff (stack : BitVec 4) (bank : BitVec 10) (row : BitVec 16)
  /-- CRITICAL_TEMPERATURE (R241). A stack at 105 °C drains accepted packets and enters self-refresh. -/
  | criticalTemperature (stack : BitVec 4)
  /-- SELF_REFRESH_EXIT (R241). A stack cooled to 95 °C leaves self-refresh and serves held packets. -/
  | selfRefreshExit (stack : BitVec 4)
  /-- ISLAND_CLOCK_LOWERING (R351). A power limit or 95 °C die temperature lowers island clocks. -/
  | islandClockLowering (die : BitVec 2) (island : BitVec 4) (mhz : BitVec 10)
  /-- DIE_TEMPERATURE_STOP (R351). At 105 °C a die stops its islands and reports a machine error. -/
  | dieTemperatureStop (die : BitVec 2)
  /-- DIE_FAILURE (R336). A die fails: its threads, lines, claims, queues and commands are ended or poisoned. -/
  | dieFailure (die : BitVec 2)
  /-- LINK_LEVEL_REPLAY (R242). A flit CRC error is replayed, and after 8 replays the link is retrained or failed. -/
  | linkLevelReplay (link : BitVec 8)
  /-- PATH_FAILURE (R348). A Bruron Link path fails; new packets are held and unacknowledged ones re-sent on a new path. -/
  | pathFailure (peer : BitVec 12)
  /-- PATH_TIMEOUT (R348). After 100 ms with no path, aperture accesses complete as poisoned data. -/
  | pathTimeout (peer : BitVec 12)
  /-- BRURON_LINK_PACKET (R347). A peer packet arrives and is performed once by sequence number, duplicates discarded. -/
  | bruronLinkPacket (peer : BitVec 12) (seq : BitVec 32) (access : MemAccess)
  /-- PACKET_ACKNOWLEDGEMENT (R347). A destination acknowledges a packet and the sender drops its copy. -/
  | packetAcknowledgement (peer : BitVec 12) (seq : BitVec 32)
  /-- HOST_ACCESS (R262). A host, CXL or Bruron Link access is checked against claims and waits in the port buffer if tenured. -/
  | hostAccess (port : BitVec 2) (access : MemAccess)
  /-- BACK_INVALIDATE_SNOOP (R340). A back-invalidate snoop from a CXL device is served at the home slice. -/
  | backInvalidateSnoop (port : BitVec 2) (line : BitVec 45)
  /-- UNASSIGNED_FUNCTION_CODE (R62). An instruction word whose function code is not assigned, or whose fixed fields allow no listed step, raises an illegal-instruction trap. -/
  | unassignedFunctionCode (sub : BitVec 8)
  /-- L_PREFIX_MISPLACED (R59). An L prefix in slot 29, before a JALR, before another prefix, or before a non-extendable instruction raises illegal-instruction subcause 0x03 at the prefix's address. -/
  | lPrefixMisplaced
  /-- UNPAIRED_VCVTBC (R140). A VCVTBC that is not reached by fall-through from a VBFLYC raises subcause 0x14. -/
  | unpairedVcvtbc (d : BitVec 7) (m : Bool)
  /-- SOFT_ERROR (R242). A soft error corrupts SRAM, DRAM, tag SRAM or lane state, which the hop's check later corrects, counts, poisons or reports. -/
  | softError (site : ErrorSite)
  /-- STACK_TEMPERATURE_NORMAL (R238). Stack temperature falls back to 85 °C or below, and the refresh periods return to full length. -/
  | stackTemperatureNormal (stack : BitVec 4)
  /-- ISLAND_CLOCK_RAISE (R351). When the power limit or the 95 °C die temperature ends, island clocks return toward the nominal 850 MHz. -/
  | islandClockRaise (die : BitVec 2) (island : BitVec 4) (mhz : BitVec 10)
  /-- TENANT_REMOVAL (R268). System software removes a tenant: its threads end, its directory entries are freed with new generations, and its pins and ERT entries are cleared. -/
  | tenantRemoval (tenant : BitVec 4)
  /-- ATTESTATION_REQUEST (R350). A verifier's nonce starts the signing of an attestation report by firmware or through the host driver. -/
  | attestationRequest (nonce : BitVec 256)
  deriving DecidableEq, Repr

end Sys2Proof
end

