-- ==== Sys2Proof/Decode.lean ====
section
/-! DEFINITION. Reading instructions from the slots of a fetch line and writing them back (R45-R75). `decode` is
total: what is no instruction is rejected by name, with the subcause of R63. A definition that builds one of the last
constructors of Instr is marked noncomputable: Lean's compiled code has no tag for a constructor past the 245th; the
kernel evaluates it. -/

namespace Sys2Proof

/-- Why an encoding is refused (R63); the lowest subcause that applies is the one reported. -/
inductive Reject where
  | unassigned    -- 0x01: function code not assigned
  | reserved      -- 0x02: reserved or unused field not 0
  | misplaced     -- 0x03: L prefix misplaced
  | range         -- 0x04: register field or literal outside its legal range
  deriving DecidableEq, Repr

/-- The subcause of R63. -/
def Reject.sub : Reject → BitVec 8
  | .unassigned => 1
  | .reserved => 2
  | .misplaced => 3
  | .range => 4

/-- The row of the opcode table that a refused encoding falls under. -/
noncomputable def Reject.instr : Reject → Instr
  | .misplaced => .lPrefixMisplaced
  | r => .unassignedFunctionCode r.sub

/-- One slot of a fetch line: its word and its START bit (R45). -/
structure Slot where
  word  : Word
  start : Bool
  deriving DecidableEq, Repr

/-- The composed immediate of the I and B formats (R57, R58). -/
def Imm11.value (i : Imm11) : Dword :=
  match i.ext with
  | none => i.low.signExtend 64
  | some e => (e ++ i.low : BitVec 39).signExtend 64

/-- The composed immediate of JAL and the U format (R57, R58). -/
def Imm20.value (i : Imm20) : Dword :=
  match i.ext with
  | none => i.low.signExtend 64
  | some e => (e ++ i.low : BitVec 48).signExtend 64

/-- The constant that replaces g(b) under a prefix (R58). -/
def constB (e : BitVec 28) (b : BitVec 7) : Dword := (e ++ b : BitVec 35).signExtend 64

/-- Operand kinds of R56. -/
inductive FieldKind where
  | none | g | v | m | z | lit (max : Nat)
  deriving DecidableEq, Repr

/-- Is a field of this kind legal when it is used (R56)? -/
def FieldKind.inRange (k : FieldKind) (f : BitVec 7) : Bool :=
  match k with
  | .m => f.toNat < 16
  | .z => f.toNat < 2
  | .lit n => f.toNat ≤ n
  | _ => true

/-- An unused field must hold 0 (R5, R56). -/
def FieldKind.unusedOk (k : FieldKind) (f : BitVec 7) : Bool :=
  match k with
  | .none => f == 0
  | _ => true

/-- The fields of the three-register format (R55). -/
structure Fields where
  major : BitVec 4
  b     : BitVec 7
  a     : BitVec 7
  d     : BitVec 7
  func  : BitVec 7
  deriving DecidableEq, Repr

/-- Cut a word into the fields of R55. -/
def Fields.ofWord (w : Word) : Fields :=
  ⟨w.extractLsb' 28 4, w.extractLsb' 21 7, w.extractLsb' 14 7, w.extractLsb' 7 7, w.extractLsb' 0 7⟩

/-- The M bit of majors 0x7 to 0xA (R67). -/
def Fields.m (f : Fields) : Bool := f.func.extractLsb' 6 1 == 1

/-- func6 of majors 0x7 to 0xA (R67). -/
def Fields.func6 (f : Fields) : Nat := (f.func.extractLsb' 0 6).toNat

/-- imm11 of the I format (R55). -/
def Fields.imm11 (f : Fields) (x : Option (BitVec 28)) : Imm11 := ⟨f.b ++ f.func.extractLsb' 3 4, x⟩

/-- off11 of the B format (R55). -/
def Fields.off11 (f : Fields) (x : Option (BitVec 28)) : Imm11 := ⟨f.d ++ f.func.extractLsb' 3 4, x⟩

/-- imm20 of the U format and off20 of the J format (R55). -/
def Fields.imm20 (f : Fields) (x : Option (BitVec 28)) : Imm20 := ⟨f.b ++ f.a ++ f.func.extractLsb' 1 6, x⟩

/-- The order modifier's code (R73). -/
def Order.ofBits (c : BitVec 2) : Order :=
  if c = 0 then .plain else if c = 1 then .acq else if c = 2 then .rel else .acqrel

/-- The code of an order modifier (R73). -/
def Order.bits : Order → BitVec 2
  | .plain => 0
  | .acq => 1
  | .rel => 2
  | .acqrel => 3

/-- The checks of a three-register instruction, lowest subcause first (R5, R56, R59, R63). `extra` holds when a
bit outside the register fields breaks its reserved value. -/
def checkRrr (kd ka kb : FieldKind) (f : Fields) (x : Option (BitVec 28)) (extra : Bool) (i : Instr) : Except Reject Instr :=
  if !(kd.unusedOk f.d && ka.unusedOk f.a && kb.unusedOk f.b) || extra then .error .reserved
  else if x.isSome && kb != .g then .error .misplaced
  else if !(kd.inRange f.d && ka.inRange f.a && kb.inRange f.b) then .error .range
  else .ok i

/-- A shift immediate must lie in 0 to 63 (R57). -/
def checkShift (v : Imm11) (i : Instr) : Except Reject Instr :=
  if v.value.toNat < 64 then .ok i else .error .range

/-- SYS function codes (R64); 0x70 to 0x7F are hints whose fields are ignored (R62). -/
def decodeSys (f : Fields) (x : Option (BitVec 28)) : Except Reject Instr :=
  match f.func.toNat with
  | 0 => checkRrr .none .none .none f x false .nop
  | 1 => checkRrr .none .none .none f x false .exit
  | 2 => checkRrr .none (.lit 127) .none f x false (.trap f.a)
  | 3 => checkRrr .none .none .none f x false .ecall
  | 4 => checkRrr .none .none .none f x false .brk
  | 5 => checkRrr .none .none .none f x false .eret
  | 6 => checkRrr .none (.lit 127) (.lit 4) f x false (.fence f.a f.b)
  | 7 => checkRrr .none (.lit 31) .none f x false (.fencesv f.a)
  | 8 => checkRrr .none .none .none f x false .barc
  | 9 => checkRrr .none .none .none f x false .barg
  | 10 => checkRrr .none .g .none f x false (.bara f.a)
  | 11 => checkRrr .none .g .g f x false (.barw f.a ⟨f.b, x⟩)
  | 12 => checkRrr .none .none .none f x false .yield
  | 13 => checkRrr .none .none .none f x false .pause
  | 14 => checkRrr .none .g .none f x false (.kill f.a)
  | 15 => checkRrr .g .g .none f x false (.pubwm f.d f.a)
  | 16 => checkRrr .g .g .none f x false (.waitwm f.d f.a)
  | 17 => checkRrr .none .g .none f x false (.asw f.a)
  | 18 => checkRrr .none .g .g f x false (.tlbi f.a ⟨f.b, x⟩)
  | 19 => checkRrr .none .none .none f x false .idle
  | 20 => checkRrr .g .none .none f x false (.cyc f.d)
  | 21 => checkRrr .g .none .none f x false (.tid f.d)
  | 112 | 113 | 114 | 115 | 116 | 117 | 118 | 119 | 120 | 121 | 122 | 123 | 124 | 125 | 126 | 127 =>
    if x.isSome then .error .misplaced else .ok (.hint (f.func.extractLsb' 0 4) f.d f.a f.b)
  | _ => .error .unassigned

/-- ALU function codes (R65). -/
def decodeAlu (f : Fields) (x : Option (BitVec 28)) : Except Reject Instr :=
  match f.func.toNat with
  | 0 => checkRrr .g .g .g f x false (.add f.d f.a ⟨f.b, x⟩)
  | 1 => checkRrr .g .g .g f x false (.sub f.d f.a ⟨f.b, x⟩)
  | 2 => checkRrr .g .g .g f x false (.and f.d f.a ⟨f.b, x⟩)
  | 3 => checkRrr .g .g .g f x false (.or f.d f.a ⟨f.b, x⟩)
  | 4 => checkRrr .g .g .g f x false (.xor f.d f.a ⟨f.b, x⟩)
  | 5 => checkRrr .g .g .g f x false (.andn f.d f.a ⟨f.b, x⟩)
  | 6 => checkRrr .g .g .g f x false (.orn f.d f.a ⟨f.b, x⟩)
  | 7 => checkRrr .g .g .g f x false (.sll f.d f.a ⟨f.b, x⟩)
  | 8 => checkRrr .g .g .g f x false (.srl f.d f.a ⟨f.b, x⟩)
  | 9 => checkRrr .g .g .g f x false (.sra f.d f.a ⟨f.b, x⟩)
  | 10 => checkRrr .g .g .g f x false (.ror f.d f.a ⟨f.b, x⟩)
  | 11 => checkRrr .g .g .g f x false (.mul f.d f.a ⟨f.b, x⟩)
  | 12 => checkRrr .g .g .g f x false (.mulh f.d f.a ⟨f.b, x⟩)
  | 13 => checkRrr .g .g .g f x false (.mulhn f.d f.a ⟨f.b, x⟩)
  | 14 => checkRrr .g .g .g f x false (.div f.d f.a ⟨f.b, x⟩)
  | 15 => checkRrr .g .g .g f x false (.divn f.d f.a ⟨f.b, x⟩)
  | 16 => checkRrr .g .g .g f x false (.rem f.d f.a ⟨f.b, x⟩)
  | 17 => checkRrr .g .g .g f x false (.remn f.d f.a ⟨f.b, x⟩)
  | 18 => checkRrr .g .g .g f x false (.min f.d f.a ⟨f.b, x⟩)
  | 19 => checkRrr .g .g .g f x false (.max f.d f.a ⟨f.b, x⟩)
  | 20 => checkRrr .g .g .g f x false (.minn f.d f.a ⟨f.b, x⟩)
  | 21 => checkRrr .g .g .g f x false (.maxn f.d f.a ⟨f.b, x⟩)
  | 22 => checkRrr .g .g .g f x false (.slt f.d f.a ⟨f.b, x⟩)
  | 23 => checkRrr .g .g .g f x false (.sltn f.d f.a ⟨f.b, x⟩)
  | 24 => checkRrr .g .g .g f x false (.seq f.d f.a ⟨f.b, x⟩)
  | 25 => checkRrr .g .g .g f x false (.sne f.d f.a ⟨f.b, x⟩)
  | 26 => checkRrr .g .g .none f x false (.clz f.d f.a)
  | 27 => checkRrr .g .g .none f x false (.ctz f.d f.a)
  | 28 => checkRrr .g .g .none f x false (.popc f.d f.a)
  | 29 => checkRrr .g .g .g f x false (.bfx f.d f.a ⟨f.b, x⟩)
  | 30 => checkRrr .g .g .g f x false (.bfi f.d f.a ⟨f.b, x⟩)
  | _ => .error .unassigned

/-- ALUI func3 (R66). -/
def decodeAlui (f : Fields) (x : Option (BitVec 28)) : Except Reject Instr :=
  match (f.func.extractLsb' 0 3).toNat with
  | 0 => .ok (.addi f.d f.a (f.imm11 x))
  | 1 => .ok (.andi f.d f.a (f.imm11 x))
  | 2 => .ok (.ori f.d f.a (f.imm11 x))
  | 3 => .ok (.xori f.d f.a (f.imm11 x))
  | 4 => checkShift (f.imm11 x) (.slli f.d f.a (f.imm11 x))
  | 5 => checkShift (f.imm11 x) (.srli f.d f.a (f.imm11 x))
  | 6 => checkShift (f.imm11 x) (.srai f.d f.a (f.imm11 x))
  | 7 => .ok (.slti f.d f.a (f.imm11 x))
  | _ => .error .unassigned

/-- UPPER func1 (R66). -/
def decodeUpper (f : Fields) (x : Option (BitVec 28)) : Except Reject Instr :=
  match (f.func.extractLsb' 0 1).toNat with
  | 0 => .ok (.lih f.d (f.imm20 x))
  | 1 => .ok (.addpc f.d (f.imm20 x))
  | _ => .error .unassigned

/-- BR cond; the bit number of BBS and BBC is 0 to 63 (R66, R101). -/
def decodeBr (f : Fields) (x : Option (BitVec 28)) : Except Reject Instr :=
  match (f.func.extractLsb' 0 3).toNat with
  | 0 => .ok (.beq f.a f.b (f.off11 x))
  | 1 => .ok (.bne f.a f.b (f.off11 x))
  | 2 => .ok (.blt f.a f.b (f.off11 x))
  | 3 => .ok (.bge f.a f.b (f.off11 x))
  | 4 => .ok (.bltn f.a f.b (f.off11 x))
  | 5 => .ok (.bgen f.a f.b (f.off11 x))
  | 6 => if f.b.toNat < 64 then .ok (.bbs f.a f.b (f.off11 x)) else .error .range
  | 7 => if f.b.toNat < 64 then .ok (.bbc f.a f.b (f.off11 x)) else .error .range
  | _ => .error .unassigned

/-- JMP kind; bits [20:14] and [6:1] of JALR must be 0, and it takes no L word (R55, R59, R101). -/
def decodeJmp (f : Fields) (x : Option (BitVec 28)) : Except Reject Instr :=
  match (f.func.extractLsb' 0 1).toNat with
  | 0 => .ok (.jal f.d (f.imm20 x))
  | 1 => if f.a != 0 || f.func.extractLsb' 1 6 != 0 then .error .reserved
    else if x.isSome then .error .misplaced else .ok (.jalr f.d f.b)
  | _ => .error .unassigned

/-- LDST func3 (R66). -/
def decodeLdst (f : Fields) (x : Option (BitVec 28)) : Except Reject Instr :=
  match (f.func.extractLsb' 0 3).toNat with
  | 0 => .ok (.ldd f.d f.a (f.imm11 x))
  | 1 => .ok (.ldw f.d f.a (f.imm11 x))
  | 2 => .ok (.ldh f.d f.a (f.imm11 x))
  | 3 => .ok (.ldb f.d f.a (f.imm11 x))
  | 4 => .ok (.std f.d f.a (f.imm11 x))
  | 5 => .ok (.stw f.d f.a (f.imm11 x))
  | 6 => .ok (.sth f.d f.a (f.imm11 x))
  | 7 => .ok (.stb f.d f.a (f.imm11 x))
  | _ => .error .unassigned

/-- VALU func6 (R68, R69). -/
def decodeValu (f : Fields) (x : Option (BitVec 28)) : Except Reject Instr :=
  match f.func6 with
  | 0 => checkRrr .v .v .v f x false (.vaddVV f.d f.a f.b f.m)
  | 1 => checkRrr .v .v .g f x false (.vaddVG f.d f.a ⟨f.b, x⟩ f.m)
  | 2 => checkRrr .v .v .v f x false (.vsubVV f.d f.a f.b f.m)
  | 3 => checkRrr .v .v .g f x false (.vsubVG f.d f.a ⟨f.b, x⟩ f.m)
  | 4 => checkRrr .v .v .v f x false (.vmulVV f.d f.a f.b f.m)
  | 5 => checkRrr .v .v .g f x false (.vmulVG f.d f.a ⟨f.b, x⟩ f.m)
  | 6 => checkRrr .v .v .v f x false (.vmulhVV f.d f.a f.b f.m)
  | 7 => checkRrr .v .v .g f x false (.vmulhVG f.d f.a ⟨f.b, x⟩ f.m)
  | 8 => checkRrr .v .v .v f x false (.vmaccVV f.d f.a f.b f.m)
  | 9 => checkRrr .v .v .g f x false (.vmaccVG f.d f.a ⟨f.b, x⟩ f.m)
  | 10 => checkRrr .v .v .v f x false (.vandVV f.d f.a f.b f.m)
  | 11 => checkRrr .v .v .g f x false (.vandVG f.d f.a ⟨f.b, x⟩ f.m)
  | 12 => checkRrr .v .v .v f x false (.vorVV f.d f.a f.b f.m)
  | 13 => checkRrr .v .v .g f x false (.vorVG f.d f.a ⟨f.b, x⟩ f.m)
  | 14 => checkRrr .v .v .v f x false (.vxorVV f.d f.a f.b f.m)
  | 15 => checkRrr .v .v .g f x false (.vxorVG f.d f.a ⟨f.b, x⟩ f.m)
  | 16 => checkRrr .v .v .v f x false (.vsllVV f.d f.a f.b f.m)
  | 17 => checkRrr .v .v .g f x false (.vsllVG f.d f.a ⟨f.b, x⟩ f.m)
  | 18 => checkRrr .v .v .v f x false (.vsrlVV f.d f.a f.b f.m)
  | 19 => checkRrr .v .v .g f x false (.vsrlVG f.d f.a ⟨f.b, x⟩ f.m)
  | 20 => checkRrr .v .v .v f x false (.vsraVV f.d f.a f.b f.m)
  | 21 => checkRrr .v .v .g f x false (.vsraVG f.d f.a ⟨f.b, x⟩ f.m)
  | 22 => checkRrr .v .v .v f x false (.vminVV f.d f.a f.b f.m)
  | 23 => checkRrr .v .v .g f x false (.vminVG f.d f.a ⟨f.b, x⟩ f.m)
  | 24 => checkRrr .v .v .v f x false (.vmaxVV f.d f.a f.b f.m)
  | 25 => checkRrr .v .v .g f x false (.vmaxVG f.d f.a ⟨f.b, x⟩ f.m)
  | 26 => checkRrr .v .v .v f x false (.vminnVV f.d f.a f.b f.m)
  | 27 => checkRrr .v .v .g f x false (.vminnVG f.d f.a ⟨f.b, x⟩ f.m)
  | 28 => checkRrr .v .v .v f x false (.vmaxnVV f.d f.a f.b f.m)
  | 29 => checkRrr .v .v .g f x false (.vmaxnVG f.d f.a ⟨f.b, x⟩ f.m)
  | 30 => checkRrr .v .v .v f x false (.vsaddVV f.d f.a f.b f.m)
  | 31 => checkRrr .v .v .g f x false (.vsaddVG f.d f.a ⟨f.b, x⟩ f.m)
  | 32 => checkRrr .v .v .v f x false (.vssubVV f.d f.a f.b f.m)
  | 33 => checkRrr .v .v .g f x false (.vssubVG f.d f.a ⟨f.b, x⟩ f.m)
  | 34 => checkRrr .m .v .v f x false (.vseqVV f.d f.a f.b f.m)
  | 35 => checkRrr .m .v .g f x false (.vseqVG f.d f.a ⟨f.b, x⟩ f.m)
  | 36 => checkRrr .m .v .v f x false (.vsneVV f.d f.a f.b f.m)
  | 37 => checkRrr .m .v .g f x false (.vsneVG f.d f.a ⟨f.b, x⟩ f.m)
  | 38 => checkRrr .m .v .v f x false (.vsltVV f.d f.a f.b f.m)
  | 39 => checkRrr .m .v .g f x false (.vsltVG f.d f.a ⟨f.b, x⟩ f.m)
  | 40 => checkRrr .m .v .v f x false (.vsltnVV f.d f.a f.b f.m)
  | 41 => checkRrr .m .v .g f x false (.vsltnVG f.d f.a ⟨f.b, x⟩ f.m)
  | 42 => checkRrr .v .v .v f x false (.vmergeVV f.d f.a f.b f.m)
  | 43 => checkRrr .v .v .g f x false (.vmergeVG f.d f.a ⟨f.b, x⟩ f.m)
  | 44 => checkRrr .v .none .v f x false (.vmvVV f.d f.b f.m)
  | 45 => checkRrr .v .none .g f x false (.vmvVG f.d ⟨f.b, x⟩ f.m)
  | 48 => checkRrr .v .none .v f x (!f.m) (.vmvVVInverted f.d f.b)
  | 49 => checkRrr .v .none .g f x (!f.m) (.vmvVGInverted f.d ⟨f.b, x⟩)
  | _ => .error .unassigned

/-- VFP func6; form 1 of a unary operation is not assigned (R68). -/
def decodeVfp (f : Fields) (x : Option (BitVec 28)) : Except Reject Instr :=
  match f.func6 with
  | 0 => checkRrr .v .v .v f x false (.vfaddVV f.d f.a f.b f.m)
  | 1 => checkRrr .v .v .g f x false (.vfaddVG f.d f.a ⟨f.b, x⟩ f.m)
  | 2 => checkRrr .v .v .v f x false (.vfsubVV f.d f.a f.b f.m)
  | 3 => checkRrr .v .v .g f x false (.vfsubVG f.d f.a ⟨f.b, x⟩ f.m)
  | 4 => checkRrr .v .v .v f x false (.vfmulVV f.d f.a f.b f.m)
  | 5 => checkRrr .v .v .g f x false (.vfmulVG f.d f.a ⟨f.b, x⟩ f.m)
  | 6 => checkRrr .v .v .v f x false (.vfmaVV f.d f.a f.b f.m)
  | 7 => checkRrr .v .v .g f x false (.vfmaVG f.d f.a ⟨f.b, x⟩ f.m)
  | 8 => checkRrr .v .v .v f x false (.vfnmsVV f.d f.a f.b f.m)
  | 9 => checkRrr .v .v .g f x false (.vfnmsVG f.d f.a ⟨f.b, x⟩ f.m)
  | 10 => checkRrr .v .v .v f x false (.vfminVV f.d f.a f.b f.m)
  | 11 => checkRrr .v .v .g f x false (.vfminVG f.d f.a ⟨f.b, x⟩ f.m)
  | 12 => checkRrr .v .v .v f x false (.vfmaxVV f.d f.a f.b f.m)
  | 13 => checkRrr .v .v .g f x false (.vfmaxVG f.d f.a ⟨f.b, x⟩ f.m)
  | 14 => checkRrr .v .v .v f x false (.vfdivVV f.d f.a f.b f.m)
  | 15 => checkRrr .v .v .g f x false (.vfdivVG f.d f.a ⟨f.b, x⟩ f.m)
  | 16 => checkRrr .v .v .none f x false (.vfsqrt f.d f.a f.m)
  | 18 => checkRrr .v .v .none f x false (.vfrsqrte f.d f.a f.m)
  | 20 => checkRrr .v .v .none f x false (.vfrece f.d f.a f.m)
  | 22 => checkRrr .v .v .v f x false (.vfsgnjVV f.d f.a f.b f.m)
  | 23 => checkRrr .v .v .g f x false (.vfsgnjVG f.d f.a ⟨f.b, x⟩ f.m)
  | 24 => checkRrr .v .v .v f x false (.vfsgnnVV f.d f.a f.b f.m)
  | 25 => checkRrr .v .v .g f x false (.vfsgnnVG f.d f.a ⟨f.b, x⟩ f.m)
  | 26 => checkRrr .v .v .v f x false (.vfsgnxVV f.d f.a f.b f.m)
  | 27 => checkRrr .v .v .g f x false (.vfsgnxVG f.d f.a ⟨f.b, x⟩ f.m)
  | 28 => checkRrr .m .v .v f x false (.vfeqVV f.d f.a f.b f.m)
  | 29 => checkRrr .m .v .g f x false (.vfeqVG f.d f.a ⟨f.b, x⟩ f.m)
  | 30 => checkRrr .m .v .v f x false (.vfltVV f.d f.a f.b f.m)
  | 31 => checkRrr .m .v .g f x false (.vfltVG f.d f.a ⟨f.b, x⟩ f.m)
  | 32 => checkRrr .m .v .v f x false (.vfleVV f.d f.a f.b f.m)
  | 33 => checkRrr .m .v .g f x false (.vfleVG f.d f.a ⟨f.b, x⟩ f.m)
  | 34 => checkRrr .v .v .none f x false (.vfclass f.d f.a f.m)
  | 36 => checkRrr .v .v .none f x false (.vfcvtif f.d f.a f.m)
  | 38 => checkRrr .v .v .none f x false (.vfcvtfi f.d f.a f.m)
  | 40 => checkRrr .v .v .none f x false (.vfcvtw f.d f.a f.m)
  | _ => .error .unassigned

/-- The VCVTBC that completes a VBFLYC, when the slot after it holds one (R140): its d field and M bit. A VCVTBC whose a or b field is not 0
makes the pair illegal, with subcause 0x02 at the VBFLYC, whose address is the pair's; R63 and R140 do not say at which word (log 96). -/
def pairOf : List Slot → Option (Except Reject (BitVec 7 × Bool))
  | [] => none
  | s :: _ =>
    let f := Fields.ofWord s.word
    if s.start && f.major == 9 && f.func6 == 4 then
      if f.a == 0 && f.b == 0 then some (.ok (f.d, f.m)) else some (.error .reserved)
    else none

/-- VMISC func6, but for the fused pair (R70, R145). -/
def decodeVmiscPlain (f : Fields) (x : Option (BitVec 28)) : Except Reject Instr :=
  match f.func6 with
  | 0 => checkRrr .v .v .none f x false (.vcvtb f.d f.a f.m)
  | 1 => checkRrr .v .v .none f x false (.vcvtx f.d f.a f.m)
  | 2 => checkRrr .v .v .g f x false (.vbfly f.d f.a ⟨f.b, x⟩ f.m)
  | 5 => checkRrr .v .v .v f x false (.vperm f.d f.a f.b f.m)
  | 6 => checkRrr .v .v .g f x false (.vslup f.d f.a ⟨f.b, x⟩ f.m)
  | 7 => checkRrr .v .v .g f x false (.vsldn f.d f.a ⟨f.b, x⟩ f.m)
  | 8 => checkRrr .v .v .none f x false (.vcomp f.d f.a f.m)
  | 9 => checkRrr .v .v .none f x false (.vexpd f.d f.a f.m)
  | 10 => checkRrr .v .m .none f x false (.viota f.d f.a f.m)
  | 11 => checkRrr .v .none .none f x false (.vid f.d f.m)
  | 12 => checkRrr .v .v .none f x false (.vredsum f.d f.a f.m)
  | 13 => checkRrr .v .v .none f x false (.vredmax f.d f.a f.m)
  | 14 => checkRrr .v .v .none f x false (.vredmin f.d f.a f.m)
  | 15 => checkRrr .v .v .none f x false (.vfredsum f.d f.a f.m)
  | 16 => checkRrr .v .v .none f x false (.vfredmax f.d f.a f.m)
  | 17 => checkRrr .v .v .v f x false (.vcswi f.d f.a f.b f.m)
  | 18 => checkRrr .v .v .m f x false (.vsegsum f.d f.a f.b f.m)
  | 19 => checkRrr .v .v .m f x false (.vsegscan f.d f.a f.b f.m)
  | 20 => checkRrr .m .m .m f x f.m (.mand f.d f.a f.b)
  | 21 => checkRrr .m .m .m f x f.m (.mor f.d f.a f.b)
  | 22 => checkRrr .m .m .m f x f.m (.mxor f.d f.a f.b)
  | 23 => checkRrr .m .m .m f x f.m (.mandn f.d f.a f.b)
  | 24 => checkRrr .m .m .none f x f.m (.mnot f.d f.a)
  | 25 => checkRrr .g .m .none f x f.m (.mpopc f.d f.a)
  | 26 => checkRrr .g .m .none f x f.m (.mfirst f.d f.a)
  | 27 => checkRrr .v .m .none f x false (.mtov f.d f.a f.m)
  | 28 => checkRrr .m .v .none f x false (.mfrv f.d f.a f.m)
  | _ => .error .unassigned

/-- VMISC func6; `p` is what follows a VBFLYC (R70, R140). -/
noncomputable def decodeVmisc (f : Fields) (x : Option (BitVec 28)) (p : Option (Except Reject (BitVec 7 × Bool))) : Except Reject Instr :=
  match f.func6 with
  | 3 => match p with
    | some (.error e) => .error e
    | some (.ok q) => checkRrr .none .v .g f x f.m (.vbflyc f.a ⟨f.b, x⟩ (some q))
    | none => checkRrr .none .v .g f x f.m (.vbflyc f.a ⟨f.b, x⟩ none)
  | 4 => checkRrr .v .none .none f x false (.unpairedVcvtbc f.d f.m)
  | _ => decodeVmiscPlain f x

/-- VMEM func6 (R71). -/
def decodeVmem (f : Fields) (x : Option (BitVec 28)) : Except Reject Instr :=
  match f.func6 with
  | 0 => checkRrr .v .g .none f x false (.vld f.d f.a f.m)
  | 1 => checkRrr .v .g .g f x false (.vlds f.d f.a ⟨f.b, x⟩ f.m)
  | 2 => checkRrr .v .g .v f x false (.vldx f.d f.a f.b f.m)
  | 3 => checkRrr .v .g .none f x false (.vst f.d f.a f.m)
  | 4 => checkRrr .v .g .g f x false (.vsts f.d f.a ⟨f.b, x⟩ f.m)
  | 5 => checkRrr .v .g .v f x false (.vstx f.d f.a f.b f.m)
  | 6 => checkRrr .v .g .none f x false (.vldff f.d f.a f.m)
  | 7 => checkRrr .v .g .none f x false (.vldnr f.d f.a f.m)
  | 8 => checkRrr .v .g .none f x false (.vldfe f.d f.a f.m)
  | 9 => checkRrr .v .g .none f x false (.vldfec f.d f.a f.m)
  | 10 => checkRrr .v .g .v f x false (.vgl f.d f.a f.b f.m)
  | 11 => checkRrr .v .g .v f x false (.vsc f.d f.a f.b f.m)
  | 12 => checkRrr .v .g .g f x false (.vldt f.d f.a ⟨f.b, x⟩ f.m)
  | 13 => checkRrr .none .g .none f x false (.vpf f.a f.m)
  | _ => .error .unassigned

/-- MTX func7 (R72). -/
def decodeMtx (f : Fields) (x : Option (BitVec 28)) : Except Reject Instr :=
  match f.func.toNat with
  | 0 => checkRrr .g .g .none f x false (.thnew f.d f.a)
  | 1 => checkRrr .none .g .none f x false (.thfree f.a)
  | 2 => checkRrr .none .g .none f x false (.thacqr f.a)
  | 3 => checkRrr .none .g .none f x false (.thacqw f.a)
  | 4 => checkRrr .none .g .none f x false (.threl f.a)
  | 5 => checkRrr .g .g .g f x false (.thsplit f.d f.a ⟨f.b, x⟩)
  | 6 => checkRrr .g .g .none f x false (.thinfo f.d f.a)
  | 7 => checkRrr .z .none .none f x false (.macq f.d)
  | 8 => checkRrr .z .none .none f x false (.mrelz f.d)
  | 9 => checkRrr .z .none .none f x false (.mzero f.d)
  | 10 => checkRrr .z .g .g f x false (.mma f.d f.a ⟨f.b, x⟩)
  | 11 => checkRrr .z .g .g f x false (.mmai f.d f.a ⟨f.b, x⟩)
  | 12 => checkRrr .z .g .g f x false (.mmag f.d f.a ⟨f.b, x⟩)
  | 13 => checkRrr .v .z .g f x false (.matv f.d f.a ⟨f.b, x⟩)
  | 14 => checkRrr .z .v .g f x false (.mvta f.d f.a ⟨f.b, x⟩)
  | 15 => checkRrr .z .g .none f x false (.mlda f.d f.a)
  | 16 => checkRrr .z .g .none f x false (.msta f.d f.a)
  | _ => .error .unassigned

/-- func7 of TAG and ENG: op[4:0] (R73). -/
def Fields.op5 (f : Fields) : Nat := (f.func.extractLsb' 2 5).toNat

/-- func7 of TAG and ENG: order[1:0] (R73). -/
def Fields.order (f : Fields) : Order := .ofBits (f.func.extractLsb' 0 2)

/-- TAG ops (R73). -/
noncomputable def decodeTag (f : Fields) (x : Option (BitVec 28)) : Except Reject Instr :=
  match f.op5 with
  | 0 => let o := f.order; checkRrr .g .g .g f x false (.tagst f.d f.a ⟨f.b, x⟩ o)
  | 1 => let o := f.order; checkRrr .g .g .g f x false (.tagld f.d f.a ⟨f.b, x⟩ o)
  | 2 => let o := f.order; checkRrr .g .g .g f x false (.tcnt f.d f.a ⟨f.b, x⟩ o)
  | 3 => let o := f.order; checkRrr .g .g .g f x false (.tclr f.d f.a ⟨f.b, x⟩ o)
  | 4 => let o := f.order; checkRrr .g .g .g f x false (.tfill f.d f.a ⟨f.b, x⟩ o)
  | 5 => let o := f.order; checkRrr .g .g .g f x false (.tretag f.d f.a ⟨f.b, x⟩ o)
  | 6 => let o := f.order; checkRrr .g .g .g f x false (.tinc f.d f.a ⟨f.b, x⟩ o)
  | 7 => let o := f.order; checkRrr .g .g .g f x false (.tcomp f.d f.a ⟨f.b, x⟩ o)
  | 8 => let o := f.order; checkRrr .g .g .g f x false (.tsum f.d f.a ⟨f.b, x⟩ o)
  | _ => .error .unassigned

/-- ENG ops; ENGWAIT and ENGTEST have order 0b00 (R73). -/
noncomputable def decodeEng (f : Fields) (x : Option (BitVec 28)) : Except Reject Instr :=
  match f.op5 with
  | 0 => let o := f.order; checkRrr .g .g .g f x false (.rcopy f.d f.a ⟨f.b, x⟩ o)
  | 1 => let o := f.order; checkRrr .g .g .g f x false (.rcopys f.d f.a ⟨f.b, x⟩ o)
  | 2 => let o := f.order; checkRrr .g .g .g f x false (.rzero f.d f.a ⟨f.b, x⟩ o)
  | 3 => let o := f.order; checkRrr .g .g .g f x false (.cpy f.d f.a ⟨f.b, x⟩ o)
  | 4 => let o := f.order; checkRrr .g .g .g f x false (.vstrm f.d f.a ⟨f.b, x⟩ o)
  | 5 => let o := f.order; checkRrr .g .g .g f x false (.rhist f.d f.a ⟨f.b, x⟩ o)
  | 6 => let o := f.order; checkRrr .g .g .g f x false (.rscan f.d f.a ⟨f.b, x⟩ o)
  | 7 => let o := f.order; checkRrr .g .g .g f x false (.rsort f.d f.a ⟨f.b, x⟩ o)
  | 8 => let o := f.order; checkRrr .g .g .g f x false (.rcomb f.d f.a ⟨f.b, x⟩ o)
  | 9 => let o := f.order; checkRrr .g .none .g f x false (.expq f.d ⟨f.b, x⟩ o)
  | 10 => let o := f.order; checkRrr .g .g .g f x false (.exppark f.d f.a ⟨f.b, x⟩ o)
  | 11 => let o := f.order; checkRrr .g .g .g f x false (.exppoll f.d f.a ⟨f.b, x⟩ o)
  | 12 => let o := f.order; checkRrr .g .none .g f x false (.exprel f.d ⟨f.b, x⟩ o)
  | 13 => let o := f.order; checkRrr .g .none .g f x false (.pgreq f.d ⟨f.b, x⟩ o)
  | 14 => let o := f.order; checkRrr .g .g .g f x false (.tlaunch f.d f.a ⟨f.b, x⟩ o)
  | 15 => checkRrr .g .g .none f x (f.order != .plain) (.engwait f.d f.a)
  | 16 => checkRrr .g .g .none f x (f.order != .plain) (.engtest f.d f.a)
  | _ => .error .unassigned

/-- AMO op field [5:3], order [2:1], scope [0] (R74). -/
def decodeAmo (f : Fields) (x : Option (BitVec 28)) (o : Order) (dev : Bool) : Except Reject Instr :=
  match (f.func.extractLsb' 3 3).toNat with
  | 0 => checkRrr .g .g .g f x false (.amoadd f.d f.a ⟨f.b, x⟩ o dev)
  | 1 => checkRrr .g .g .g f x false (.amoswp f.d f.a ⟨f.b, x⟩ o dev)
  | 2 => checkRrr .g .g .g f x false (.amocas f.d f.a ⟨f.b, x⟩ o dev)
  | 3 => checkRrr .g .g .g f x false (.amoand f.d f.a ⟨f.b, x⟩ o dev)
  | 4 => checkRrr .g .g .g f x false (.amoor f.d f.a ⟨f.b, x⟩ o dev)
  | 5 => checkRrr .g .g .g f x false (.amoxor f.d f.a ⟨f.b, x⟩ o dev)
  | 6 => checkRrr .g .g .g f x false (.amomin f.d f.a ⟨f.b, x⟩ o dev)
  | 7 => checkRrr .g .g .g f x false (.amomax f.d f.a ⟨f.b, x⟩ o dev)
  | _ => .error .unassigned

/-- CFG func7 0x40 and above (R75). -/
def decodeCfgHigh (f : Fields) (x : Option (BitVec 28)) : Except Reject Instr :=
  match f.func.toNat with
  | 64 => checkRrr .g .g .g f x false (.setvl f.d f.a ⟨f.b, x⟩)
  | 65 => checkRrr .g .none .g f x false (.setvlmax f.d ⟨f.b, x⟩)
  | 66 => checkRrr .g (.lit 127) (.lit 127) f x false (.csrr f.d (f.a ++ f.b))
  | 67 => checkRrr (.lit 127) (.lit 127) .g f x false (.csrw (f.a ++ f.d) ⟨f.b, x⟩)
  | 68 => checkRrr (.lit 127) (.lit 127) .g f x false (.csrs (f.a ++ f.d) ⟨f.b, x⟩)
  | 69 => checkRrr (.lit 127) (.lit 127) .g f x false (.csrc (f.a ++ f.d) ⟨f.b, x⟩)
  | 70 => checkRrr .none .none .g f x false (.winsg ⟨f.b, x⟩)
  | 71 => checkRrr .none .none .g f x false (.winsv ⟨f.b, x⟩)
  | 72 => checkRrr .g .g .none f x false (.lat f.d f.a)
  | _ => .error .unassigned

/-- CFG (R74, R75). -/
def decodeCfg (f : Fields) (x : Option (BitVec 28)) : Except Reject Instr :=
  if f.m then decodeCfgHigh f x
  else decodeAmo f x (.ofBits (f.func.extractLsb' 1 2)) (f.func.extractLsb' 0 1 == 1)

/-- One instruction word with the ext28 of its L word, if any (R61). A second L word extends nothing (R59). -/
noncomputable def decodeWord (w : Word) (x : Option (BitVec 28)) (after : List Slot) : Except Reject Instr :=
  let f := Fields.ofWord w
  match f.major.toNat with
  | 0 => decodeSys f x
  | 1 => decodeAlu f x
  | 2 => decodeAlui f x
  | 3 => decodeUpper f x
  | 4 => decodeBr f x
  | 5 => decodeJmp f x
  | 6 => decodeLdst f x
  | 7 => decodeValu f x
  | 8 => decodeVfp f x
  | 9 => decodeVmisc f x (pairOf after)
  | 10 => decodeVmem f x
  | 11 => decodeMtx f x
  | 12 => decodeTag f x
  | 13 => decodeEng f x
  | 14 => decodeCfg f x
  | _ => .error .misplaced

/-- How many slots an instruction takes after its L word, if any: a fused pair takes two (R140). -/
def Instr.words : Instr → Nat
  | .vbflyc _ _ (some _) => 2
  | _ => 1

/-- What follows slot list `rest` in fall-through order: the rest of the line, else the next line (R52). -/
def following (rest next : List Slot) : List Slot :=
  match rest with
  | [] => next
  | _ => rest

/-- The instruction that begins at the head of `here`, the slots of a line from the place of arrival to slot 29, with
the number of slots it takes. `next` holds the next line's slots, which only a fused pair may reach (R52, R58-R60, R140). -/
noncomputable def decode (here next : List Slot) : Except Reject (Instr × Nat) :=
  match here with
  | [] => .error .unassigned
  | s :: rest =>
    if s.word.extractLsb' 28 4 == 0xF then
      match rest with
      | [] => .error .misplaced
      | t :: rest' =>
        if t.start then .error .misplaced
        else (decodeWord t.word (some (s.word.extractLsb' 0 28)) (following rest' next)).map fun i => (i, 1 + i.words)
    else (decodeWord s.word none (following rest next)).map fun i => (i, i.words)

/-- A word of the three-register format (R55). -/
def packRrr (major : BitVec 4) (b a d func : BitVec 7) : Word := major ++ b ++ a ++ d ++ func

/-- A word of the I format (R55). -/
def packI (major : BitVec 4) (imm : BitVec 11) (a d : BitVec 7) (func : BitVec 3) : Word :=
  packRrr major (imm.extractLsb' 4 7) a d (imm.extractLsb' 0 4 ++ func)

/-- A word of the B format (R55). -/
def packB (b a : BitVec 7) (off : BitVec 11) (cond : BitVec 3) : Word :=
  packRrr 4 b a (off.extractLsb' 4 7) (off.extractLsb' 0 4 ++ cond)

/-- A word of the U and J formats (R55). -/
def packU (major : BitVec 4) (imm : BitVec 20) (d : BitVec 7) (kind : BitVec 1) : Word :=
  packRrr major (imm.extractLsb' 13 7) (imm.extractLsb' 6 7) d (imm.extractLsb' 0 6 ++ kind)

/-- func7 of majors 0x7 to 0xA (R67). -/
def maskFunc (m : Bool) (func6 : BitVec 6) : BitVec 7 := BitVec.ofBool m ++ func6

/-- The slots of an instruction word with its L word, if any (R58). -/
def withExt (x : Option (BitVec 28)) (w : Word) : List Slot :=
  match x with
  | none => [⟨w, true⟩]
  | some e => [⟨(0xF : BitVec 4) ++ e, true⟩, ⟨w, false⟩]

/-- The slots of an instruction, from the encoding tables of R55 to R75. A row without an encoding gives no slot. -/
def encode : Instr → List Slot
  | .nop => withExt none (packRrr 0 0 0 0 0)
  | .exit => withExt none (packRrr 0 0 0 0 1)
  | .trap n => withExt none (packRrr 0 0 n 0 2)
  | .ecall => withExt none (packRrr 0 0 0 0 3)
  | .brk => withExt none (packRrr 0 0 0 0 4)
  | .eret => withExt none (packRrr 0 0 0 0 5)
  | .fence kinds scope => withExt none (packRrr 0 scope kinds 0 6)
  | .fencesv kind => withExt none (packRrr 0 0 kind 0 7)
  | .barc => withExt none (packRrr 0 0 0 0 8)
  | .barg => withExt none (packRrr 0 0 0 0 9)
  | .bara a => withExt none (packRrr 0 0 a 0 10)
  | .barw a b => withExt b.ext (packRrr 0 b.field a 0 11)
  | .yield => withExt none (packRrr 0 0 0 0 12)
  | .pause => withExt none (packRrr 0 0 0 0 13)
  | .kill a => withExt none (packRrr 0 0 a 0 14)
  | .pubwm d a => withExt none (packRrr 0 0 a d 15)
  | .waitwm d a => withExt none (packRrr 0 0 a d 16)
  | .asw a => withExt none (packRrr 0 0 a 0 17)
  | .tlbi a b => withExt b.ext (packRrr 0 b.field a 0 18)
  | .idle => withExt none (packRrr 0 0 0 0 19)
  | .cyc d => withExt none (packRrr 0 0 0 d 20)
  | .tid d => withExt none (packRrr 0 0 0 d 21)
  | .hint n d a b => withExt none (packRrr 0 b a d ((7 : BitVec 3) ++ n))
  | .add d a b => withExt b.ext (packRrr 1 b.field a d 0)
  | .sub d a b => withExt b.ext (packRrr 1 b.field a d 1)
  | .and d a b => withExt b.ext (packRrr 1 b.field a d 2)
  | .or d a b => withExt b.ext (packRrr 1 b.field a d 3)
  | .xor d a b => withExt b.ext (packRrr 1 b.field a d 4)
  | .andn d a b => withExt b.ext (packRrr 1 b.field a d 5)
  | .orn d a b => withExt b.ext (packRrr 1 b.field a d 6)
  | .sll d a b => withExt b.ext (packRrr 1 b.field a d 7)
  | .srl d a b => withExt b.ext (packRrr 1 b.field a d 8)
  | .sra d a b => withExt b.ext (packRrr 1 b.field a d 9)
  | .ror d a b => withExt b.ext (packRrr 1 b.field a d 10)
  | .mul d a b => withExt b.ext (packRrr 1 b.field a d 11)
  | .mulh d a b => withExt b.ext (packRrr 1 b.field a d 12)
  | .mulhn d a b => withExt b.ext (packRrr 1 b.field a d 13)
  | .div d a b => withExt b.ext (packRrr 1 b.field a d 14)
  | .divn d a b => withExt b.ext (packRrr 1 b.field a d 15)
  | .rem d a b => withExt b.ext (packRrr 1 b.field a d 16)
  | .remn d a b => withExt b.ext (packRrr 1 b.field a d 17)
  | .min d a b => withExt b.ext (packRrr 1 b.field a d 18)
  | .max d a b => withExt b.ext (packRrr 1 b.field a d 19)
  | .minn d a b => withExt b.ext (packRrr 1 b.field a d 20)
  | .maxn d a b => withExt b.ext (packRrr 1 b.field a d 21)
  | .slt d a b => withExt b.ext (packRrr 1 b.field a d 22)
  | .sltn d a b => withExt b.ext (packRrr 1 b.field a d 23)
  | .seq d a b => withExt b.ext (packRrr 1 b.field a d 24)
  | .sne d a b => withExt b.ext (packRrr 1 b.field a d 25)
  | .clz d a => withExt none (packRrr 1 0 a d 26)
  | .ctz d a => withExt none (packRrr 1 0 a d 27)
  | .popc d a => withExt none (packRrr 1 0 a d 28)
  | .bfx d a b => withExt b.ext (packRrr 1 b.field a d 29)
  | .bfi d a b => withExt b.ext (packRrr 1 b.field a d 30)
  | .addi d a imm => withExt imm.ext (packI 2 imm.low a d 0)
  | .andi d a imm => withExt imm.ext (packI 2 imm.low a d 1)
  | .ori d a imm => withExt imm.ext (packI 2 imm.low a d 2)
  | .xori d a imm => withExt imm.ext (packI 2 imm.low a d 3)
  | .slli d a imm => withExt imm.ext (packI 2 imm.low a d 4)
  | .srli d a imm => withExt imm.ext (packI 2 imm.low a d 5)
  | .srai d a imm => withExt imm.ext (packI 2 imm.low a d 6)
  | .slti d a imm => withExt imm.ext (packI 2 imm.low a d 7)
  | .lih d imm => withExt imm.ext (packU 3 imm.low d 0)
  | .addpc d imm => withExt imm.ext (packU 3 imm.low d 1)
  | .beq a b off => withExt off.ext (packB b a off.low 0)
  | .bne a b off => withExt off.ext (packB b a off.low 1)
  | .blt a b off => withExt off.ext (packB b a off.low 2)
  | .bge a b off => withExt off.ext (packB b a off.low 3)
  | .bltn a b off => withExt off.ext (packB b a off.low 4)
  | .bgen a b off => withExt off.ext (packB b a off.low 5)
  | .bbs a n off => withExt off.ext (packB n a off.low 6)
  | .bbc a n off => withExt off.ext (packB n a off.low 7)
  | .jal d off => withExt off.ext (packU 5 off.low d 0)
  | .jalr d a => withExt none (packRrr 5 a 0 d 1)
  | .ldd d a imm => withExt imm.ext (packI 6 imm.low a d 0)
  | .ldw d a imm => withExt imm.ext (packI 6 imm.low a d 1)
  | .ldh d a imm => withExt imm.ext (packI 6 imm.low a d 2)
  | .ldb d a imm => withExt imm.ext (packI 6 imm.low a d 3)
  | .std d a imm => withExt imm.ext (packI 6 imm.low a d 4)
  | .stw d a imm => withExt imm.ext (packI 6 imm.low a d 5)
  | .sth d a imm => withExt imm.ext (packI 6 imm.low a d 6)
  | .stb d a imm => withExt imm.ext (packI 6 imm.low a d 7)
  | .amoadd d a b o dev => withExt b.ext (packRrr 14 b.field a d ((0 : BitVec 1) ++ (0 : BitVec 3) ++ o.bits ++ BitVec.ofBool dev))
  | .amoswp d a b o dev => withExt b.ext (packRrr 14 b.field a d ((0 : BitVec 1) ++ (1 : BitVec 3) ++ o.bits ++ BitVec.ofBool dev))
  | .amocas d a b o dev => withExt b.ext (packRrr 14 b.field a d ((0 : BitVec 1) ++ (2 : BitVec 3) ++ o.bits ++ BitVec.ofBool dev))
  | .amoand d a b o dev => withExt b.ext (packRrr 14 b.field a d ((0 : BitVec 1) ++ (3 : BitVec 3) ++ o.bits ++ BitVec.ofBool dev))
  | .amoor d a b o dev => withExt b.ext (packRrr 14 b.field a d ((0 : BitVec 1) ++ (4 : BitVec 3) ++ o.bits ++ BitVec.ofBool dev))
  | .amoxor d a b o dev => withExt b.ext (packRrr 14 b.field a d ((0 : BitVec 1) ++ (5 : BitVec 3) ++ o.bits ++ BitVec.ofBool dev))
  | .amomin d a b o dev => withExt b.ext (packRrr 14 b.field a d ((0 : BitVec 1) ++ (6 : BitVec 3) ++ o.bits ++ BitVec.ofBool dev))
  | .amomax d a b o dev => withExt b.ext (packRrr 14 b.field a d ((0 : BitVec 1) ++ (7 : BitVec 3) ++ o.bits ++ BitVec.ofBool dev))
  | .setvl d a b => withExt b.ext (packRrr 14 b.field a d 64)
  | .setvlmax d b => withExt b.ext (packRrr 14 b.field 0 d 65)
  | .csrr d csr => withExt none (packRrr 14 (csr.extractLsb' 0 7) (csr.extractLsb' 7 7) d 0x42)
  | .csrw csr b => withExt b.ext (packRrr 14 b.field (csr.extractLsb' 7 7) (csr.extractLsb' 0 7) 67)
  | .csrs csr b => withExt b.ext (packRrr 14 b.field (csr.extractLsb' 7 7) (csr.extractLsb' 0 7) 68)
  | .csrc csr b => withExt b.ext (packRrr 14 b.field (csr.extractLsb' 7 7) (csr.extractLsb' 0 7) 69)
  | .winsg b => withExt b.ext (packRrr 14 b.field 0 0 70)
  | .winsv b => withExt b.ext (packRrr 14 b.field 0 0 71)
  | .lat d a => withExt none (packRrr 14 0 a d 72)
  | .vaddVV d a b m => withExt none (packRrr 7 b a d (maskFunc m 0))
  | .vaddVG d a b m => withExt b.ext (packRrr 7 b.field a d (maskFunc m 1))
  | .vsubVV d a b m => withExt none (packRrr 7 b a d (maskFunc m 2))
  | .vsubVG d a b m => withExt b.ext (packRrr 7 b.field a d (maskFunc m 3))
  | .vmulVV d a b m => withExt none (packRrr 7 b a d (maskFunc m 4))
  | .vmulVG d a b m => withExt b.ext (packRrr 7 b.field a d (maskFunc m 5))
  | .vmulhVV d a b m => withExt none (packRrr 7 b a d (maskFunc m 6))
  | .vmulhVG d a b m => withExt b.ext (packRrr 7 b.field a d (maskFunc m 7))
  | .vmaccVV d a b m => withExt none (packRrr 7 b a d (maskFunc m 8))
  | .vmaccVG d a b m => withExt b.ext (packRrr 7 b.field a d (maskFunc m 9))
  | .vandVV d a b m => withExt none (packRrr 7 b a d (maskFunc m 10))
  | .vandVG d a b m => withExt b.ext (packRrr 7 b.field a d (maskFunc m 11))
  | .vorVV d a b m => withExt none (packRrr 7 b a d (maskFunc m 12))
  | .vorVG d a b m => withExt b.ext (packRrr 7 b.field a d (maskFunc m 13))
  | .vxorVV d a b m => withExt none (packRrr 7 b a d (maskFunc m 14))
  | .vxorVG d a b m => withExt b.ext (packRrr 7 b.field a d (maskFunc m 15))
  | .vsllVV d a b m => withExt none (packRrr 7 b a d (maskFunc m 16))
  | .vsllVG d a b m => withExt b.ext (packRrr 7 b.field a d (maskFunc m 17))
  | .vsrlVV d a b m => withExt none (packRrr 7 b a d (maskFunc m 18))
  | .vsrlVG d a b m => withExt b.ext (packRrr 7 b.field a d (maskFunc m 19))
  | .vsraVV d a b m => withExt none (packRrr 7 b a d (maskFunc m 20))
  | .vsraVG d a b m => withExt b.ext (packRrr 7 b.field a d (maskFunc m 21))
  | .vminVV d a b m => withExt none (packRrr 7 b a d (maskFunc m 22))
  | .vminVG d a b m => withExt b.ext (packRrr 7 b.field a d (maskFunc m 23))
  | .vmaxVV d a b m => withExt none (packRrr 7 b a d (maskFunc m 24))
  | .vmaxVG d a b m => withExt b.ext (packRrr 7 b.field a d (maskFunc m 25))
  | .vminnVV d a b m => withExt none (packRrr 7 b a d (maskFunc m 26))
  | .vminnVG d a b m => withExt b.ext (packRrr 7 b.field a d (maskFunc m 27))
  | .vmaxnVV d a b m => withExt none (packRrr 7 b a d (maskFunc m 28))
  | .vmaxnVG d a b m => withExt b.ext (packRrr 7 b.field a d (maskFunc m 29))
  | .vsaddVV d a b m => withExt none (packRrr 7 b a d (maskFunc m 30))
  | .vsaddVG d a b m => withExt b.ext (packRrr 7 b.field a d (maskFunc m 31))
  | .vssubVV d a b m => withExt none (packRrr 7 b a d (maskFunc m 32))
  | .vssubVG d a b m => withExt b.ext (packRrr 7 b.field a d (maskFunc m 33))
  | .vseqVV d a b m => withExt none (packRrr 7 b a d (maskFunc m 34))
  | .vseqVG d a b m => withExt b.ext (packRrr 7 b.field a d (maskFunc m 35))
  | .vsneVV d a b m => withExt none (packRrr 7 b a d (maskFunc m 36))
  | .vsneVG d a b m => withExt b.ext (packRrr 7 b.field a d (maskFunc m 37))
  | .vsltVV d a b m => withExt none (packRrr 7 b a d (maskFunc m 38))
  | .vsltVG d a b m => withExt b.ext (packRrr 7 b.field a d (maskFunc m 39))
  | .vsltnVV d a b m => withExt none (packRrr 7 b a d (maskFunc m 40))
  | .vsltnVG d a b m => withExt b.ext (packRrr 7 b.field a d (maskFunc m 41))
  | .vmergeVV d a b m => withExt none (packRrr 7 b a d (maskFunc m 42))
  | .vmergeVG d a b m => withExt b.ext (packRrr 7 b.field a d (maskFunc m 43))
  | .vmvVV d b m => withExt none (packRrr 7 b 0 d (maskFunc m 44))
  | .vmvVG d b m => withExt b.ext (packRrr 7 b.field 0 d (maskFunc m 45))
  | .vmvVVInverted d b => withExt none (packRrr 7 b 0 d (maskFunc true 48))
  | .vmvVGInverted d b => withExt b.ext (packRrr 7 b.field 0 d (maskFunc true 49))
  | .vfaddVV d a b m => withExt none (packRrr 8 b a d (maskFunc m 0))
  | .vfaddVG d a b m => withExt b.ext (packRrr 8 b.field a d (maskFunc m 1))
  | .vfsubVV d a b m => withExt none (packRrr 8 b a d (maskFunc m 2))
  | .vfsubVG d a b m => withExt b.ext (packRrr 8 b.field a d (maskFunc m 3))
  | .vfmulVV d a b m => withExt none (packRrr 8 b a d (maskFunc m 4))
  | .vfmulVG d a b m => withExt b.ext (packRrr 8 b.field a d (maskFunc m 5))
  | .vfmaVV d a b m => withExt none (packRrr 8 b a d (maskFunc m 6))
  | .vfmaVG d a b m => withExt b.ext (packRrr 8 b.field a d (maskFunc m 7))
  | .vfnmsVV d a b m => withExt none (packRrr 8 b a d (maskFunc m 8))
  | .vfnmsVG d a b m => withExt b.ext (packRrr 8 b.field a d (maskFunc m 9))
  | .vfminVV d a b m => withExt none (packRrr 8 b a d (maskFunc m 10))
  | .vfminVG d a b m => withExt b.ext (packRrr 8 b.field a d (maskFunc m 11))
  | .vfmaxVV d a b m => withExt none (packRrr 8 b a d (maskFunc m 12))
  | .vfmaxVG d a b m => withExt b.ext (packRrr 8 b.field a d (maskFunc m 13))
  | .vfdivVV d a b m => withExt none (packRrr 8 b a d (maskFunc m 14))
  | .vfdivVG d a b m => withExt b.ext (packRrr 8 b.field a d (maskFunc m 15))
  | .vfsqrt d a m => withExt none (packRrr 8 0 a d (maskFunc m 16))
  | .vfrsqrte d a m => withExt none (packRrr 8 0 a d (maskFunc m 18))
  | .vfrece d a m => withExt none (packRrr 8 0 a d (maskFunc m 20))
  | .vfsgnjVV d a b m => withExt none (packRrr 8 b a d (maskFunc m 22))
  | .vfsgnjVG d a b m => withExt b.ext (packRrr 8 b.field a d (maskFunc m 23))
  | .vfsgnnVV d a b m => withExt none (packRrr 8 b a d (maskFunc m 24))
  | .vfsgnnVG d a b m => withExt b.ext (packRrr 8 b.field a d (maskFunc m 25))
  | .vfsgnxVV d a b m => withExt none (packRrr 8 b a d (maskFunc m 26))
  | .vfsgnxVG d a b m => withExt b.ext (packRrr 8 b.field a d (maskFunc m 27))
  | .vfeqVV d a b m => withExt none (packRrr 8 b a d (maskFunc m 28))
  | .vfeqVG d a b m => withExt b.ext (packRrr 8 b.field a d (maskFunc m 29))
  | .vfltVV d a b m => withExt none (packRrr 8 b a d (maskFunc m 30))
  | .vfltVG d a b m => withExt b.ext (packRrr 8 b.field a d (maskFunc m 31))
  | .vfleVV d a b m => withExt none (packRrr 8 b a d (maskFunc m 32))
  | .vfleVG d a b m => withExt b.ext (packRrr 8 b.field a d (maskFunc m 33))
  | .vfclass d a m => withExt none (packRrr 8 0 a d (maskFunc m 34))
  | .vfcvtif d a m => withExt none (packRrr 8 0 a d (maskFunc m 36))
  | .vfcvtfi d a m => withExt none (packRrr 8 0 a d (maskFunc m 38))
  | .vfcvtw d a m => withExt none (packRrr 8 0 a d (maskFunc m 40))
  | .vcvtb d a m => withExt none (packRrr 9 0 a d (maskFunc m 0))
  | .vcvtx d a m => withExt none (packRrr 9 0 a d (maskFunc m 1))
  | .vbfly d a b m => withExt b.ext (packRrr 9 b.field a d (maskFunc m 2))
  | .vbflyc a b pair => withExt b.ext (packRrr 9 b.field a 0 3) ++
      (match pair with
       | none => []
       | some (d, m) => [⟨packRrr 9 0 0 d (maskFunc m 4), true⟩])
  | .vperm d a b m => withExt none (packRrr 9 b a d (maskFunc m 5))
  | .vslup d a b m => withExt b.ext (packRrr 9 b.field a d (maskFunc m 6))
  | .vsldn d a b m => withExt b.ext (packRrr 9 b.field a d (maskFunc m 7))
  | .vcomp d a m => withExt none (packRrr 9 0 a d (maskFunc m 8))
  | .vexpd d a m => withExt none (packRrr 9 0 a d (maskFunc m 9))
  | .viota d a m => withExt none (packRrr 9 0 a d (maskFunc m 10))
  | .vid d m => withExt none (packRrr 9 0 0 d (maskFunc m 11))
  | .vredsum d a m => withExt none (packRrr 9 0 a d (maskFunc m 12))
  | .vredmax d a m => withExt none (packRrr 9 0 a d (maskFunc m 13))
  | .vredmin d a m => withExt none (packRrr 9 0 a d (maskFunc m 14))
  | .vfredsum d a m => withExt none (packRrr 9 0 a d (maskFunc m 15))
  | .vfredmax d a m => withExt none (packRrr 9 0 a d (maskFunc m 16))
  | .vcswi d a b m => withExt none (packRrr 9 b a d (maskFunc m 17))
  | .vsegsum d a b m => withExt none (packRrr 9 b a d (maskFunc m 18))
  | .vsegscan d a b m => withExt none (packRrr 9 b a d (maskFunc m 19))
  | .mand d a b => withExt none (packRrr 9 b a d (maskFunc false 20))
  | .mor d a b => withExt none (packRrr 9 b a d (maskFunc false 21))
  | .mxor d a b => withExt none (packRrr 9 b a d (maskFunc false 22))
  | .mandn d a b => withExt none (packRrr 9 b a d (maskFunc false 23))
  | .mnot d a => withExt none (packRrr 9 0 a d (maskFunc false 24))
  | .mpopc d a => withExt none (packRrr 9 0 a d (maskFunc false 25))
  | .mfirst d a => withExt none (packRrr 9 0 a d (maskFunc false 26))
  | .mtov d a m => withExt none (packRrr 9 0 a d (maskFunc m 27))
  | .mfrv d a m => withExt none (packRrr 9 0 a d (maskFunc m 28))
  | .vld d a m => withExt none (packRrr 10 0 a d (maskFunc m 0))
  | .vlds d a b m => withExt b.ext (packRrr 10 b.field a d (maskFunc m 1))
  | .vldx d a b m => withExt none (packRrr 10 b a d (maskFunc m 2))
  | .vst d a m => withExt none (packRrr 10 0 a d (maskFunc m 3))
  | .vsts d a b m => withExt b.ext (packRrr 10 b.field a d (maskFunc m 4))
  | .vstx d a b m => withExt none (packRrr 10 b a d (maskFunc m 5))
  | .vldff d a m => withExt none (packRrr 10 0 a d (maskFunc m 6))
  | .vldnr d a m => withExt none (packRrr 10 0 a d (maskFunc m 7))
  | .vldfe d a m => withExt none (packRrr 10 0 a d (maskFunc m 8))
  | .vldfec d a m => withExt none (packRrr 10 0 a d (maskFunc m 9))
  | .vgl d a b m => withExt none (packRrr 10 b a d (maskFunc m 10))
  | .vsc d a b m => withExt none (packRrr 10 b a d (maskFunc m 11))
  | .vldt d a b m => withExt b.ext (packRrr 10 b.field a d (maskFunc m 12))
  | .vpf a m => withExt none (packRrr 10 0 a 0 (maskFunc m 13))
  | .thnew d a => withExt none (packRrr 11 0 a d 0)
  | .thfree a => withExt none (packRrr 11 0 a 0 1)
  | .thacqr a => withExt none (packRrr 11 0 a 0 2)
  | .thacqw a => withExt none (packRrr 11 0 a 0 3)
  | .threl a => withExt none (packRrr 11 0 a 0 4)
  | .thsplit d a b => withExt b.ext (packRrr 11 b.field a d 5)
  | .thinfo d a => withExt none (packRrr 11 0 a d 6)
  | .macq d => withExt none (packRrr 11 0 0 d 7)
  | .mrelz d => withExt none (packRrr 11 0 0 d 8)
  | .mzero d => withExt none (packRrr 11 0 0 d 9)
  | .mma d a b => withExt b.ext (packRrr 11 b.field a d 10)
  | .mmai d a b => withExt b.ext (packRrr 11 b.field a d 11)
  | .mmag d a b => withExt b.ext (packRrr 11 b.field a d 12)
  | .matv d a b => withExt b.ext (packRrr 11 b.field a d 13)
  | .mvta d a b => withExt b.ext (packRrr 11 b.field a d 14)
  | .mlda d a => withExt none (packRrr 11 0 a d 15)
  | .msta d a => withExt none (packRrr 11 0 a d 16)
  | .tagst d a b o => withExt b.ext (packRrr 12 b.field a d ((0 : BitVec 5) ++ o.bits))
  | .tagld d a b o => withExt b.ext (packRrr 12 b.field a d ((1 : BitVec 5) ++ o.bits))
  | .tcnt d a b o => withExt b.ext (packRrr 12 b.field a d ((2 : BitVec 5) ++ o.bits))
  | .tclr d a b o => withExt b.ext (packRrr 12 b.field a d ((3 : BitVec 5) ++ o.bits))
  | .tfill d a b o => withExt b.ext (packRrr 12 b.field a d ((4 : BitVec 5) ++ o.bits))
  | .tretag d a b o => withExt b.ext (packRrr 12 b.field a d ((5 : BitVec 5) ++ o.bits))
  | .tinc d a b o => withExt b.ext (packRrr 12 b.field a d ((6 : BitVec 5) ++ o.bits))
  | .tcomp d a b o => withExt b.ext (packRrr 12 b.field a d ((7 : BitVec 5) ++ o.bits))
  | .tsum d a b o => withExt b.ext (packRrr 12 b.field a d ((8 : BitVec 5) ++ o.bits))
  | .rcopy d a b o => withExt b.ext (packRrr 13 b.field a d ((0 : BitVec 5) ++ o.bits))
  | .rcopys d a b o => withExt b.ext (packRrr 13 b.field a d ((1 : BitVec 5) ++ o.bits))
  | .rzero d a b o => withExt b.ext (packRrr 13 b.field a d ((2 : BitVec 5) ++ o.bits))
  | .cpy d a b o => withExt b.ext (packRrr 13 b.field a d ((3 : BitVec 5) ++ o.bits))
  | .vstrm d a b o => withExt b.ext (packRrr 13 b.field a d ((4 : BitVec 5) ++ o.bits))
  | .rhist d a b o => withExt b.ext (packRrr 13 b.field a d ((5 : BitVec 5) ++ o.bits))
  | .rscan d a b o => withExt b.ext (packRrr 13 b.field a d ((6 : BitVec 5) ++ o.bits))
  | .rsort d a b o => withExt b.ext (packRrr 13 b.field a d ((7 : BitVec 5) ++ o.bits))
  | .rcomb d a b o => withExt b.ext (packRrr 13 b.field a d ((8 : BitVec 5) ++ o.bits))
  | .expq d b o => withExt b.ext (packRrr 13 b.field 0 d ((9 : BitVec 5) ++ o.bits))
  | .exppark d a b o => withExt b.ext (packRrr 13 b.field a d ((10 : BitVec 5) ++ o.bits))
  | .exppoll d a b o => withExt b.ext (packRrr 13 b.field a d ((11 : BitVec 5) ++ o.bits))
  | .exprel d b o => withExt b.ext (packRrr 13 b.field 0 d ((12 : BitVec 5) ++ o.bits))
  | .pgreq d b o => withExt b.ext (packRrr 13 b.field 0 d ((13 : BitVec 5) ++ o.bits))
  | .tlaunch d a b o => withExt b.ext (packRrr 13 b.field a d ((14 : BitVec 5) ++ o.bits))
  | .engwait d a => withExt none (packRrr 13 0 a d ((15 : BitVec 5) ++ (0 : BitVec 2)))
  | .engtest d a => withExt none (packRrr 13 0 a d ((16 : BitVec 5) ++ (0 : BitVec 2)))
  | .commandAccept _ _ => []
  | .commandCompletion _ _ => []
  | .accordPacket _ _ => []
  | .matchAndAct _ _ => []
  | .requestPacket _ => []
  | .readReply _ _ => []
  | .tenureGrant _ => []
  | .dispatchRound _ => []
  | .pauseExpiry _ => []
  | .idleExpiry _ => []
  | .tqreplayReplay _ _ => []
  | .tqreplayAnswer _ _ => []
  | .tqreplayDeliver _ _ => []
  | .tqreplayEnd _ _ => []
  | .tqcfgWrite _ _ => []
  | .tqptrHeadWrite _ _ => []
  | .expertFetchDone _ _ => []
  | .expertFetchFailure _ _ => []
  | .evictionEnd _ _ => []
  | .expdoneWrite _ _ => []
  | .harptrHeadWrite _ _ => []
  | .ertcfgWrite _ _ => []
  | .exppoolWrite _ _ => []
  | .townctlAssign _ _ _ _ => []
  | .townctlRelease _ _ _ => []
  | .ownershipRowChange _ => []
  | .qcfgWrite _ _ => []
  | .qtailWrite _ _ => []
  | .doorbell _ _ _ => []
  | .l2wqWrite _ _ _ => []
  | .dirqWrite _ _ _ => []
  | .ctxpoolWrite _ _ _ => []
  | .lanedisWrite _ _ _ => []
  | .hdmbaseWrite _ _ _ => []
  | .hdmctlWrite _ _ _ => []
  | .apbaseWrite _ _ => []
  | .apctlWrite _ _ => []
  | .splitWrite _ _ => []
  | .managementRegisterWrite _ _ _ => []
  | .vfFunctionLevelReset _ => []
  | .bringUp => []
  | .refresh _ _ _ => []
  | .patrolScrub _ _ _ => []
  | .stackTemperatureHigh _ => []
  | .activationCountBackOff _ _ _ => []
  | .criticalTemperature _ => []
  | .selfRefreshExit _ => []
  | .islandClockLowering _ _ _ => []
  | .dieTemperatureStop _ => []
  | .dieFailure _ => []
  | .linkLevelReplay _ => []
  | .pathFailure _ => []
  | .pathTimeout _ => []
  | .bruronLinkPacket _ _ _ => []
  | .packetAcknowledgement _ _ => []
  | .hostAccess _ _ => []
  | .backInvalidateSnoop _ _ => []
  | .unassignedFunctionCode _ => []
  | .lPrefixMisplaced => []
  | .unpairedVcvtbc d m => withExt none (packRrr 9 0 0 d (maskFunc m 4))
  | .softError _ => []
  | .stackTemperatureNormal _ => []
  | .islandClockRaise _ _ _ => []
  | .tenantRemoval _ => []
  | .attestationRequest _ => []

/-- START bits of a run of words: each word begins an instruction unless it completes an L word (R45, R58). -/
def slotsOf : Bool → List Word → List Slot
  | _, [] => []
  | start, w :: ws => ⟨w, start⟩ :: slotsOf (!(start && w.extractLsb' 28 4 == 0xF)) ws

/-- The words of an instruction whose bits are numbered from the least significant bit of its first word; the
longest, a fused pair under an L word, has three. -/
def tableWords (w : Nat) : List Word :=
  [BitVec.ofNat 32 w, BitVec.ofNat 32 (w / 4294967296), BitVec.ofNat 32 (w / 18446744073709551616)]

/-- The instruction the decoder reads from `nbits` table bits `w`. -/
noncomputable def decodeTableWord (nbits w : Nat) : Option Instr :=
  match decode (slotsOf true (tableWords (w % 2 ^ nbits))) [] with
  | .ok (i, _) => some i
  | .error _ => none

end Sys2Proof
end

