-- ==== Sys2Proof/Config.lean ====
section
/-! DEFINITION. What the part fixes (R2, R224, R226-R228) and the values that the manual leaves open: the opaque
constants, of which no proof can know a value (the guide's free values). -/

namespace Sys2Proof.Config

/-- First address of the scratchpad window (R102, R148). -/
abbrev spadBase : Nat := 0x00FFFF0000000000

/-- Bytes of a core's scratchpad, 1.5 MiB (R2, R224). -/
abbrev spadBytes : Nat := 0x180000

/-- Bytes of the scratchpad window, 16 MiB (R148). -/
abbrev spadWindow : Nat := 0x1000000

/-- HBM occupies physical addresses below this (R226). -/
abbrev hbmEnd : Nat := 0x10000000000

/-- The tagged capacity is the physical addresses below this (R227). -/
abbrev taggedEnd : Nat := 0x400000000

/-- The CXL region (R228). -/
abbrev cxlBase : Nat := 0x10000000000
abbrev cxlEnd : Nat := 0x410000000000

/-- The aperture region (R228). -/
abbrev apertureBase : Nat := 0x1000000000000
abbrev apertureEnd : Nat := 0x100000000000000

/-- A tag of a row that belongs to no tenant (R193). -/
abbrev unownedTag : Word := 0xFF000000

/-- Enabled cores of a die (R2). -/
abbrev coresPerDie : Nat := 60

/-- Entries of a thread's vector queue and of a core's matrix queue (R288). -/
abbrev vectorQueueSize : Nat := 64
abbrev matrixQueueSize : Nat := 16

/-- Entries of a die's tile directory (R2). -/
abbrev directoryEntries : Nat := 16384

/-- Entries of a die's gang table (R277). -/
abbrev gangTableEntries : Nat := 128

/-- Entries of a tenant's token wait queue (R213). -/
abbrev tokenQueueSize : Nat := 256

/-- FREE VALUE (log 7). Cycles of the island clock that pass in the n-th step of the machine: the manual gives no
count of cycles for an instruction (R31). -/
opaque freeCycles : Nat → Nat

/-- FREE VALUE (log 14). Which of several free places the device takes in the n-th step for the k-th of its choices: the manual says
only that it takes a free one (R177, R278). -/
opaque freePlace : Nat → Nat → Nat

/-- FREE VALUE (log 15). What a command writes to RESULT at the n-th step when it fails in a way whose rule names no value (R204). -/
opaque freeResult : Nat → Dword

/-- FREE VALUE (log 16). The status of a command that consumes poisoned data, at the n-th step: the manual gives codes for other
failures only (R205). -/
opaque freeStatus : Nat → BitVec 16

/-- FREE VALUE (log 10). The seed that the base die of a stack draws at the n-th boot (R238). -/
opaque bloomSeed : Nat → Nat → Nat

/-- FREE VALUE (log 10). The k-th hash of a row number under a seed, for the refresh filters (R238). -/
opaque bloomHash : Nat → Nat → Nat → BitVec 14

/-- FREE VALUE (log 10). How many milliseconds a row of a bank keeps its data, as profiling at the n-th boot finds it (R239). -/
opaque retention : Nat → Nat → Nat → Nat

/-- FREE VALUE (log 17). A choice that the manual leaves to the device in the n-th step: whether a controller postpones a refresh (R240),
whether a link is retrained or fails after 8 replays (R242). -/
opaque freeChoice : Nat → Bool

/-- FREE VALUE (log 11). SHAKE256 of a byte string: the manual names the function and gives no definition of it (R349). -/
opaque shake256 : List Byte → BitVec 256

/-- FREE VALUE (log 11). The SHAKE256 digest, fused into the device, of the key that signs its firmware (R349). -/
opaque fusedKeyDigest : BitVec 256

/-- FREE VALUE (log 11). The fused rollback counter (R349). -/
opaque fusedRollback : Nat

/-- FREE VALUE (log 11). The fused secret from which the identity key is derived (R350). -/
opaque fusedSecret : BitVec 256

/-- FREE VALUE (log 11). The measurement of the firmware that the device holds when nothing else has been loaded (R349, log 88). -/
opaque ownMeasurement : BitVec 256

/-- FREE VALUE (log 11). Whether a signature of a digest verifies under an ML-DSA-65 key (R349). -/
opaque signatureValid : List Byte → BitVec 256 → List Byte → Bool

/-- FREE VALUE (log 11). Whether a firmware image accepts the next one, of which it takes the measurement, the signature and the version
(R349). -/
opaque imageAccepts : List Byte → BitVec 256 → List Byte → Nat → Bool

/-- FREE VALUE (log 11). The ML-DSA-65 identity key that a secret and the measurements of the firmware give (R350). -/
opaque identityKey : BitVec 256 → List (BitVec 256) → List Byte

/-- FREE VALUE (log 11). The ML-DSA-65 signature of a digest under an identity key (R350). -/
opaque signature : List Byte → BitVec 256 → List Byte

/-- FREE VALUE (log 11). The signature that the host driver obtains from an external signer (R344). -/
opaque hostSignature : BitVec 256 → List Byte

end Sys2Proof.Config
end

