-- ==== Sys2Proof/Machine/State.lean ====
section
/-! DEFINITION. The state of one Krynis Lanren package as plain data: threads and their registers, memory, tags, tiles,
engines, dispatchers, management space, base dies and fabric. -/

namespace Sys2Proof.Machine

/-- A finite map from numbers, ascending keys, no entry equal to the map's default value. -/
abbrev Sparse (α : Type) := List (Nat × α)

/-- A set of numbers, ascending. -/
abbrev NatSet := List Nat

/-- Bytes by location, in canonical form (`Memory.wf`). A location is a physical address, a scratchpad byte, or a byte of a
peer device (Loc, in Ops). -/
abbrev Memory := List Host.Cell

/-- What an unlisted location reads as (log 4). -/
abbrev Memory.blank : Byte := 0

/-- The canonical form from a lowest key on: keys strictly rising and no entry equal to what an unlisted location reads as. -/
def Memory.wfFrom : Nat → Memory → Bool
  | _, [] => true
  | lo, (k, v) :: r => decide (lo ≤ k) && v != Memory.blank && Memory.wfFrom (k + 1) r

/-- The canonical form of a memory. -/
def Memory.wf (m : Memory) : Bool := Memory.wfFrom 0 m

/-- Integer operations of the lanes on two elements (R130). -/
inductive IntOp where
  | add | sub | mul | mulh | macc | and | or | xor | sll | srl | sra | min | max | minn | maxn | sadd | ssub
  deriving DecidableEq, Repr

/-- Integer comparisons of the lanes (R130). -/
inductive IntCmp where
  | eq | ne | lt | ltn
  deriving DecidableEq, Repr

/-- Floating-point operations of the lanes on two elements and the destination (R132, R133). -/
inductive FpOp where
  | add | sub | mul | fma | fnms | min | max | div | sgnj | sgnn | sgnx
  deriving DecidableEq, Repr

/-- Floating-point comparisons (R133). -/
inductive FpCmp where
  | eq | lt | le
  deriving DecidableEq, Repr

/-- Unary floating-point operations (R132 to R136). -/
inductive FpUn where
  | sqrt | rsqrte | rece | cls | cvtif | cvtfi | cvtw
  deriving DecidableEq, Repr

/-- Permutations (R141). -/
inductive PermOp where
  | perm | slup | sldn | comp | expd | iota | id
  deriving DecidableEq, Repr

/-- Reductions (R142). -/
inductive RedOp where
  | sum | max | min | fsum | fmax
  deriving DecidableEq, Repr

/-- Mask logic (R145). -/
inductive MaskOp where
  | and | or | xor | andn | not
  deriving DecidableEq, Repr

/-- Vector memory operations (R146). -/
inductive VMemOp where
  | ld | lds | ldx | st | sts | stx | ldff | ldnr | ldfe | ldfec | gl | sc | ldt | pf
  deriving DecidableEq, Repr

/-- The second operand of a vector operation: a group, or the scalar captured at push (R126). -/
inductive VSrc where
  | vec (f : BitVec 7)
  | scalar
  deriving DecidableEq, Repr

/-- What an entry of the vector queue does: the fields of the instruction by shape. -/
inductive VOp where
  | int (op : IntOp) (d a : BitVec 7) (b : VSrc)
  | intCmp (op : IntCmp) (d a : BitVec 7) (b : VSrc)
  | merge (d a : BitVec 7) (b : VSrc)
  | move (d : BitVec 7) (b : VSrc) (inverted : Bool)
  | fp (op : FpOp) (d a : BitVec 7) (b : VSrc)
  | fpCmp (op : FpCmp) (d a : BitVec 7) (b : VSrc)
  | fpUn (op : FpUn) (d a : BitVec 7)
  | toBlocks (d a : BitVec 7)
  | widen (d a : BitVec 7)
  | butterfly (d a : BitVec 7)
  | chain (a d : BitVec 7) (m : Bool)
  | perm (op : PermOp) (d a b : BitVec 7)
  | reduce (op : RedOp) (d a : BitVec 7)
  | segment (scan : Bool) (d a b : BitVec 7)
  | swap (d a b : BitVec 7)
  | maskLogic (op : MaskOp) (d a b : BitVec 7)
  | maskToVec (d a : BitVec 7)
  | count (first : Bool) (d a : BitVec 7)
  | vecToMask (d a : BitVec 7)
  | mem (op : VMemOp) (d b : BitVec 7)
  | matv (d : BitVec 7) (z : BitVec 1)
  | mvta (z : BitVec 1) (a : BitVec 7)
  deriving DecidableEq, Repr

/-- The leaf entry through which an access goes, and the reads (location, bytes) that finding it has taken: those of the walk, and the line of a
fetch. -/
structure LeafRef where
  loc   : Nat
  reads : List (Nat × Nat)
  deriving DecidableEq, Repr

/-- What a translation gives: location, physical address, ordering kind, tagged and streaming attributes, and the leaf entry whose A and D bits
the access sets (none for the scratchpad). -/
structure Trans where
  loc       : Nat
  pa        : Nat
  kind      : BitVec 2
  tagged    : Bool
  streaming : Bool
  entry     : Option LeafRef
  deriving DecidableEq, Repr

/-- An element of a queued load whose access has run ahead (R151, R289): the value read, the location, and the leaf entry whose A bit the
element sets when its turn comes. -/
structure EarlyLoad where
  elem  : Nat
  value : Nat
  loc   : Nat
  entry : Option LeafRef
  deriving DecidableEq, Repr

/-- One entry of a thread's vector queue: the instruction and the values it captured at push (R20, R33). `epoch` tells which
entries captured the same VL (R149); `order` is its place among the thread's pushes (R170); `start` is the VSTART with which it first
began, `began` the VSTART of its present run, which no trap or pre-emption has interrupted (R155); `badBlock` is the block on which it has
faulted (R138); `badScalar` tells that a captured scalar is poisoned (R129); `flags` are those of the elements done so far, which reach FCSR
at commit (R20). `gov` is the governing mask as it stood before a stopped entry began, and its 64-bit words that hold poison, which are
still to be read (R27); `owed` are the granules that its elements done so far have stored to and that are still to be set full (R158); `early`
are the elements whose loads have run ahead. Its accesses wait for the executed scalar stores numbered below `waitStores` (R167). -/
structure VEntry where
  instr    : Instr
  addr     : BitVec 57
  op       : VOp
  masked   : Bool
  scalar   : Dword
  scalar2  : Dword
  vl       : BitVec 17
  vtype    : BitVec 14
  vwb      : BitVec 8
  rm       : BitVec 2
  xcls     : BitVec 4
  epoch    : Nat
  order    : Nat
  start    : Option Nat
  began    : Option Nat
  badBlock : Option Nat
  badScalar : Bool
  flags    : BitVec 5
  gov      : Option (NatSet × NatSet)
  owed     : List Nat
  early    : List EarlyLoad
  waitStores : Nat
  deriving DecidableEq, Repr

/-- A fault of an access or an instruction: cause and subcause (R318), faulting address, what TRAPADDR receives, kind of access
(R330), the absent expert that an expert-backed leaf named (R310), and the reads of page-table entries that finding it has taken and that have
still to leave their marks (R242, R347). -/
structure Flt where
  cause  : BitVec 8
  sub    : BitVec 8
  va     : Dword
  addr   : Dword
  access : BitVec 2
  expert : Option (BitVec 16)
  reads  : List (Nat × Nat)
  deriving DecidableEq, Repr

/-- Matrix-queue operations (R168). -/
inductive MOp where
  | zero | mma | mmai | mmag | lda | sta
  deriving DecidableEq, Repr

/-- What a row of MLDA or MSTA that has begun keeps while some of its columns stall: the translations of its elements (R192), those of its pages
(first address, bytes; R120), and the columns that have moved, with the values that MLDA has read (R153). -/
structure RowMove where
  trans : List Trans
  pages : List (Nat × Nat)
  moved : List (Nat × Nat)
  deriving DecidableEq, Repr

/-- No row has begun. -/
def RowMove.none : RowMove := { trans := [], pages := [], moved := [] }

/-- One entry of a core's matrix queue (R168), with the values captured at push (R30). `begun` tells that its rows have begun, `stopped` is the
fault that holds it, `due` tells that its trap is still to be taken (R188), and `inside` that it was taken in the handler (R331), `move` is
what its present row keeps, `waitStores` is as in a vector entry, `badBlocks` are the blocks on which it has faulted, `dead` those of them that it
has found still not valid (R188), and `flags` those of the rows done so far, which reach FCSR when it completes or stops (R96). -/
structure MEntry where
  tid       : BitVec 32
  instr     : Instr
  addr      : BitVec 57
  op        : MOp
  z         : BitVec 1
  a         : Dword
  b         : Dword
  mshape    : BitVec 26
  row       : BitVec 8
  mkoff     : BitVec 32
  order     : Nat
  waitStores : Nat
  move      : RowMove
  begun     : Bool
  stopped   : Option Flt
  due       : Bool
  inside    : Bool
  badBlocks : List Nat
  dead      : List Nat
  flags     : BitVec 5
  deriving DecidableEq, Repr

/-- The record of the most recent trap (R32). -/
structure TrapRegs where
  cause : Dword
  pc    : BitVec 57
  addr  : Dword
  elem  : BitVec 17
  save  : BitVec 57
  deriving DecidableEq, Repr

/-- What R320 saves on entry to the handler. -/
structure Snapshot where
  vl     : BitVec 17
  vtype  : BitVec 14
  vstart : BitVec 16
  vwb    : BitVec 8
  swb    : BitVec 9
  vq     : List VEntry
  epoch  : Nat
  deriving DecidableEq, Repr

/-- An access in replay-wait (R331, R332). `queued` tells whether its record entered the trap queue; `saved` are the trap
registers it will get back; `expert` is the expert that a D delivery waits for. -/
structure Replay where
  flt    : Flt
  count  : Nat
  queued : Bool
  saved  : TrapRegs
  expert : Option (BitVec 16)
  deriving DecidableEq, Repr

/-- A wait that keeps state while the thread is pre-empted (R285). `entering` is an arrival at a trap handler or at the entry of a launch
whose checks (R50) are still to be made, `starting` the same before a new thread has read ARGS (R280), `dying` an end whose record has no
room (R333), `killed` an end by KILL that waits for an accord (R116), `unreachable` a BARW that R111 makes trap, `killing` a KILL that waits
for the end of its target (R116). -/
inductive Wait where
  | none
  | barc (left : Bool)
  | barg (left : Bool)
  | barw (loc : Nat) (bound : Dword)
  | unreachable
  | killing (target : BitVec 32)
  | pause (start : Nat) (expired : Bool)
  | idle (start : Nat) (expired : Bool)
  | debugger
  | entering
  | starting
  | dying (flt : Flt) (count : Nat)
  | killed
  deriving DecidableEq, Repr

/-- A gather link on a 128-byte line (R160, R161). -/
structure Link where
  line   : Nat
  intact : Bool
  deriving DecidableEq, Repr

/-- A held ticket slot and the final status once the command has completed (R202). -/
structure Ticket where
  slot   : BitVec 5
  seq    : BitVec 16
  status : Option Dword
  deriving DecidableEq, Repr

/-- A scalar store that has executed and not yet performed (R244, R247), with its number among the thread's scalar stores. `kind` and
`streaming` are those of its page (R231, R247), `page` the translation that it has used: its address, the bytes of its page and the ASID (R120). It performs after the
vector and matrix loads pushed with an order below `afterVl` and the stores below `afterVs` (R167). -/
structure Pending where
  seq   : Nat
  loc   : Nat
  bytes : List Byte
  kind  : BitVec 2
  streaming : Bool
  page  : Option (Nat × Nat × BitVec 16)
  afterVl : Nat
  afterVs : Nat
  deriving DecidableEq, Repr

/-- The FENCESVs that a thread has executed (R167): scalar loads wait for the vector loads pushed with an order below `slVl` and the vector
stores below `slVs`, scalar stores likewise; vector loads pushed later wait for the scalar stores numbered below `vlSs`, vector stores for
those below `vsSs`. -/
structure StreamFence where
  slVl : Nat
  slVs : Nat
  ssVl : Nat
  ssVs : Nat
  vlSs : Nat
  vsSs : Nat
  deriving DecidableEq, Repr

/-- A thread before its first FENCESV. -/
def StreamFence.none : StreamFence := { slVl := 0, slVs := 0, ssVl := 0, ssVs := 0, vlSs := 0, vsSs := 0 }

/-- The fetched line that a thread stands in. -/
abbrev Line := BitVec 57 × List Byte

/-- One control thread: its identity (R8, R115), registers (R22 to R32), queues and waits. `arrived` is the line in
which its last transfer of control has arrived, as the arrival checks read it (R48, R50), and `arrivedPage` the bytes of that line's page; `lanes` are its lane groups (R335), of which
`grant` is the number; `stores` counts its scalar stores. `noAhead` tells that a load has found no slots to run ahead, so that address generation
has stopped until slots are freed (R289); `stale` that the device has changed the thread while it was parked and its image has still to follow. -/
structure Thread where
  tid       : BitVec 32
  crewIndex : BitVec 4
  sizeM1    : BitVec 3
  member    : BitVec 3
  gang      : BitVec 16
  tgpos     : BitVec 2
  tileg     : Bool
  ncrewM1   : BitVec 4
  taskSeq   : BitVec 32
  gangIdx   : BitVec 16
  queue     : BitVec 10
  sup       : Bool
  prio      : BitVec 2
  tenant    : BitVec 4
  spadLo    : Nat
  spadLen   : Nat
  image     : Nat
  parked    : Bool
  pc        : BitVec 57
  arrived   : Option Line
  arrivedPage : Nat
  scal      : Sparse Dword
  vregs     : Memory
  masks     : NatSet
  vl        : BitVec 17
  vtype     : BitVec 14
  vstart    : BitVec 16
  vcpAddr   : BitVec 57
  grant     : BitVec 7
  lanes     : BitVec 64
  fcsr      : BitVec 7
  xcls      : BitVec 4
  mshape    : BitVec 26
  mrow      : BitVec 8
  mkoff     : BitVec 32
  swb       : BitVec 9
  vwb       : BitVec 8
  trap      : TrapRegs
  trapVec   : BitVec 57
  atp       : Dword
  latReq    : BitVec 7
  inHandler : Bool
  snapshot  : Option Snapshot
  vq        : List VEntry
  epoch     : Nat
  order     : Nat
  replay    : Option Replay
  repeats   : List (BitVec 57 × Dword × BitVec 17 × Nat)
  wait      : Wait
  yielded   : Bool
  links     : List Link
  tickets   : List Ticket
  issued    : Nat
  sbuf      : List Pending
  stores    : Nat
  fences    : StreamFence
  holdStore : Bool
  holdVec   : Bool
  holdMat   : Bool
  noAhead   : Bool
  stale     : Bool
  badScal   : NatSet
  badVregs  : NatSet
  badMasks  : NatSet
  deriving DecidableEq, Repr

/-- A tile descriptor (R171). -/
structure Desc where
  base   : BitVec 57
  fmt    : BitVec 8
  rows1  : BitVec 16
  rows0  : BitVec 16
  rlen16 : BitVec 16
  stride0 : Dword
  stride1 : Dword
  deriving DecidableEq, Repr

/-- A live entry of a tile directory (R174, R258). -/
structure Tile where
  die    : BitVec 2
  index  : BitVec 14
  tenant : BitVec 4
  desc   : Desc
  deriving DecidableEq, Repr

/-- A tenure request or grant (R258 to R260): its claims cover the physical byte ranges (start, length) of the footprint. `started` tells
that its directory has started it, `slices` are the home slices of the footprint that it has still to pass, in ascending order, and `placed`
the slices at which it has a claim, each with the number of its arrival there. `pc` and `handler` tell where the THACQ that waits for it stands,
in the thread's handler or outside, and `done` that this instruction has completed (R179). -/
structure Claim where
  handle  : Dword
  tid     : BitVec 32
  write   : Bool
  granted : Bool
  ranges  : List (Nat × Nat)
  started : Bool
  slices  : List Nat
  placed  : List (Nat × Nat)
  pc      : BitVec 57
  handler : Bool
  done    : Bool
  deriving DecidableEq, Repr

/-- TAG operations (R73, R200). -/
inductive TagOp where
  | tagst | tagld | tcnt | tclr | tfill | tretag | tinc | tcomp | tsum
  deriving DecidableEq, Repr

/-- A window row whose match-and-act event has not performed: index, physical address, and the number with
which the row engine has put its event into the queue of the row's bank (R300). -/
structure AccordRow where
  index  : Nat
  pa     : Nat
  queued : Option Nat
  deriving DecidableEq, Repr

/-- An accord in flight (R196, R297): the tag that each stack's packet takes of the core's L1 miss port, its operation and operands, the
rows left, the stacks that its packets have reached, each with the number of the arrival (R299), the pages it holds the translations of
(ASID, first address, bytes), the TCOMP list's pieces (bytes, translation) and how many of its entries are written, and what has been
gathered (R303), with the row that the poisoned-data trap will name and its subcause. -/
structure Accord where
  tid     : BitVec 32
  tags    : List (BitVec 4 × BitVec 8)
  tenant  : BitVec 4
  op      : TagOp
  param   : Dword
  pattern : Dword
  d       : BitVec 7
  slots   : Nat
  va      : Nat
  rows    : List AccordRow
  arrivals : List (Nat × Nat)
  asid    : BitVec 16
  pages   : List (Nat × Nat)
  list    : List (Nat × Trans)
  listed  : Nat
  count   : Nat
  sum     : Nat
  hits    : List Nat
  badRow  : Option (Nat × BitVec 8)
  deriving DecidableEq, Repr

/-- ENG commands (R73). -/
inductive EngOp where
  | rcopy | rcopys | rzero | cpy | vstrm | rhist | rscan | rsort | rcomb
  | expq | exppark | exppoll | exprel | pgreq | tlaunch
  deriving DecidableEq, Repr

/-- Where a command stands: issued; accepted, with its work under way; waiting for an expert, a page or a task; ending, a stream whose element has
failed and whose lower elements are still to be written (R209); finishing, with RESULT still to be written; notifying, with the NOTIFY increment
still to be made (R201, R204, R205). -/
inductive Phase where
  | issued
  | accepted
  | waiting
  | ending (element : Nat)
  | finishing (status result : Dword)
  | notifying (status : Dword)
  deriving DecidableEq, Repr

/-- A sector of 32 bytes that an engine has read, by address / 32, with the positions of its poisoned bytes: units of work that share it take
its bytes from one read (R205). -/
structure Sector where
  line  : Nat
  bytes : List Byte
  bad   : List Nat
  deriving DecidableEq, Repr

/-- What a routing command does to one sector of a range that it writes: bytes that it copies (source, destination, count), a sector of the output
rows that it combines (by its number from address 0 on), or bytes that it writes at an address. -/
inductive RouteItem where
  | copy (src dst n : Nat)
  | combine (line : Nat)
  | write (va : Nat) (bytes : List Byte)
  deriving DecidableEq, Repr

/-- What a routing command has still to do once it has worked out its results (R210, R262): its items, the live routes of each token, as slot row
and gate, RESULT, and the tokens that it counts as dropped. -/
structure RoutePlan where
  items   : List RouteItem
  live    : List (List (Nat × Nat))
  result  : Dword
  dropped : Nat
  deriving DecidableEq, Repr

/-- An engine command in flight (R201). It keeps the issuer's translation root, level and scratchpad range, and the commands that ACQ waits
for. `acq` tells that the issuer waits for the acceptance (R203). `pages` are those whose translations the command keeps, that of its block until
it is accepted and those of its rows (first address, bytes; R120). `pairs` are the checked rows of a row command (source, destination); units
of work below `next`, and those in `early`, are done; `sectors` are those that units to come still use, `plan` what a routing command has
still to do. `expert` is the expert that EXPPARK or PGREQ waits for, `launch` the queue and block count of a posted task. `replay` is its
access in replay-wait, with the count, whether its record is queued and the expert it waits for; `repeats` the counts that go on, by unit of
work and address (R332). -/
structure Command where
  tid     : BitVec 32
  slot    : BitVec 5
  seq     : BitVec 16
  op      : EngOp
  tenant  : BitVec 4
  sup     : Bool
  atp     : Dword
  die     : BitVec 2
  core    : Nat
  spadLo  : Nat
  spadLen : Nat
  acq     : Bool
  before  : List (BitVec 5 × BitVec 16)
  block   : Dword
  blockAt : Nat
  arg     : Dword
  params  : List Dword
  phase   : Phase
  pages   : List (Nat × Nat)
  pairs   : List (Nat × Nat)
  next    : Nat
  early   : NatSet
  sectors : List Sector
  plan    : Option RoutePlan
  expert  : Option (BitVec 16)
  launch  : Option (BitVec 10 × Nat)
  replay  : Option (Flt × Nat × Bool × Option (BitVec 16))
  repeats : List (Nat × Dword × Nat)
  deriving DecidableEq, Repr

/-- An entry of a token wait queue (R213, R317). -/
structure Token where
  tenant : BitVec 4
  expert : BitVec 16
  p0     : Dword
  p1     : Dword
  p2     : Dword
  ready  : Bool
  tid    : BitVec 32
  slot   : BitVec 5
  seq    : BitVec 16
  deriving DecidableEq, Repr

/-- A fetch under way (R313 to R315), with the SRC and PAGES read when it began. `placed` tells that it holds a slot, `moved` how many bytes of
its image a hardware fetch has copied, `posted` that
its host-assisted record is written; `victim` is the expert whose eviction it waits for, `ended` the status that EXPDONE gave. -/
structure Fetch where
  tenant : BitVec 4
  expert : BitVec 16
  host   : Bool
  src    : Dword
  pages  : Nat
  placed : Bool
  moved  : Nat
  posted : Bool
  victim : Option (BitVec 16)
  ended  : Option Nat
  deriving DecidableEq, Repr

/-- A launch block (R274). -/
structure LaunchBlock where
  entry   : BitVec 57
  spad    : Nat
  tileg   : Bool
  gangsM1 : Nat
  ncrewM1 : Nat
  nthrM1  : Nat
  done    : Dword
  args    : Dword
  p0      : Dword
  p1      : Dword
  p2      : Dword
  p3      : Dword
  deriving DecidableEq, Repr

/-- A task: gangs that have entered the gang table and gangs not yet ended (R277, R281), whether its queue is host-fed, and the command that
posted it. -/
structure Task where
  queue   : BitVec 10
  seq     : Nat
  tenant  : BitVec 4
  sup     : Bool
  prio    : BitVec 2
  block   : LaunchBlock
  entered : Nat
  live    : Nat
  fatal   : Bool
  hostFed : Bool
  ticket  : Option (BitVec 32 × BitVec 5 × BitVec 16)
  deriving DecidableEq, Repr

/-- A gang is waiting, running or parked (R283). -/
inductive GangState where
  | waiting | running | parked
  deriving DecidableEq, Repr

/-- An entry of a die's gang table (R277, R283). -/
structure Gang where
  id       : BitVec 16
  die      : BitVec 2
  entry    : Nat
  queue    : BitVec 10
  seq      : Nat
  index    : Nat
  tenant   : BitVec 4
  state    : GangState
  level    : Nat
  atLevel  : Nat
  ran      : Nat
  parkedFor : Nat
  age      : Nat
  deriving DecidableEq, Repr

/-- An ownership update under way: the frames left and the next row of the first (R295, R296). -/
structure Ownership where
  stack  : BitVec 4
  assign : Bool
  tenant : BitVec 4
  frames : List Nat
  row    : Nat
  deriving DecidableEq, Repr

/-- OP of a request packet (R233). -/
inductive PacketOp where
  | read | write | maskedWrite | amo | row | accord
  deriving DecidableEq, Repr

/-- A request packet at a base die, with the fields of R233; the base address and the write data stand in `access`, the addresses of an indexed
run in `list`, and in `flits` the bytes that its elements write, by address: the data and the byte mask, by which no other byte of the run is written.
`owing` are the elements, counted from the run's first, whose reply or acknowledgement has not returned (R234); `damaged` tells
that the packet buffer has lost its data (R242), and `waited` that it has waited for the end of a self-refresh (R241). -/
structure Packet where
  op     : PacketOp
  stack  : BitVec 4
  port   : BitVec 12
  tag    : BitVec 8
  tenant : BitVec 4
  kind   : BitVec 2
  stride : BitVec 40
  len    : BitVec 17
  esz    : BitVec 2
  first  : BitVec 16
  access : MemAccess
  list   : List Nat
  flits  : List (Nat × Byte)
  owing  : List Nat
  damaged : Bool
  waited : Bool
  deriving DecidableEq, Repr

/-- A reply or an acknowledgement on its way back to a requester port, with the index of the element that it answers (R234); `poisoned` data
travels marked (R242). -/
structure Reply where
  port : BitVec 12
  tag  : BitVec 8
  index : Nat
  data : List Byte
  poisoned : Bool
  deriving DecidableEq, Repr

/-- A line that a core's L1 holds, whether the core has written it (R230), and the 8-byte words of this copy that hold an error which cannot be
corrected (R242). -/
structure L1Line where
  core     : Nat
  line     : Nat
  modified : Bool
  bad      : List Nat
  deriving DecidableEq, Repr

/-- A line that its home slice's L2 holds, the tenant whose access allocated it, and whether it is pinned (R230, R232). -/
structure L2Line where
  line   : Nat
  tenant : BitVec 4
  pinned : Bool
  deriving DecidableEq, Repr

/-- A packet sent over the Bruron Link and not yet acknowledged, and how many copies of it have been sent (R347, R348). -/
structure Unacked where
  peer   : BitVec 12
  seq    : BitVec 32
  access : MemAccess
  copies : Nat
  deriving DecidableEq, Repr

/-- A fault record whose write waits (R262, R330). -/
structure FaultRecord where
  tenant : BitVec 4
  flt    : Flt
  count  : Nat
  eng    : Bool
  slot   : BitVec 5
  tid    : BitVec 32
  elem   : BitVec 16
  deriving DecidableEq, Repr

/-- A firmware image: its bytes, its signer's key, its signature and its version (R349). -/
structure Firmware where
  code      : List Byte
  key       : List Byte
  signature : List Byte
  version   : Nat
  deriving DecidableEq, Repr

/-- A fetched copy of a line that a core holds (R48), with the bytes of the page that maps the line. -/
structure FetchCopy where
  core : Nat
  va   : Nat
  page : Nat
  asid : BitVec 16
  pa   : Nat
  bytes : List Byte
  deriving DecidableEq, Repr

/-- A cached translation: the valid leaf a translator holds for a page (R326, R327). `unit` is a core, or 256 + stack for the stream
translator of a base die. -/
structure CachedLeaf where
  unit  : Nat
  asid  : BitVec 16
  va    : Nat
  level : Nat
  leaf  : Dword
  entry : Nat
  deriving DecidableEq, Repr

/-- An attestation report (R350). -/
structure Attestation where
  nonce       : BitVec 256
  measurements : List (BitVec 256)
  settings    : List (Nat × Dword)
  hostSigned  : Bool
  signature   : List Byte
  deriving DecidableEq, Repr

/-- What the device reports to system software. -/
inductive Report where
  | launchFault (queue : BitVec 10) (seq : Nat) (block : Option LaunchBlock)
  | blockDiscarded (queue : BitVec 10)
  | doneFault (queue : BitVec 10) (seq : Nat) (flt : Flt)
  | tenureLost (die : BitVec 2) (tenant : BitVec 4)
  | dieFailed (die : BitVec 2) (tenant : BitVec 4) (first : Option Nat)
  | criticalTemperature (stack : BitVec 4)
  | selfRefreshEnded (stack : BitVec 4)
  | machineError (die : BitVec 2)
  | scrubError (row : Nat)
  | tagError (stack : BitVec 4) (entry : Nat)
  | writeFailed (loc : Nat)
  | message (tenant : BitVec 4) (vector : Nat) (address data : Dword)
  | linkFailed (link : BitVec 8)
  deriving DecidableEq, Repr

/-- One move of the agenda: an event row, a thread's turn, or one of the freedoms that the manual leaves to the device. -/
inductive Act where
  | event (i : Instr)
  | run (tid : BitVec 32)
  | performStore (tid : BitVec 32) (k : Nat)
  | performVector (tid : BitVec 32)
  | performMatrix (tid : BitVec 32)
  | engineUnit (tid : BitVec 32) (slot : BitVec 5) (k : Nat)
  | holdStores (tid : BitVec 32) (on : Bool)
  | holdVector (tid : BitVec 32) (on : Bool)
  | holdMatrix (tid : BitVec 32) (on : Bool)
  | deferAccords (on : Bool)
  | queueEvents (tid : BitVec 32) (stack : BitVec 4)
  | deferReplies (on : Bool)
  | deferClaims (on : Bool)
  | claimStep (tid : BitVec 32)
  | performRow (tid : BitVec 32)
  | loadEarly (tid : BitVec 32) (k i : Nat)
  | fillL1 (tid : BitVec 32) (va : Dword)
  | fillL2 (tid : BitVec 32) (va : Dword)
  | dropL1 (core line : Nat)
  | pinLine (line : Nat) (on : Bool)
  | hostCopy (line : Nat)
  | keepFetchCopy (tid : BitVec 32) (va : Nat)
  | dropFetchCopy (core va : Nat)
  | cacheLeaf (tid : BitVec 32) (va : Nat) (stream : Option (BitVec 4))
  | dropLeaf (unit va : Nat)
  | setLaunchAtp (tenant : BitVec 4) (atp : Dword)
  | setDebugger (tenant : BitVec 4) (on : Bool)
  | debuggerResume (tid : BitVec 32)
  | newPath (peer : BitVec 12)
  | loadFirmware (image : Firmware)
  | supplyRows (stack : BitVec 4) (bank : BitVec 10) (row : BitVec 16) (fast : Bool)
  | writeMsix (tenant : BitVec 4) (k : BitVec 7) (v : Dword)
  | systemWrite (pa : BitVec 56) (data : List Byte)
  | peerWrite (peer : BitVec 12) (address : BitVec 56) (data : List Byte)
  deriving DecidableEq, Repr

/-- The package. `ended` are the threads that have ended, as they return to system software (R9). `frames` maps stack × 16,384 + frame to
16 V + TENANT (R293). `cyc` is the count of each core and `uncore` that of each die's uncore clock (R31, R282), `slotGen`
is GEN by place, `requests` the experts asked for whose table entry still holds the request back (R262, R310), `launched` the blocks that a
queue's dispatcher has read, `removing` the tenants that system software is removing (R268), `msix` the pending vectors and `msixTable` the
table of each virtual function (R338), `l1` and `l2` the lines that caches hold, those of `l2` least recently used first (R230, R232),
`hostCopies` the lines of HBM that the host caches (R340), `hbmDeficit` and `hbmTurn` each stack's deficits and the tenant it served last
(R343), `inflight` the packets of the cores and engines that have performed and keep their tag (R234), `owed` the rows whose refresh is
postponed, by bank (R240), `refreshDue` the class, in milliseconds, under which a row was last refreshed (32 until then), `rowLists` the
rows that the host supplies for the filters, by bank (R344), `hostBinned` tells that the last bring-up built the filters from them,
`hostPaths` the failed paths that the host is to replace (R344), `fetchBad` the cores whose tile fetch buffer holds an error (R242),
`records` the fault records whose write waits at a claim (R262), `accordSeq` and `claimSeq` count arrivals of accord packets and of claims.
-/
structure State where
  threads    : List Thread
  ended      : List Thread
  cur        : BitVec 32
  mem        : Memory
  full       : NatSet
  poison     : NatSet
  tags       : Sparse Word
  quarantine : NatSet
  frames     : Sparse Nat
  ownership  : List Ownership
  accords    : List Accord
  tiles      : List Tile
  tileGen    : Sparse (BitVec 16)
  claims     : List Claim
  claimSeq   : Nat
  deferClaims : Bool
  acc        : Memory
  accOwner   : Sparse Nat
  accSaved   : List (BitVec 32 × Nat)
  accPoison  : NatSet
  macqWait   : List (Nat × BitVec 32)
  matq       : List MEntry
  cyc        : List Nat
  uncore     : List Nat
  mhz        : Sparse Nat
  mgmt       : Sparse Dword
  commands   : List Command
  tokens     : List Token
  fetches    : List Fetch
  requests   : List (BitVec 4 × BitVec 16)
  evicting   : List (BitVec 4 × BitVec 16 × Bool)
  tasks      : List Task
  gangs      : List Gang
  gangCount  : Nat
  launched   : Sparse Nat
  slotGen    : Sparse (BitVec 16)
  rounds     : List Nat
  deficit    : Sparse Nat
  lastQueue  : Sparse Nat
  launchAtp  : Sparse Dword
  debuggers  : NatSet
  removing   : NatSet
  msix       : NatSet
  msixTable  : Sparse Dword
  l1         : List L1Line
  l2         : List L2Line
  hostCopies : NatSet
  packets    : List Packet
  replies    : List Reply
  inflight   : List Packet
  portBuffer : List (BitVec 12 × MemAccess)
  hbmDeficit : Sparse Int
  hbmTurn    : Sparse Nat
  fetchCopies : List FetchCopy
  leaves     : List CachedLeaf
  owed       : List (Nat × BitVec 16)
  refreshDue : Sparse Nat
  rowLists   : List (Nat × BitVec 16 × Bool)
  hostBinned : Bool
  f32        : NatSet
  f64        : NatSet
  hot        : NatSet
  selfRefresh : NatSet
  softErrors : NatSet
  corrected  : Nat
  boots      : Nat
  bringUp    : Nat
  firmware   : List Firmware
  firmwareOk : Bool
  failedDies : NatSet
  stoppedDies : NatSet
  lostLines  : NatSet
  linkCount  : Sparse Nat
  downPaths  : NatSet
  hostPaths  : NatSet
  deadPaths  : NatSet
  sendSeq    : Sparse (BitVec 32)
  unacked    : List Unacked
  received   : List (BitVec 12 × BitVec 32)
  records    : List FaultRecord
  reports    : List Report
  attested   : List Attestation
  fetchBad   : NatSet
  deferAccords : Bool
  deferReplies : Bool
  accordSeq  : Nat
  agenda     : List Act
  steps      : Nat
  deriving DecidableEq, Repr

/-- Why the machine stops. -/
inductive Fault where
  /-- An instruction of a scalar stream is executed while no thread is the current one: raised by every such meaning, and never
  by a step, which executes an instruction only for a thread that exists. Safe: no run reaches it. -/
  | noThread
  deriving DecidableEq, Repr

/-- Why an instruction has no meaning. -/
inductive Refusal where
  /-- The instruction has not been modelled: answered by an arm of exec that gives no meaning. Safe. -/
  | notModelled (mnemonic : String)
  deriving DecidableEq, Repr

/-- The package right after reset: no thread, blank memory, every frame released (R294), every register at its reset value; the
device's next work is bring-up (R352). -/
def State.reset : State where
  threads := []
  ended := []
  cur := 0
  mem := []
  full := []
  poison := []
  tags := []
  quarantine := []
  frames := []
  ownership := []
  accords := []
  tiles := []
  tileGen := []
  claims := []
  claimSeq := 0
  deferClaims := false
  acc := []
  accOwner := []
  accSaved := []
  accPoison := []
  macqWait := []
  matq := []
  cyc := List.replicate 256 0
  uncore := List.replicate 4 0
  mhz := []
  mgmt := []
  commands := []
  tokens := []
  fetches := []
  requests := []
  evicting := []
  tasks := []
  gangs := []
  gangCount := 0
  launched := []
  slotGen := []
  rounds := [0, 0, 0, 0]
  deficit := []
  lastQueue := []
  launchAtp := []
  debuggers := []
  removing := []
  msix := []
  msixTable := []
  l1 := []
  l2 := []
  hostCopies := []
  packets := []
  replies := []
  inflight := []
  portBuffer := []
  hbmDeficit := []
  hbmTurn := []
  fetchCopies := []
  leaves := []
  owed := []
  refreshDue := []
  rowLists := []
  hostBinned := false
  f32 := []
  f64 := []
  hot := []
  selfRefresh := []
  softErrors := []
  corrected := 0
  boots := 0
  bringUp := 0
  firmware := []
  firmwareOk := true
  failedDies := []
  stoppedDies := []
  lostLines := []
  linkCount := []
  downPaths := []
  hostPaths := []
  deadPaths := []
  sendSeq := []
  unacked := []
  received := []
  records := []
  reports := []
  attested := []
  fetchBad := []
  deferAccords := false
  deferReplies := false
  accordSeq := 0
  agenda := []
  steps := 0

end Sys2Proof.Machine
end

