-- ==== Sys2Proof/Machine/Maps.lean ====
section
/-! DEFINITION. Operations on the finite maps, sets and byte memory of the state, and the byte order (R4). -/

namespace Sys2Proof.Machine

/-- The entry of a key, or the map's default value. -/
def Sparse.get {α : Type} (dflt : α) : Sparse α → Nat → α
  | [], _ => dflt
  | (k, v) :: r, key => if k = key then v else Sparse.get dflt r key

/-- Puts an entry where its key belongs. -/
def Sparse.place {α : Type} (key : Nat) (v : α) : Sparse α → Sparse α
  | [] => [(key, v)]
  | (k, w) :: r => if key < k then (key, v) :: (k, w) :: r else (k, w) :: Sparse.place key v r

/-- Sets an entry; an entry equal to the default leaves the map. -/
def Sparse.set {α : Type} [DecidableEq α] (dflt : α) (m : Sparse α) (key : Nat) (v : α) : Sparse α :=
  let r := m.filter fun e => e.1 != key
  if v = dflt then r else Sparse.place key v r

/-- Drops every entry whose key lies in `lo … lo + len - 1`. -/
def Sparse.clear {α : Type} (m : Sparse α) (lo len : Nat) : Sparse α :=
  m.filter fun e => e.1 < lo || lo + len ≤ e.1

/-- The entries whose key lies in `lo … lo + len - 1`. -/
def Sparse.range {α : Type} (m : Sparse α) (lo len : Nat) : Sparse α :=
  m.filter fun e => lo ≤ e.1 && e.1 < lo + len

namespace NatSet

def mem (s : NatSet) (k : Nat) : Bool := s.elem k

def insert : NatSet → Nat → NatSet
  | [], k => [k]
  | a :: r, k => if k < a then k :: a :: r else if k = a then a :: r else a :: insert r k

def remove (s : NatSet) (k : Nat) : NatSet := s.filter (· != k)

/-- Puts `k` in the set or out of it. -/
def put (s : NatSet) (k : Nat) (b : Bool) : NatSet := if b then s.insert k else s.remove k

def clear (s : NatSet) (lo len : Nat) : NatSet := s.filter fun k => k < lo || lo + len ≤ k

/-- Whether some member lies in `lo … lo + len - 1`. -/
def meets (s : NatSet) (lo len : Nat) : Bool := s.any fun k => lo ≤ k && k < lo + len

end NatSet

/-- The byte of a location. -/
def Memory.read (m : Memory) (k : Nat) : Byte := Sparse.get Memory.blank m k

/-- Writes one byte; a byte equal to what an unlisted location reads as is not listed. -/
def Memory.write (m : Memory) (k : Nat) (v : Byte) : Memory := Sparse.set Memory.blank m k v

/-- The `n` bytes from a location on, lowest first. -/
def Memory.readBytes (m : Memory) (k : Nat) : Nat → List Byte
  | 0 => []
  | n + 1 => m.read k :: Memory.readBytes m (k + 1) n

/-- Writes consecutive bytes, lowest first. -/
def Memory.writeBytes (m : Memory) (k : Nat) : List Byte → Memory
  | [] => m
  | b :: r => Memory.writeBytes (m.write k b) (k + 1) r

/-- The number that bytes stand for, least significant first (R4). -/
def leNat : List Byte → Nat
  | [] => 0
  | b :: r => b.toNat + 256 * leNat r

/-- The `n` bytes of a number, least significant first (R4). -/
def leBytes : Nat → Nat → List Byte
  | 0, _ => []
  | n + 1, v => BitVec.ofNat 8 v :: leBytes n (v / 256)

/-- A doubleword from eight bytes. -/
def leDword (bs : List Byte) : Dword := BitVec.ofNat 64 (leNat bs)

/-- The `n` bits from bit `lo` of a number. -/
def bits (v lo n : Nat) : Nat := v / 2 ^ lo % 2 ^ n

/-- A `w`-bit pattern read as two's complement. -/
def signed (w v : Nat) : Int := if v % 2 ^ w < 2 ^ (w - 1) then (v % 2 ^ w : Nat) else (v % 2 ^ w : Nat) - 2 ^ w

/-- The `w`-bit pattern of an integer modulo 2^w. -/
def wrap (w : Nat) (v : Int) : Nat := (v % (2 ^ w : Nat)).toNat

/-- `n` rounded up to a quotient. -/
def ceilDiv (a b : Nat) : Nat := (a + b - 1) / b

end Sys2Proof.Machine
end

