-- ==== Sys2Proof/Machine/Flags.lean ====
section
/-! DEFINITION. Floating-point flags and the exception class (R21). -/

namespace Sys2Proof.Machine

/-- The flags NV, DZ, OF, UF, NX, in the order of FCSR[6:2]. -/
abbrev Flags := BitVec 5

namespace Flags

def none : Flags := 0
def nv : Flags := 0x10
def dz : Flags := 0x08
def ovf : Flags := 0x04
def unf : Flags := 0x02
def nx : Flags := 0x01

/-- A flag when a condition holds. -/
def on (b : Bool) (f : Flags) : Flags := if b then f else 0

/-- FCSR with flags set in its sticky bits (R21). -/
def stick (fcsr : BitVec 7) (f : Flags) : BitVec 7 := fcsr ||| (f ++ (0 : BitVec 2))

/-- The rounding mode FCSR.RM. -/
def rm (fcsr : BitVec 7) : BitVec 2 := fcsr.extractLsb' 0 2

/-- Whether flags raise the class XCLS.CLASS names (R21): 1 NV, 2 DZ, 3 OF, 4 UF, 5 NX, 6 any of NV, DZ and OF. -/
def ofClass (cls : BitVec 3) (f : Flags) : Bool :=
  if cls = 1 then f &&& nv != 0
  else if cls = 2 then f &&& dz != 0
  else if cls = 3 then f &&& ovf != 0
  else if cls = 4 then f &&& unf != 0
  else if cls = 5 then f &&& nx != 0
  else if cls = 6 then f &&& 0x1C != 0
  else false

end Flags

/-- What XCLS makes of a bit of m14 for an active element (R21). -/
def classBit (xcls : BitVec 4) (old : Bool) (f : Flags) : Bool :=
  let seen := Flags.ofClass (xcls.extractLsb' 0 3) f
  if xcls.getLsbD 3 then old || seen else seen

end Sys2Proof.Machine
end

