-- ==== Sys2Proof/Machine/Float.lean ====
section
/-! DEFINITION. The floating-point formats and their exact arithmetic with one rounding (R76 to R81). -/

namespace Sys2Proof.Machine

/-- A binary format: fraction bits, exponent bits and bias (R77, R80). -/
structure FpFormat where
  fraction : Nat
  exponent : Nat
  bias     : Nat
  deriving DecidableEq, Repr

abbrev fp32 : FpFormat := ⟨23, 8, 127⟩
abbrev bf16 : FpFormat := ⟨7, 8, 127⟩
abbrev fp16 : FpFormat := ⟨10, 5, 15⟩
abbrev e4m3 : FpFormat := ⟨3, 4, 7⟩
abbrev e5m2 : FpFormat := ⟨2, 5, 15⟩
abbrev e2m1 : FpFormat := ⟨1, 2, 1⟩

/-- A floating-point datum: a NaN, an infinity, or (−1)^neg × m × 2^e. -/
inductive Fp where
  | nan (quiet : Bool)
  | inf (neg : Bool)
  | fin (neg : Bool) (m : Nat) (e : Int)
  deriving DecidableEq, Repr

/-- Position of the leading one, 0 for 0. -/
def topBit (n : Nat) : Nat := Nat.log2 n

/-- The exponent of the smallest subnormal of a format. -/
def FpFormat.least (f : FpFormat) : Int := 1 - (f.bias : Int) - f.fraction

/-- The sign bit of a pattern. -/
def fpSign (f : FpFormat) (x : Nat) : Bool := x.testBit (f.fraction + f.exponent)

/-- The finite datum that sign, exponent and fraction fields encode. -/
def decodeFinite (f : FpFormat) (x : Nat) : Fp :=
  let frac := bits x 0 f.fraction
  let e := bits x f.fraction f.exponent
  if e = 0 then .fin (fpSign f x) frac f.least
  else .fin (fpSign f x) (2 ^ f.fraction + frac) (f.least + (e - 1 : Nat))

/-- FP32, FP16, BF16 and E5M2: an exponent of all ones is an infinity or a NaN (R77, R80). -/
def decodeIeee (f : FpFormat) (x : Nat) : Fp :=
  if bits x f.fraction f.exponent = 2 ^ f.exponent - 1 then
    if bits x 0 f.fraction = 0 then .inf (fpSign f x) else .nan (x.testBit (f.fraction - 1))
  else decodeFinite f x

/-- E4M3: 0x7F and 0xFF are NaN, there are no infinities (R80). A narrow NaN is held as signalling, since each consumer raises
NV for it (R88, R138). -/
def decodeE4m3 (x : Nat) : Fp := if bits x 0 7 = 0x7F then .nan false else decodeFinite e4m3 x

/-- E5M2; its NaN as for E4M3. -/
def decodeE5m2 (x : Nat) : Fp :=
  match decodeIeee e5m2 x with
  | .nan _ => .nan false
  | v => v

/-- The canonical quiet NaN of a format (R78). -/
def canonicalNan (f : FpFormat) : Nat := (2 ^ f.exponent - 1) * 2 ^ f.fraction + 2 ^ (f.fraction - 1)

/-- The pattern of a signed infinity. -/
def infBits (f : FpFormat) (neg : Bool) : Nat :=
  (if neg then 2 ^ (f.fraction + f.exponent) else 0) + (2 ^ f.exponent - 1) * 2 ^ f.fraction

/-- m × 2^e as a multiple of 2^q, rounded; `sticky` stands for a part below m's last bit. The rounding mode sees the sign (R79).
Answers the multiple and whether it is inexact. -/
def roundAt (rm : BitVec 2) (neg : Bool) (m : Nat) (e : Int) (sticky : Bool) (q : Int) : Nat × Bool :=
  if q ≤ e then (m * 2 ^ (e - q).toNat, sticky)
  else
    let sh := (q - e).toNat
    let n := m / 2 ^ sh
    let rest := m % 2 ^ sh
    let inexact := rest != 0 || sticky
    let half := 2 ^ (sh - 1)
    let up :=
      if rm = 0 then half < rest || (rest = half && (sticky || n % 2 = 1))
      else if rm = 1 then false
      else if rm = 2 then neg && inexact
      else !neg && inexact
    (if up then n + 1 else n, inexact)

/-- The exponent of the last place to which a nonzero m × 2^e rounds in a format. -/
def lastPlace (f : FpFormat) (m : Nat) (e : Int) : Int := max ((topBit m : Int) + e - f.fraction) f.least

/-- The magnitude pattern that a multiple n of 2^q has in a format, were its exponent range unbounded above. -/
def magBits (f : FpFormat) (n : Nat) (q : Int) : Nat := (q - f.least).toNat * 2 ^ f.fraction + n

/-- Whether m × 2^e, rounded with an unbounded exponent range, lies below the smallest normal value (R78). -/
def tiny (f : FpFormat) (rm : BitVec 2) (neg : Bool) (m : Nat) (e : Int) (sticky : Bool) : Bool :=
  let q : Int := (topBit m : Int) + e - f.fraction
  let n := (roundAt rm neg m e sticky q).1
  (topBit n : Int) + q < f.least + f.fraction

/-- Rounds (−1)^neg × m × 2^e into FP32, FP16 or BF16 (R78, R79): the pattern and the flags. A zero keeps the sign given. -/
def roundFp (f : FpFormat) (rm : BitVec 2) (neg : Bool) (m : Nat) (e : Int) (sticky : Bool := false) : Nat × Flags :=
  let s := if neg then 2 ^ (f.fraction + f.exponent) else 0
  if m = 0 then (s, Flags.none)
  else
    let q := lastPlace f m e
    let r := roundAt rm neg m e sticky q
    let mag := magBits f r.1 q
    let top := (2 ^ f.exponent - 1) * 2 ^ f.fraction
    if top ≤ mag then
      let toInf := rm = 0 || (rm = 2 && neg) || (rm = 3 && !neg)
      (s + (if toInf then top else top - 1), Flags.ovf ||| Flags.nx)
    else
      (s + mag, Flags.on r.2 Flags.nx ||| Flags.on (r.2 && tiny f rm neg m e sticky) Flags.unf)

/-- The pattern and the flags of a datum rounded into a format. A signalling NaN raises NV; every NaN is the canonical one. -/
def encodeFp (f : FpFormat) (rm : BitVec 2) : Fp → Nat × Flags
  | .nan quiet => (canonicalNan f, Flags.on (!quiet) Flags.nv)
  | .inf neg => (infBits f neg, Flags.none)
  | .fin neg m e => roundFp f rm neg m e

/-- The integer that a finite datum stands for in units of 2^q, for q not above its exponent. -/
def finAt (neg : Bool) (m : Nat) (e q : Int) : Int :=
  let v : Int := (m * 2 ^ (e - q).toNat : Nat)
  if neg then -v else v

/-- The exact sum of two finite data. A zero sum of opposite signs is −0 under RDN and +0 otherwise (IEEE 754). -/
def addFin (rm : BitVec 2) (na : Bool) (ma : Nat) (ea : Int) (nb : Bool) (mb : Nat) (eb : Int) : Fp :=
  let q := min ea eb
  let v := finAt na ma ea q + finAt nb mb eb q
  if v = 0 then
    let zeros := ma = 0 && mb = 0
    .fin (if zeros && na = nb then na else rm = 2) 0 q
  else .fin (decide (v < 0)) v.natAbs q

/-- The exact sum of two data and the flag of an invalid operation. -/
def addFp (rm : BitVec 2) : Fp → Fp → Fp × Flags
  | .nan qa, .nan qb => (.nan true, Flags.on (!qa || !qb) Flags.nv)
  | .nan qa, _ => (.nan true, Flags.on (!qa) Flags.nv)
  | _, .nan qb => (.nan true, Flags.on (!qb) Flags.nv)
  | .inf a, .inf b => if a = b then (.inf a, Flags.none) else (.nan true, Flags.nv)
  | .inf a, .fin _ _ _ => (.inf a, Flags.none)
  | .fin _ _ _, .inf b => (.inf b, Flags.none)
  | .fin na ma ea, .fin nb mb eb => (addFin rm na ma ea nb mb eb, Flags.none)

/-- The exact product of two data and the flag of an invalid operation. -/
def mulFp : Fp → Fp → Fp × Flags
  | .nan qa, .nan qb => (.nan true, Flags.on (!qa || !qb) Flags.nv)
  | .nan qa, _ => (.nan true, Flags.on (!qa) Flags.nv)
  | _, .nan qb => (.nan true, Flags.on (!qb) Flags.nv)
  | .inf a, .inf b => (.inf (a != b), Flags.none)
  | .inf a, .fin b m _ => if m = 0 then (.nan true, Flags.nv) else (.inf (a != b), Flags.none)
  | .fin a m _, .inf b => if m = 0 then (.nan true, Flags.nv) else (.inf (a != b), Flags.none)
  | .fin a ma ea, .fin b mb eb => (.fin (a != b) (ma * mb) (ea + eb), Flags.none)

/-- A datum with its sign inverted; a NaN stays. -/
def negFp : Fp → Fp
  | .nan q => .nan q
  | .inf n => .inf (!n)
  | .fin n m e => .fin (!n) m e

/-- a × y + d exactly; ∞ × 0 is invalid whatever the addend holds (R78). -/
def fmaFp (rm : BitVec 2) (a y d : Fp) : Fp × Flags :=
  let p := mulFp a y
  let r := addFp rm p.1 d
  (r.1, p.2 ||| r.2)

/-- The integer square root by its `k` low bits, above a part already found. -/
def rootFrom (n : Nat) : Nat → Nat → Nat
  | 0, r => r
  | k + 1, r =>
    let r' := r + 2 ^ k
    rootFrom n k (if r' * r' ≤ n then r' else r)

/-- ⌊√n⌋. -/
def isqrt (n : Nat) : Nat := rootFrom n (topBit n / 2 + 1) 0

/-- The quotient of two positive magnitudes to at least 64 bits: m, e and whether a part lies below. -/
def quotient (ma : Nat) (ea : Int) (mb : Nat) (eb : Int) : Nat × Int × Bool :=
  let sh := 64 + topBit mb
  let n := ma * 2 ^ sh
  (n / mb, ea - eb - sh, n % mb != 0)

/-- The square root of a positive magnitude to at least 64 bits. -/
def rootOf (m : Nat) (e : Int) : Nat × Int × Bool :=
  let m1 := if e % 2 = 0 then m else 2 * m
  let e1 := if e % 2 = 0 then e else e - 1
  let n := m1 * 2 ^ 128
  let r := isqrt n
  (r, e1 / 2 - 64, r * r != n)

/-- a / y rounded (R132): a finite nonzero a over zero is a signed infinity and raises DZ. -/
def divFp (f : FpFormat) (rm : BitVec 2) : Fp → Fp → Nat × Flags
  | .nan qa, .nan qb => (canonicalNan f, Flags.on (!qa || !qb) Flags.nv)
  | .nan qa, _ => (canonicalNan f, Flags.on (!qa) Flags.nv)
  | _, .nan qb => (canonicalNan f, Flags.on (!qb) Flags.nv)
  | .inf _, .inf _ => (canonicalNan f, Flags.nv)
  | .inf a, .fin b _ _ => (infBits f (a != b), Flags.none)
  | .fin a _ _, .inf b => roundFp f rm (a != b) 0 0
  | .fin a ma ea, .fin b mb eb =>
    if mb = 0 then (if ma = 0 then (canonicalNan f, Flags.nv) else (infBits f (a != b), Flags.dz))
    else if ma = 0 then roundFp f rm (a != b) 0 0
    else
      let r := quotient ma ea mb eb
      roundFp f rm (a != b) r.1 r.2.1 r.2.2

/-- √a rounded (R132). -/
def sqrtFp (f : FpFormat) (rm : BitVec 2) : Fp → Nat × Flags
  | .nan q => (canonicalNan f, Flags.on (!q) Flags.nv)
  | .inf true => (canonicalNan f, Flags.nv)
  | .inf false => (infBits f false, Flags.none)
  | .fin n m e =>
    if m = 0 then roundFp f rm n 0 0
    else if n then (canonicalNan f, Flags.nv)
    else
      let r := rootOf m e
      roundFp f rm false r.1 r.2.1 r.2.2

/-- A datum as a comparable pair: infinities beyond every finite value. NaN has no place. -/
def ltFin (na : Bool) (ma : Nat) (ea : Int) (nb : Bool) (mb : Nat) (eb : Int) : Bool :=
  let q := min ea eb
  finAt na ma ea q < finAt nb mb eb q

/-- a < b for two data that are no NaN; +0 and −0 compare equal (R133). -/
def ltFp : Fp → Fp → Bool
  | .nan _, _ => false
  | _, .nan _ => false
  | .inf a, .inf b => a && !b
  | .inf a, .fin _ _ _ => a
  | .fin _ _ _, .inf b => !b
  | .fin na ma ea, .fin nb mb eb => ltFin na ma ea nb mb eb

def isNan : Fp → Bool
  | .nan _ => true
  | _ => false

/-- Whether a datum is a signalling NaN. -/
def isSnan : Fp → Bool
  | .nan q => !q
  | _ => false

/-- Whether a datum is −0. -/
def isNegZero : Fp → Bool
  | .fin n m _ => n && m = 0
  | _ => false

/-- Order with −0 below +0 (R133), for two data that are no NaN. -/
def belowFp (a b : Fp) : Bool := ltFp a b || (!ltFp b a && isNegZero a && !isNegZero b)

/-- VFMIN and VFMAX (R133): one NaN operand gives the other operand. -/
def minMaxFp (f : FpFormat) (greater : Bool) (xa xb : Nat) : Nat × Flags :=
  let a := decodeIeee f xa
  let b := decodeIeee f xb
  let fl := Flags.on (isSnan a || isSnan b) Flags.nv
  if isNan a && isNan b then (canonicalNan f, fl)
  else if isNan a then (xb, fl)
  else if isNan b then (xa, fl)
  else if greater then (if belowFp a b then xb else xa, fl)
  else (if belowFp b a then xb else xa, fl)

/-- The class word of VFCLASS (R133). -/
def classFp (f : FpFormat) (x : Nat) : Nat :=
  match decodeIeee f x with
  | .inf true => 2 ^ 0
  | .inf false => 2 ^ 7
  | .nan false => 2 ^ 8
  | .nan true => 2 ^ 9
  | .fin n m _ =>
    if m = 0 then (if n then 2 ^ 3 else 2 ^ 4)
    else if m < 2 ^ f.fraction then (if n then 2 ^ 2 else 2 ^ 5)
    else (if n then 2 ^ 1 else 2 ^ 6)

/-- An integer rounded into a format. -/
def fromInt (f : FpFormat) (rm : BitVec 2) (v : Int) : Nat × Flags := roundFp f rm (decide (v < 0)) v.natAbs 0

/-- A datum rounded to an integer of `w` bits: beyond the range it saturates, a NaN gives 0, both raise NV alone (R134). -/
def toInt (rm : BitVec 2) (w : Nat) : Fp → Int × Flags
  | .nan _ => (0, Flags.nv)
  | .inf true => (-(2 ^ (w - 1) : Nat), Flags.nv)
  | .inf false => ((2 ^ (w - 1) : Nat) - 1, Flags.nv)
  | .fin n m e =>
    let r := roundAt rm n m e false 0
    let v : Int := if n then -(r.1 : Int) else r.1
    if v < -(2 ^ (w - 1) : Nat) then (-(2 ^ (w - 1) : Nat), Flags.nv)
    else if (2 ^ (w - 1) : Nat) - 1 < v then ((2 ^ (w - 1) : Nat) - 1, Flags.nv)
    else (v, Flags.on r.2 Flags.nx)

/-- The largest finite magnitude pattern of a narrow format (R80). -/
def narrowTop (f : FpFormat) : Nat := if f = e4m3 then 0x7E else if f = e5m2 then 0x7B else 7

/-- The sign bit of a narrow format's pattern. -/
def narrowSign (f : FpFormat) (neg : Bool) : Nat := if neg then 2 ^ (f.fraction + f.exponent) else 0

/-- A finite value rounded with RNE into a narrow format, saturating to its largest finite value (R90 to R92, R134): the pattern
and the flags NX, OF, UF as R92 gives them, for a VFCVTW too, whose flags of finite values R134 does not give (log 99). -/
def narrowFin (f : FpFormat) (neg : Bool) (m : Nat) (e : Int) : Nat × Flags :=
  if m = 0 then (narrowSign f neg, Flags.none)
  else
    let q := lastPlace f m e
    let r := roundAt 0 neg m e false q
    let mag := magBits f r.1 q
    if narrowTop f < mag then (narrowSign f neg + narrowTop f, Flags.ovf ||| Flags.nx)
    else (narrowSign f neg + mag, Flags.on r.2 Flags.nx ||| Flags.on (r.2 && mag < 2 ^ f.fraction) Flags.unf)

/-- A datum in E4M3 or E5M2, NaN and infinities as R89 encodes them (R134). -/
def narrowFp (f : FpFormat) : Fp → Nat × Flags
  | .nan _ => (if f = e4m3 then 0x7F else 0x7E, Flags.nv)
  | .inf neg =>
    if f = e4m3 then (narrowSign f neg + 0x7E, Flags.nv) else (narrowSign f neg + 0x7C, Flags.none)
  | .fin n m e => narrowFin f n m e

/-- 2^e × (1 + frac/2^23) for a finite positive datum: e and the top seven bits of frac (R135, R136). -/
def normalised (m : Nat) (e : Int) : Int × Nat :=
  let t := topBit m
  let frac := (m * 2 ^ (23 - t)) % 2 ^ 23
  (e + t, frac / 2 ^ 16)

/-- VFRSQRTE (R135). -/
def rsqrtEst : Fp → Nat × Flags
  | .nan q => (canonicalNan fp32, Flags.on (!q) Flags.nv)
  | .inf true => (canonicalNan fp32, Flags.nv)
  | .inf false => (0, Flags.none)
  | .fin n m e =>
    if m = 0 then (infBits fp32 n, Flags.dz)
    else if n then (canonicalNan fp32, Flags.nv)
    else
      let x := normalised m e
      let even := x.1 % 2 = 0
      let q := x.1 / 2
      let mid := if even then 256 + 2 * x.2 + 1 else 2 * (256 + 2 * x.2 + 1)
      let r := quotient (2 ^ 136) (-136) mid (-8)
      let s := rootOf r.1 r.2.1
      let est := roundAt 0 false s.1 s.2.1 (s.2.2 || r.2.2) (-12)
      (roundFp fp32 0 false est.1 (-12 - q)).1 |> (·, Flags.none)

/-- VFRECE (R136). -/
def recEst : Fp → Nat × Flags
  | .nan q => (canonicalNan fp32, Flags.on (!q) Flags.nv)
  | .inf n => (if n then 2 ^ 31 else 0, Flags.none)
  | .fin n m e =>
    if m = 0 then (infBits fp32 n, Flags.dz)
    else
      let x := normalised m e
      let mid := 256 + 2 * x.2 + 1
      let r := quotient 1 0 mid (-8)
      let est := roundAt 0 false r.1 r.2.1 r.2.2 (-12)
      roundFp fp32 0 n est.1 (-12 - x.1)

end Sys2Proof.Machine
end

