-- ==== Sys2Proof/Machine/Blocks.lean ====
section
/-! DEFINITION. Self-describing blocks: check byte, decoding, encoding (R82 to R92). -/

namespace Sys2Proof.Machine

/-- One bit step of the CRC-8 with polynomial 0x07 (R84). -/
def crcBit (c : Byte) : Byte := if c.msb then (c <<< 1) ^^^ 0x07 else c <<< 1

/-- One byte step of the CRC (R84). -/
def crcByte (c v : Byte) : Byte :=
  let x := c ^^^ v
  crcBit (crcBit (crcBit (crcBit (crcBit (crcBit (crcBit (crcBit x)))))))

/-- The CRC over bytes in order. -/
def crc8 (bs : List Byte) : Byte := bs.foldl crcByte 0

/-- The check byte of a block: bytes 0 to 2, then 4 to 63 (R84). -/
def blockCheck (b : List Byte) : Byte := crc8 (b.take 3 ++ b.drop 4)

/-- Byte `i` of a block. -/
def blockByte (b : List Byte) (i : Nat) : Byte := b.getD i 0

/-- The subcause that an invalid block reports, the lowest that applies (R85, R138), or none for a valid block. -/
def blockFault (b : List Byte) : Option (BitVec 8) :=
  if blockByte b 3 != blockCheck b then some 0x01
  else if blockByte b 0 = 0 || 4 < (blockByte b 0).toNat then some 0x02
  else none

/-- Elements in a block of a format code: 120 for E2M1, else 60 (R83). -/
def blockElems (code : Byte) : Nat := if code = 1 then 120 else 60

/-- The E2M1 code of element j. -/
def nibble (b : List Byte) (j : Nat) : Nat := bits (blockByte b (4 + j / 2)).toNat (4 * (j % 2)) 4

/-- An E2M1 code other than 0b1000 (R80). -/
def decodeE2m1 (c : Nat) : Fp := decodeFinite e2m1 c

/-- Element j of a block before the scale is applied (R87, R93). Positions past a 60-element block supply +0. -/
def blockElem (b : List Byte) (j : Nat) : Fp :=
  let code := blockByte b 0
  if code = 1 then
    let c := nibble b j
    if c = 8 then decodeE4m3 (blockByte b 2).toNat else decodeE2m1 c
  else if 60 ≤ j then .fin false 0 0
  else
    let x := (blockByte b (4 + j)).toNat
    if code = 2 then decodeE4m3 x
    else if code = 3 then decodeE5m2 x
    else .fin (decide (128 ≤ x)) (signed 8 x).natAbs 0

/-- A datum times 2^(s−127); a scale of 0xFF gives NaN (R81, R87). -/
def scaleFp (s : Byte) : Fp → Fp
  | .nan q => .nan q
  | .inf n => if s = 0xFF then .nan false else .inf n
  | .fin n m e => if s = 0xFF then .nan false else .fin n m (e + s.toNat - 127)

/-- The value of element j of a valid block (R87); a position past a 60-element block supplies +0, whatever the scale (R138). -/
def blockValue (b : List Byte) (j : Nat) : Fp :=
  if blockElems (blockByte b 0) ≤ j then .fin false 0 0 else scaleFp (blockByte b 1) (blockElem b j)

/-- Element j of a block decoded into FP32 (R88). -/
def blockToFp32 (rm : BitVec 2) (b : List Byte) (j : Nat) : Nat × Flags := encodeFp fp32 rm (blockValue b j)

/-- ⌈log2(m × 2^e / c)⌉ for m, c > 0. -/
def ceilLog2 (m : Nat) (e : Int) (c : Nat) : Int :=
  let x : Int := (topBit m : Int) + e - topBit c
  -- m × 2^e ≤ c × 2^x, with both sides in units of 2^min(e, x)
  let q := min e x
  if m * 2 ^ (e - q).toNat ≤ c * 2 ^ (x - q).toNat then x else x + 1

/-- Whether the first magnitude is the lesser. -/
def magLt (ma : Nat) (ea : Int) (mb : Nat) (eb : Int) : Bool := ltFin false ma ea false mb eb

/-- The finite elements' largest magnitude with its lowest index (R91), scanning from index `i`. -/
def largest : List Fp → Nat → Option (Nat × Nat × Int)
  | [], _ => none
  | .fin _ m e :: r, i =>
    match largest r (i + 1) with
    | none => some (i, m, e)
    | some (k, m', e') => if magLt m e m' e' then some (k, m', e') else some (i, m, e)
  | _ :: r, i => largest r (i + 1)

/-- The list with element `i` replaced by a NaN, so that it takes no part in a selection. -/
def without (xs : List Fp) (i : Nat) : List Fp := xs.set i (.nan true)

/-- An exponent clamped to −127 … 127 (R90, R91). -/
def clampExp (e : Int) : Int := min 127 (max (-127) e)

/-- MAXF of R90: E4M3 448, E5M2 57,344, INT8 127. -/
def maxf (code : Byte) : Nat := if code = 2 then 448 else if code = 3 then 57344 else 127

/-- A finite value as an INT8 element: RNE, saturating to ±127 (R90). The smallest magnitude that is no zero counts as the
smallest normal value of R92 (log 13). -/
def int8Fin (neg : Bool) (m : Nat) (e : Int) : Nat × Flags :=
  let r := roundAt 0 neg m e false 0
  if 127 < r.1 then (if neg then 0x81 else 0x7F, Flags.ovf ||| Flags.nx)
  else (wrap 8 (if neg then -(r.1 : Int) else r.1),
    Flags.on r.2 Flags.nx ||| Flags.on (r.2 && r.1 = 0) Flags.unf)

/-- An E2M1 element: NaN gives 0, an infinity the largest value, a zero result 0b0000 (R89, R91). -/
def e2m1Code (x : Fp) (exponent : Int) : Nat × Flags :=
  match x with
  | .nan _ => (0, Flags.nv)
  | .inf n => (if n then 0xF else 0x7, Flags.nv)
  | .fin n m e =>
    let r := narrowFin e2m1 n m (e - exponent)
    (if r.1 = 8 then 0 else r.1, r.2)

/-- An element of an E4M3, E5M2 or INT8 block (R89, R90). -/
def byteCode (code : Byte) (x : Fp) (exponent : Int) : Nat × Flags :=
  match x with
  | .nan _ => (if code = 2 then 0x7F else if code = 3 then 0x7E else 0, Flags.nv)
  | .inf n =>
    if code = 2 then (if n then 0xFE else 0x7E, Flags.nv)
    else if code = 3 then (if n then 0xFC else 0x7C, Flags.none)
    else (if n then 0x81 else 0x7F, Flags.nv)
  | .fin n m e =>
    if code = 2 then narrowFin e4m3 n m (e - exponent)
    else if code = 3 then narrowFin e5m2 n m (e - exponent)
    else int8Fin n m (e - exponent)

/-- Pairs of E2M1 codes as bytes (R83). -/
def packNibbles : List Nat → List Byte
  | lo :: hi :: r => BitVec.ofNat 8 (lo + 16 * hi) :: packNibbles r
  | [lo] => [BitVec.ofNat 8 lo]
  | [] => []

/-- Header and payload with the check byte in place (R82, R84). -/
def sealBlock (code scale special : Byte) (payload : List Byte) : List Byte :=
  [code, scale, special, crc8 (code :: scale :: special :: payload)] ++ payload

/-- The scale exponent of an E2M1 block and the element that takes the special value (R91). -/
def e2m1Scale (xs : List Fp) : Int × Option Nat :=
  match largest xs 0 with
  | none => (0, none)
  | some (am, m, e) =>
    if m = 0 then (0, none)
    else
      let e1 := match largest (without xs am) 0 with
        | some (_, mb, eb) => if mb = 0 then -127 else ceilLog2 mb eb 6
        | none => -127
      let exponent := min 127 (max (-127) (max e1 (ceilLog2 m e 448)))
      (exponent, if ltFin false 6 exponent false m e then some am else none)

/-- An E2M1 block of 120 elements and the flags of each (R91, R92). -/
def encodeE2m1 (xs : List Fp) : List Byte × List Flags :=
  let (exponent, special) := e2m1Scale xs
  let specialOf : Nat × Flags := match special with
    | none => (0, Flags.none)
    | some am => match xs.getD am (.nan true) with
      | .fin n m e => narrowFin e4m3 n m (e - exponent)
      | _ => (0, Flags.none)
  let coded := (xs.zip (List.range xs.length)).map fun (x, i) =>
    if special = some i then (8, specialOf.2) else e2m1Code x exponent
  (sealBlock 1 (BitVec.ofNat 8 (exponent + 127).toNat) (BitVec.ofNat 8 specialOf.1) (packNibbles (coded.map (·.1))),
    coded.map (·.2))

/-- A block of 60 elements and the flags of each (R90, R92). -/
def encodeBytes (code : Byte) (xs : List Fp) : List Byte × List Flags :=
  let exponent := match largest xs 0 with
    | none => 0
    | some (_, m, e) => if m = 0 then 0 else clampExp (ceilLog2 m e (maxf code))
  let coded := xs.map fun x => byteCode code x exponent
  (sealBlock code (BitVec.ofNat 8 (exponent + 127).toNat) 0 (coded.map fun c => BitVec.ofNat 8 c.1), coded.map (·.2))

/-- One block from its source elements (R89 to R92). -/
def encodeBlock (code : Byte) (xs : List Fp) : List Byte × List Flags :=
  if code = 1 then encodeE2m1 xs else encodeBytes code xs

end Sys2Proof.Machine
end

