-- ==== Sys2Proof/Machine/Phys.lean ====
section
/-! DEFINITION. Threads by identifier, management registers, the physical map, and reads and writes at locations. -/

namespace Sys2Proof.Machine

/-! ### Threads -/

/-- The thread of an identifier (R115). -/
def State.thread? (s : State) (tid : BitVec 32) : Option Thread := s.threads.find? fun t => t.tid = tid

/-- Replaces the thread of the same identifier. -/
def State.setThread (s : State) (t : Thread) : State :=
  { s with threads := s.threads.map fun x => if x.tid = t.tid then t else x }

/-- Changes the thread of an identifier, where it exists. -/
def State.update (s : State) (tid : BitVec 32) (f : Thread → Thread) : State :=
  match s.thread? tid with
  | none => s
  | some t => s.setThread (f t)

/-- DIE of the thread's place (R8, R115). -/
def Thread.die (t : Thread) : BitVec 2 := t.tid.extractLsb' 9 2

/-- Core of the package: die × 64 + CORE. -/
def Thread.core (t : Thread) : Nat := (t.tid.extractLsb' 3 8).toNat

/-- SLOT of the thread's place. -/
def Thread.slot (t : Thread) : BitVec 3 := t.tid.extractLsb' 0 3

/-- Whether two threads belong to one gang. -/
def sameGang (t u : Thread) : Bool := t.die = u.die && t.gang = u.gang

/-- Whether two threads belong to one crew. -/
def sameCrew (t u : Thread) : Bool := sameGang t u && t.crewIndex = u.crewIndex

/-- Whether a die runs: bring-up is over, and it has neither failed nor stopped its islands (R336, R351, R352). -/
def dieUp (s : State) (die : BitVec 2) : Bool := s.bringUp = 6 && !s.failedDies.mem die.toNat && !s.stoppedDies.mem die.toNat

/-- The die of a core of the package. -/
def coreDie (core : Nat) : BitVec 2 := BitVec.ofNat 2 (core / 64)

/-! ### Management registers (R231, R266, R271, R279, R282, R294, R306, R307, R329, R335, R341 to R346) -/

/-- What a management register reads before anything has written it. -/
def mgmtReset (off : Nat) : Dword :=
  if off < 0x4000 then 0
  else if off < 0x4080 then 16
  else if off < 0x4100 then 16384
  else if off < 0x4180 then 0x80001
  else if off < 0x4200 then 0
  else if off < 0x4208 then 16
  else if off < 0x4300 then 0
  else if off < 0x4380 then 1
  else if off < 0x4480 then 0
  else if off < 0x4500 then 0x8000
  else if off < 0x4600 then 0
  else if off < 0x4A00 then (if off % 64 = 0 then 2 else 0)
  else if off < 0x5000 then 0
  else if off < 0x5200 then (if off % 32 = 0 then 4 else 0)
  else 0

/-- The stored value of a management register. -/
def State.mreg (s : State) (die : BitVec 2) (off : Nat) : Dword :=
  Sparse.get (mgmtReset off) s.mgmt (die.toNat * 0x10000 + off)

/-- Stores a management register. -/
def State.setMreg (s : State) (die : BitVec 2) (off : Nat) (v : Dword) : State :=
  { s with mgmt := Sparse.set (mgmtReset off) s.mgmt (die.toNat * 0x10000 + off) v }

abbrev offL2wq (t : BitVec 4) : Nat := 0x4000 + 8 * t.toNat
abbrev offDirq (t : BitVec 4) : Nat := 0x4080 + 8 * t.toNat
abbrev offTsched (t : BitVec 4) : Nat := 0x4100 + 8 * t.toNat
abbrev offCtxpool (t : BitVec 4) : Nat := 0x4180 + 8 * t.toNat
abbrev offDround : Nat := 0x4200
abbrev offSplit (t : BitVec 4) : Nat := 0x4280 + 8 * t.toNat
abbrev offHbmshare (t : BitVec 4) : Nat := 0x4300 + 8 * t.toNat
abbrev offExpovf (t : BitVec 4) : Nat := 0x4380 + 8 * t.toNat
abbrev offErtcfg (t : BitVec 4) : Nat := 0x4400 + 8 * t.toNat
abbrev offExppool (t : BitVec 4) : Nat := 0x4480 + 8 * t.toNat
abbrev offExpdone (t : BitVec 4) : Nat := 0x4500 + 8 * t.toNat
abbrev offTq (t : BitVec 4) : Nat := 0x4600 + 64 * t.toNat
abbrev offHar (t : BitVec 4) : Nat := 0x5000 + 32 * t.toNat
abbrev offLane (core : Nat) : Nat := 0x6000 + 16 * core
abbrev offQueue (q : BitVec 10) : Nat := 0x8000 + 32 * (q.toNat % 256)
abbrev offHdm (k : Nat) : Nat := 0xA000 + 16 * k
abbrev offAperture (k : Nat) : Nat := 0xB000 + 16 * k
abbrev offTown (stack : BitVec 4) : Nat := 0xC000 + 64 * (stack.toNat % 4)

/-- The die that a stack attaches to (R226). -/
def stackDie (stack : BitVec 4) : BitVec 2 := BitVec.ofNat 2 (stack.toNat / 4)

/-- The die of a queue. -/
def queueDie (q : BitVec 10) : BitVec 2 := BitVec.ofNat 2 (q.toNat / 256)

/-- The bits `lo … lo + n − 1` of a doubleword as a number. -/
def field (v : Dword) (lo n : Nat) : Nat := bits v.toNat lo n

/-- A doubleword with the bits `lo … lo + n − 1` replaced. -/
def setField (v : Dword) (lo n x : Nat) : Dword :=
  BitVec.ofNat 64 (v.toNat - field v lo n * 2 ^ lo + x % 2 ^ n * 2 ^ lo)

/-- A bit of the split register of a tenant (R344). -/
def State.splitBit (s : State) (t : BitVec 4) (b : Nat) : Bool := (s.mreg 0 (offSplit t)).getLsbD b

/-! ### The physical map (R226 to R228) and locations -/

/-- A location: a physical address, a byte of a core's scratchpad, or a byte of a peer device. -/
abbrev Loc := Nat

abbrev spadLoc (core off : Nat) : Loc := 2 ^ 60 + core * 2 ^ 21 + off

abbrev peerLoc (peer address : Nat) : Loc := 2 ^ 70 + peer * 2 ^ 57 + address

def isSpad (l : Loc) : Bool := 2 ^ 60 ≤ l && l < 2 ^ 61

def isPeer (l : Loc) : Bool := 2 ^ 70 ≤ l

/-- The peer device of a location. -/
def peerOf (l : Loc) : Nat := (l - 2 ^ 70) / 2 ^ 57

/-- The stack that holds a physical address of HBM (R226). -/
def stackOf (pa : Nat) : BitVec 4 := BitVec.ofNat 4 (pa / 2 ^ 16)

/-- The 128-byte line of a location. -/
def lineOf (l : Loc) : Nat := l / 128

/-- Whether decoder `k` of a die claims a physical address of the CXL region for a tenant (R341). -/
def hdmClaims (s : State) (die : BitVec 2) (k : Nat) (tenant : BitVec 4) (pa : Nat) : Bool :=
  let base := s.mreg die (offHdm k)
  let ctl := s.mreg die (offHdm k + 8)
  let lo := field base 28 20 * 2 ^ 28
  ctl.getLsbD 16 && ctl.getLsbD tenant.toNat && lo ≤ pa && pa < lo + field base 0 18 * 2 ^ 28

/-- The port whose decoders claim an address for a tenant. -/
def cxlPort (s : State) (tenant : BitVec 4) (pa : Nat) : Option (BitVec 2) :=
  [0, 1, 2, 3].find? fun die => (List.range 8).any fun k => hdmClaims s die k tenant pa

/-- Whether an enabled window of a die's port holds an address, whatever tenants it admits. -/
def portWindow (s : State) (die : BitVec 2) (pa : Nat) : Bool :=
  (List.range 8).any fun k =>
    let base := s.mreg die (offHdm k)
    (s.mreg die (offHdm k + 8)).getLsbD 16 && field base 28 20 * 2 ^ 28 ≤ pa && pa < field base 28 20 * 2 ^ 28 + field base 0 18 * 2 ^ 28

/-- Whether an aperture claims an address for a tenant (R346). -/
def apertureClaims (s : State) (k : Nat) (tenant : BitVec 4) (pa : Nat) : Bool :=
  let base := s.mreg 0 (offAperture k)
  let ctl := s.mreg 0 (offAperture k + 8)
  let lo := field base 28 28 * 2 ^ 28
  ctl.getLsbD 16 && ctl.getLsbD tenant.toNat && lo ≤ pa && pa < lo + field base 0 18 * 2 ^ 28

/-- The peer's location behind an address of an aperture: PEER, and RBASE plus the offset in the window. -/
def apertureLoc (s : State) (k pa : Nat) : Loc :=
  let base := s.mreg 0 (offAperture k)
  let ctl := s.mreg 0 (offAperture k + 8)
  peerLoc (field ctl 28 12) (field ctl 40 24 * 2 ^ 28 + (pa - field base 28 28 * 2 ^ 28))

/-- The location behind a physical address for a tenant, or none where no memory lies (R228). -/
def locOf (s : State) (tenant : BitVec 4) (pa : Nat) : Option Loc :=
  if pa < Config.hbmEnd then some pa
  else if Config.cxlBase ≤ pa && pa < Config.cxlEnd then (cxlPort s tenant pa).map fun _ => pa
  else if Config.apertureBase ≤ pa && pa < Config.apertureEnd then
    ((List.range 64).find? fun k => apertureClaims s k tenant pa).map fun k => apertureLoc s k pa
  else none

/-- The die that homes a location (R229): the stack's die for HBM, the port's die for CXL memory. A scratchpad, which has no home slice
(R262), lies on its core's die; a peer's memory has its home at the peer (R346), and no die is asked for it. -/
def homeDie (s : State) (l : Loc) : BitVec 2 :=
  if isSpad l then coreDie ((l - 2 ^ 60) / 2 ^ 21)
  else if l < Config.hbmEnd then stackDie (stackOf l)
  else ([0, 1, 2, 3].find? fun die => portWindow s die l).getD 0

/-- The home slice of a line (R229), numbered over the package: die × 64 + slice (R260). -/
def homeSlice (s : State) (line : Nat) : Nat := (homeDie s (128 * line)).toNat * 64 + (line % 64 ^^^ line / 64 % 64)

/-! ### Outside accesses -/

/-- The identifier that the device's own accesses carry: no thread has it, so every claim holds them back (R262). -/
abbrev deviceTid : BitVec 32 := 0xFFFFFFFF

/-- Whether an outside access writes. -/
def memOpWrites : MemOp → Bool
  | .read _ => false
  | .write _ => true
  | .amo _ _ _ | .publish _ => true

/-- Bytes of an outside access. -/
def memOpBytes : MemOp → Nat
  | .read n => n.toNat
  | .write d => d.length
  | .amo _ _ _ | .publish _ => 8

/-! ### What holds an access back -/

/-- Whether two byte ranges share a byte. -/
def overlap (a n b m : Nat) : Bool := decide (a < b + m) && decide (b < a + n)

/-- Whether the die that homes a location has failed. -/
def homeFailed (s : State) (l : Loc) : Bool := !s.failedDies.isEmpty && s.failedDies.mem (homeDie s l).toNat

/-- Whether a granted claim of another thread holds an access back (R262, R263). The slices of a failed die have lost theirs (R269). -/
def claimHolds (s : State) (tid : BitVec 32) (write : Bool) (l : Loc) (n : Nat) : Bool :=
  (s.claims.any fun c => c.granted && c.tid != tid && (write || c.write) &&
    c.ranges.any fun r => overlap l n r.1 r.2) && !homeFailed s l

/-- Whether a packet is held back by a claim (R262). -/
def packetHeld (s : State) (p : Packet) : Bool :=
  claimHolds s deviceTid (memOpWrites p.access.op) p.access.pa.toNat (memOpBytes p.access.op)

/-- Whether a packet that has arrived at its base die and is not held back stands before an access to a common byte (R235). -/
def packetAhead (s : State) (l : Loc) (n : Nat) : Bool :=
  s.packets.any fun p => overlap l n p.access.pa.toNat (memOpBytes p.access.op) && !packetHeld s p

/-- Operations of an accord whose events read or write a row's data (R301). -/
def TagOp.data (op : TagOp) : Bool := op = .tclr || op = .tfill || op = .tsum

/-- Operations whose events read claims of other threads hold back (R262). -/
def TagOp.overwrites (op : TagOp) : Bool := op = .tclr || op = .tfill

/-- Whether an event that has entered its bank's queue stands before an access to its row (R300, R301). -/
def rowAhead (s : State) (l : Loc) (n : Nat) : Bool :=
  s.accords.any fun a => a.op.data && a.rows.any fun r =>
    r.queued.isSome && overlap l n r.pa 1024 && !claimHolds s a.tid a.op.overwrites r.pa 1024

/-- Whether the die that homes a location has stopped its islands, so that no home slice serves it (R351, log 90). -/
def homeStopped (s : State) (l : Loc) : Bool := !s.stoppedDies.isEmpty && s.stoppedDies.mem (homeDie s l).toNat

/-- Whether an access waits: at a claim, at a stack in self-refresh (R241), at a home slice that has stopped, behind a packet (R235) or an
accord's event (R300), or for a path to its peer (R348). -/
def heldBack (s : State) (tid : BitVec 32) (write : Bool) (l : Loc) (n : Nat) : Bool :=
  if isSpad l then false
  else if isPeer l then s.downPaths.mem (peerOf l)
  else claimHolds s tid write l n || (l < Config.hbmEnd && s.selfRefresh.mem (stackOf l).toNat) || homeStopped s l ||
    packetAhead s l n || rowAhead s l n

/-- Whether something holds back the device's access to a range (R262, log 52). -/
def rangeHeld (s : State) (write : Bool) (l n : Nat) : Bool :=
  (List.range ((n + 65535) / 65536)).any fun k => heldBack s deviceTid write (l + 65536 * k) (min 65536 (n - 65536 * k))

/-- Whether a location's line was lost with its home die, or with a holder of it (R269, R336). -/
def lineLost (s : State) (l : Loc) (n : Nat) : Bool :=
  s.lostLines.meets (lineOf l) (lineOf (l + n - 1) - lineOf l + 1) ||
    (!s.failedDies.isEmpty && ((l + n - 1) :: (List.range (n / 65536 + 1)).map fun k => l + 65536 * k).any fun a =>
      s.failedDies.mem (homeDie s a).toNat)

/-- The granules, by address / 16, that the bad words of an L1 copy poison in memory when it is written back (R242). -/
def L1Line.badGranules (c : L1Line) : List Nat :=
  c.bad.flatMap fun w => [(128 * c.line + 8 * w) / 32 * 2, (128 * c.line + 8 * w) / 32 * 2 + 1]

/-- Whether a modified copy that an access recalls would bring poison to bytes (R231, R242). `own` is the core whose own copy serves the access. -/
def recallsPoison (s : State) (own : Option Nat) (l : Loc) (n : Nat) : Bool :=
  s.l1.any fun c => c.modified && own != some c.core && c.badGranules.any fun g => l / 16 ≤ g && g ≤ (l + n - 1) / 16

/-- Whether a core's own copy gives a poisoned word (R242). -/
def ownPoison (s : State) (own : Option Nat) (l : Loc) (n : Nat) : Bool :=
  s.l1.any fun c => own = some c.core && c.bad.any fun w => overlap l n (128 * c.line + 8 * w) 8

/-- The poisoned-data subcause that a read of bytes meets, if any (R334). A scalar read of a core whose L1 holds the line names that core. -/
def poisonSub (s : State) (l : Loc) (n : Nat) (own : Option Nat := none) : Option (BitVec 8) :=
  if isSpad l then (if s.poison.meets (l / 16) ((l + n - 1) / 16 - l / 16 + 1) then some 0x03 else none)
  else if isPeer l then (if s.deadPaths.mem (peerOf l) then some 0x01 else none)
  else if lineLost s l n then some 0x05
  else if s.poison.meets (l / 16) ((l + n - 1) / 16 - l / 16 + 1) || recallsPoison s own l n || ownPoison s own l n then some 0x01
  else none

/-! ### Reading and writing locations -/

/-- The bytes at a location. -/
def State.loadBytes (s : State) (l : Loc) (n : Nat) : List Byte := s.mem.readBytes l n

/-- The doubleword at a location. -/
def State.mem64 (s : State) (l : Loc) : Dword := leDword (s.loadBytes l 8)

/-- A write breaks every gather link on the lines it touches (R103, R104, R161). -/
def breakLinks (lo hi : Nat) (ks : List Link) : List Link :=
  ks.map fun k => if lo ≤ k.line && k.line ≤ hi then { k with intact := false } else k

/-- Sectors of 32 bytes count against a tenant's share of a stack's bandwidth (R304, R343). -/
def State.chargeHbm (s : State) (stack tenant : BitVec 4) (sectors : Nat) : State :=
  let k := stack.toNat * 16 + tenant.toNat
  { s with hbmDeficit := Sparse.set 0 s.hbmDeficit k (Sparse.get 0 s.hbmDeficit k - sectors) }

/-- The size of the granule whose whole write clears poison: 16 bytes of scratchpad, 32 bytes of memory (R236, R242). -/
def granule (l : Loc) : Nat := if isSpad l then 16 else 32

/-- Poison after a write of bytes l … l + n − 1: every granule that the write covers whole is clean (R334). -/
def poisonAfter (p : NatSet) (l : Loc) (n : Nat) : NatSet :=
  let g := granule l
  let lo := ceilDiv l g
  let hi := (l + n) / g
  p.clear (lo * (g / 16)) ((hi - lo) * (g / 16))

/-- Breaks every thread's links on the lines of a write. -/
def State.breakLinksAt (s : State) (l : Loc) (n : Nat) : State :=
  { s with threads := s.threads.map fun t => { t with links := breakLinks (lineOf l) (lineOf (l + n - 1)) t.links } }

/-- The granule of a location is poisoned. -/
def poisonAt (p : NatSet) (l : Loc) : NatSet :=
  if isSpad l then NatSet.insert p (l / 16) else NatSet.insert (NatSet.insert p (l / 32 * 2)) (l / 32 * 2 + 1)

/-- What the write-back of modified copies that a test names brings to memory besides their data: the poison of their bad words (R242). -/
def State.poisonBack (s : State) (p : L1Line → Bool) : State :=
  { s with poison := ((s.l1.filter fun c => p c && c.modified).flatMap L1Line.badGranules).foldl NatSet.insert s.poison }

/-- The L1 copies that a test names are written back, where they are modified, and stay. -/
def State.cleanL1 (s : State) (p : L1Line → Bool) : State :=
  { s.poisonBack p with l1 := s.l1.map fun c => if p c then { c with modified := false } else c }

/-- The L1 copies that a test names are written back, where they are modified, and go. -/
def State.discardL1 (s : State) (p : L1Line → Bool) : State := { s.poisonBack p with l1 := s.l1.filter fun c => !p c }

/-- Whether a copy is of a line of some bytes. -/
def L1Line.meets (c : L1Line) (l : Loc) (n : Nat) : Bool := decide (lineOf l ≤ c.line) && decide (c.line ≤ lineOf (l + n - 1))

/-- What a write does to copies of its lines: links break, L1 copies and the host's copies go (R161, R230, R340). No cache holds a byte of a
scratchpad (R229). -/
def State.invalidate (s : State) (l : Loc) (n : Nat) : State :=
  { (s.discardL1 fun c => !isSpad l && c.meets l n).breakLinksAt l n with
    hostCopies := s.hostCopies.clear (lineOf l) (lineOf (l + n - 1) - lineOf l + 1) }

/-- Lines that a streaming write or a row operation has changed stand in no L2 (R207, R231). -/
def State.dropL2 (s : State) (l : Loc) (n : Nat) : State :=
  { s with l2 := s.l2.filter fun c => !(decide (lineOf l ≤ c.line) && decide (c.line ≤ lineOf (l + n - 1))) }

/-- Whether a line holds a byte of some ranges. -/
def lineMeets (rs : List (Nat × Nat)) (line : Nat) : Bool := rs.any fun r => overlap (128 * line) 128 r.1 r.2

/-- What the grant of a claim does to copies of its lines (R264): modified ones are written back, and before a write every copy goes, the host's
too. -/
def State.recallLines (s : State) (write : Bool) (rs : List (Nat × Nat)) : State :=
  if write then
    { s.discardL1 fun c => lineMeets rs c.line with
      hostCopies := rs.foldl (fun xs r => xs.clear (lineOf r.1) (lineOf (r.1 + r.2 - 1) - lineOf r.1 + 1)) s.hostCopies }
  else s.cleanL1 fun c => lineMeets rs c.line

/-- What the end of a tenure does to the lines that the holder's core keeps in tile mode (R265): modified ones are written back, the others
discarded. -/
def State.leaveTileMode (s : State) (core : Nat) (rs : List (Nat × Nat)) : State :=
  let mine := fun c : L1Line => c.core = core && lineMeets rs c.line
  ({ s with l1 := s.l1.filter fun c => !mine c || c.modified } : State).cleanL1 mine

/-- An access through an aperture is a packet with the next sequence number for its peer, kept until it is acknowledged (R347); none goes to
a peer to which no path remains (R348). -/
def State.sendPacket (s : State) (l : Loc) (op : MemOp) (release : Bool) : State :=
  if isPeer l && !s.deadPaths.mem (peerOf l) then
    let peer := peerOf l
    let seq := Sparse.get 0 s.sendSeq peer
    { s with
      sendSeq := Sparse.set 0 s.sendSeq peer (seq + 1)
      unacked := s.unacked ++ [{ peer := BitVec.ofNat 12 peer, seq := seq, copies := 1,
                                 access := { pa := BitVec.ofNat 56 (l % 2 ^ 57), op := op, release := release } }] }
  else s

/-- The correctable errors in the granules that bytes touch. -/
def softIn (s : State) (l : Loc) (n : Nat) : Nat :=
  (s.softErrors.filter fun k => l / 32 * 2 ≤ k && k ≤ (l + n - 1) / 32 * 2).length

/-- What a read of bytes does besides giving them: a read of HBM or CXL memory counts the correctable errors that it corrects (R242) and recalls
modified copies of its lines, that of the reading core `own` apart (R231); a read of a peer's memory sends packets, one for each line (R347); a
read of a scratchpad does nothing besides. -/
def State.noteRead (s : State) (l : Loc) (n : Nat) (own : Option Nat := none) : State :=
  if isPeer l then
    (List.range (lineOf (l + n - 1) - lineOf l + 1)).foldl (fun s k =>
      let lo := max l ((lineOf l + k) * 128)
      s.sendPacket lo (.read (BitVec.ofNat 8 (min (l + n) ((lineOf l + k) * 128 + 128) - lo))) false) s
  else if isSpad l then s
  else { s.cleanL1 (fun c => own != some c.core && c.meets l n) with corrected := s.corrected + softIn s l n }

/-- What several reads (location, bytes) do. -/
def State.noteReads (s : State) (rs : List (Nat × Nat)) : State := rs.foldl (fun s r => s.noteRead r.1 r.2) s

/-- The bytes of a write event: memory, poison, correctable errors, links. A granule written in part is read, corrected and written, which
removes its correctable error (R236). No write reaches a peer to which no path remains (R348). -/
def State.putBytes (s : State) (l : Loc) (bs : List Byte) : State :=
  if bs.isEmpty || (isPeer l && s.deadPaths.mem (peerOf l)) then s
  else
    let n := bs.length
    let s1 := s.invalidate l n
    let poison := poisonAfter s1.poison l n
    let failed := !isSpad l && poison.meets (l / 16) ((l + n - 1) / 16 - l / 16 + 1)
    let whole := poisonAfter s.softErrors l n
    { s1 with
      mem := s.mem.writeBytes l bs
      poison := poison
      softErrors := whole.clear (l / 32 * 2) ((l + n - 1) / 32 * 2 - l / 32 * 2 + 1)
      corrected := s.corrected + (whole.filter fun k => l / 32 * 2 ≤ k && k ≤ (l + n - 1) / 32 * 2).length
      reports := if failed then s.reports ++ [.writeFailed l] else s.reports }

/-- A write event at a location, through an aperture a packet. -/
def State.storeBytes (s : State) (l : Loc) (bs : List Byte) : State :=
  if bs.isEmpty then s else (s.sendPacket l (.write bs) false).putBytes l bs

/-- A write event of a doubleword. -/
def State.store64 (s : State) (l : Loc) (v : Dword) : State := s.storeBytes l (leBytes 8 v.toNat)

/-- Writes zero to a range of locations, of which no cache keeps a copy (R199, R207). -/
def State.zeroRange (s : State) (l : Loc) (n : Nat) : State :=
  let s1 := (s.invalidate l n).dropL2 l n
  { s1 with
    mem := Sparse.clear s.mem l n
    poison := poisonAfter s1.poison l n
    softErrors := poisonAfter s.softErrors l n }

/-- Reports something to system software. -/
def State.report (s : State) (r : Report) : State := { s with reports := s.reports ++ [r] }

/-! ### Vectors (R338) -/

/-- A doubleword of the MSI-X table of a tenant's virtual function: entry k holds an address in doubleword 2k, data in the low half of
doubleword 2k + 1, and the mask in its bit 32. Every entry is masked at reset (log 83). -/
def msixWord (s : State) (tenant : BitVec 4) (k : Nat) : Dword :=
  Sparse.get (if k % 2 = 1 then 0x100000000 else 0) s.msixTable (tenant.toNat * 128 + k)

/-- Whether a vector is masked. -/
def msixMasked (s : State) (tenant : BitVec 4) (v : Nat) : Bool := (msixWord s tenant (2 * v + 1)).getLsbD 32

/-- Sends a vector's message to the host. -/
def State.sendMessage (s : State) (tenant : BitVec 4) (v : Nat) : State :=
  s.report (.message tenant v (msixWord s tenant (2 * v)) (msixWord s tenant (2 * v + 1) &&& 0xFFFFFFFF))

/-- Raises a vector of a tenant's virtual function (R338): its message goes, or its bit of the pending-bit array is set while it is masked. -/
def State.raiseVector (s : State) (tenant : BitVec 4) (v : Nat) : State :=
  if msixMasked s tenant v then { s with msix := s.msix.insert (tenant.toNat * 64 + v) } else s.sendMessage tenant v

/-- A write of the table: a pending vector that is no longer masked sends its message. -/
def State.writeMsix (s : State) (tenant : BitVec 4) (k : Nat) (v : Dword) : State :=
  let s1 := { s with msixTable := Sparse.set (if k % 2 = 1 then 0x100000000 else 0) s.msixTable (tenant.toNat * 128 + k) v }
  let vec := k / 2
  if s1.msix.mem (tenant.toNat * 64 + vec) && !msixMasked s1 tenant vec then
    { s1 with msix := s1.msix.remove (tenant.toNat * 64 + vec) }.sendMessage tenant vec
  else s1

end Sys2Proof.Machine
end

