-- ==== Sys2Proof/Machine/Caches.lean ====
section
/-! DEFINITION. The lines that the L1s and the L2 slices hold (R229 to R232, R161). What an access allocates, and when, is the device's
choice (log 80): the values that accesses give are those of the one coherent memory. -/

namespace Sys2Proof.Machine

/-- Ways of a set of an L2 slice, and of an L1 (R230). -/
abbrev l2Ways : Nat := 16
abbrev l1Ways : Nat := 8

/-- Whether a line is one that caches hold: of HBM or of CXL memory (R229). -/
def cacheable (line : Nat) : Bool := 128 * line < Config.cxlEnd

/-- Whether two lines belong to one of the 512 sets of one slice (R230, log 80). -/
def sameL2Set (s : State) (a b : Nat) : Bool := homeSlice s a = homeSlice s b && a / 64 % 512 = b / 64 % 512

/-- Whether some thread's link on a line is intact (R161). -/
def linkedLine (s : State) (line : Nat) : Bool := s.threads.any fun t => t.links.any fun k => k.line = line && k.intact

/-- A field of a tenant's L2WQ register on the home die of a line (R232). -/
def wayQuota (s : State) (line lo : Nat) (u : BitVec 4) : Nat := field (s.mreg (homeDie s (128 * line)) (offL2wq u)) lo 5

/-- What a fill does. -/
inductive L2Fill where
  | free
  | evict (line : Nat)
  | none
  deriving DecidableEq, Repr

/-- The victim of a fill for a tenant (R232); `s.l2` has the least recently used line first. -/
def l2Fill (s : State) (tenant : BitVec 4) (line : Nat) : L2Fill :=
  let set := s.l2.filter fun x => sameL2Set s x.line line
  let count := fun u : BitVec 4 => (set.filter fun x => x.tenant = u).length
  let full := wayQuota s line 0 tenant ≤ count tenant
  let cand := set.filter fun x => x.tenant = tenant || (!full && wayQuota s line 16 x.tenant < count x.tenant)
  if !full && set.length < l2Ways then .free
  else
    match cand.find? fun x => !linkedLine s x.line && !x.pinned with
    | some x => .evict x.line
    | none =>
      if l2Ways ≤ set.length && set.all fun x => linkedLine s x.line || x.pinned then
        match cand.find? fun x => linkedLine s x.line && !x.pinned with
        | some x => .evict x.line
        | none => .none
      else .none

/-- A line leaves its home slice: its links break, and L1 copies, which the slice's directory tracks, go with it (R161, R230). -/
def evictL2 (s : State) (line : Nat) : State :=
  { (s.discardL1 fun c => c.line = line).breakLinksAt (128 * line) 128 with
    l2 := s.l2.filter fun x => x.line != line }

/-- An access of a tenant allocates a line in its home slice, or uses it there (R232). -/
def fillL2 (s : State) (tenant : BitVec 4) (line : Nat) : State :=
  if !cacheable line then s
  else
    match s.l2.find? fun x => x.line = line with
    | some x => { s with l2 := (s.l2.filter fun y => y.line != line) ++ [x] }
    | none =>
      let add := fun s : State => { s with l2 := s.l2 ++ [{ line := line, tenant := tenant, pinned := false }] }
      match l2Fill s tenant line with
      | .free => add s
      | .evict v => add (evictL2 s v)
      | .none => s

/-- A core's L1 takes a copy of a line: the least recently used of a full set goes, and a modified copy elsewhere is written back. -/
def fillL1 (s : State) (core line : Nat) : State :=
  if !cacheable line then s
  else
    let s1 := (s.discardL1 fun c => c.core = core && c.line = line).cleanL1 fun c => c.line = line
    let set := s1.l1.filter fun c => c.core = core && c.line % 256 = line % 256
    let s2 := match set with
      | v :: _ => if l1Ways ≤ set.length then s1.discardL1 fun c => c.core = core && c.line = v.line else s1
      | [] => s1
    { s2 with l1 := s2.l1 ++ [{ core := core, line := line, modified := false, bad := [] }] }

/-- A copy that its core has written: the words that it has written whole are good again. -/
def L1Line.written (c : L1Line) (l : Loc) (n : Nat) : L1Line :=
  { c with modified := true, bad := c.bad.filter fun w => !(decide (l ≤ 128 * c.line + 8 * w) && decide (128 * c.line + 8 * w + 8 ≤ l + n)) }

/-- A write to a streaming page leaves no copy of its lines in an L2 (R231). -/
def bypassL2 (s : State) (streaming : Bool) (l : Loc) (n : Nat) : State := if streaming then s.dropL2 l n else s

/-- A core's store: a copy that its L1 holds stays, modified (R230). A store to a streaming page leaves no copy in any cache (R231). -/
def storeFrom (s : State) (core : Nat) (streaming : Bool) (l : Loc) (bs : List Byte) : State :=
  let mine := s.l1.filter fun c => c.core = core && c.meets l bs.length
  if bs.isEmpty then s
  else if streaming then bypassL2 (s.storeBytes l bs) true l bs.length
  else if mine.isEmpty then s.storeBytes l bs
  else
    let s1 := ({ s with l1 := s.l1.filter fun c => !(c.core = core && c.meets l bs.length) } : State).storeBytes l bs
    { s1 with l1 := s1.l1 ++ mine.map fun c => c.written l bs.length }

/-- A write that does not come by a core's L1. -/
def storeVia (s : State) (streaming : Bool) (l : Loc) (bs : List Byte) : State :=
  bypassL2 (s.storeBytes l bs) streaming l bs.length

end Sys2Proof.Machine
end

