-- ==== Sys2Proof/Machine/Translate.lean ====
section
/-! DEFINITION. Translation (R148, R309, R324 to R328): virtual addresses to locations, with the fault that a walk ends in. -/

namespace Sys2Proof.Machine

/-- Kinds of access, coded as a fault record codes them (R330). -/
abbrev accLoad : BitVec 2 := 0
abbrev accStore : BitVec 2 := 1
abbrev accAmo : BitVec 2 := 2
abbrev accFetch : BitVec 2 := 3

/-- Who makes an access: the thread whose claims let it pass, its tenant and level, the root, the translator (a core, or 256 + stack
for the stream translator of a base die, R327), and the crew's scratchpad range on its core. -/
structure Agent where
  tid     : BitVec 32
  tenant  : BitVec 4
  sup     : Bool
  atp     : Dword
  unit    : Nat
  core    : Nat
  spadLo  : Nat
  spadLen : Nat
  deriving DecidableEq, Repr

/-- A thread as the maker of its own accesses. -/
def Thread.agent (t : Thread) : Agent :=
  { tid := t.tid, tenant := t.tenant, sup := t.sup, atp := t.atp, unit := t.core, core := t.core,
    spadLo := t.spadLo, spadLen := t.spadLen }

/-- The outcome of an access: done, held back, or a fault. -/
inductive Res (α : Type) where
  | ok (a : α)
  | wait
  | fault (f : Flt)
  deriving Repr

def Res.bind {α β : Type} (r : Res α) (f : α → Res β) : Res β :=
  match r with
  | .ok a => f a
  | .wait => .wait
  | .fault e => .fault e

/-! ### The expert residency table (R307 to R309) -/

/-- Address of the entry of expert x, when the tenant has a table that holds it. -/
def ertEntry (s : State) (tenant : BitVec 4) (x : Nat) : Option Nat :=
  let cfg := s.mreg 0 (offErtcfg tenant)
  if field cfg 12 45 = 0 || field cfg 0 12 < x then none
  else some (field cfg 12 45 * 4096 + 32 * x)

def ertState (s : State) (e : Nat) : Nat := field (s.mem64 e) 61 3
def ertPins (s : State) (e : Nat) : Nat := field (s.mem64 e) 32 16
def ertSlot (s : State) (e : Nat) : Nat := field (s.mem64 e) 16 16
def ertPages (s : State) (e : Nat) : Nat := field (s.mem64 (e + 16)) 0 28

/-- Whether an access to the entry of expert x waits at its home slice (R262, R308). -/
def ertHeld (s : State) (tid : BitVec 32) (tenant : BitVec 4) (write : Bool) (x : Nat) : Bool :=
  (ertEntry s tenant x).any fun e => heldBack s tid write e 32

/-- Address of slot k of a tenant's pool (R307). -/
def poolSlot (s : State) (tenant : BitVec 4) (k : Nat) : Nat :=
  let p := s.mreg 0 (offExppool tenant)
  field p 16 41 * 65536 + k * 2 ^ field p 11 5

/-! ### The walk (R324, R325) -/

/-- Bytes that a leaf of a level maps. -/
def leafSize (level : Nat) : Nat := 2 ^ (12 + 9 * level)

/-- Whether bits [63:57] of an address equal bit 56. -/
def canonical (va : Dword) : Bool :=
  let top := field va 56 8
  top = 0 || top = 255

/-- A fault of an access at an address. -/
def mkFault (cause sub : BitVec 8) (va : Dword) (acc : BitVec 2) : Flt := ⟨cause, sub, va, va, acc, none, []⟩

/-- An outcome that has taken some reads of page-table entries: a fault keeps them, for the marks that they leave (R242, R347). -/
def Res.after {α : Type} (rs : List (Nat × Nat)) : Res α → Res α
  | .fault f => .fault { f with reads := rs ++ f.reads }
  | r => r

/-- The reads that a translation has taken. -/
def Trans.reads (t : Trans) : List (Nat × Nat) := t.entry.elim [] (·.reads)

/-- Whether a leaf denies an access (R323, R325). -/
def denies (e : Dword) (sup : Bool) (acc : BitVec 2) : Bool :=
  let r := e.getLsbD 1
  let w := e.getLsbD 2
  let x := e.getLsbD 3
  let u := e.getLsbD 4
  let perm := if acc = accLoad then r else if acc = accStore then w else if acc = accAmo then r && w else x
  !perm || (if sup then (acc = accFetch && u) else !u)

/-- The last table row: a leaf's physical address, an expert-backed leaf's slot address. -/
def leafAddress (s : State) (tenant : BitVec 4) (e : Dword) (level va : Nat) : Except (BitVec 8 × BitVec 8) Nat :=
  let off := va % leafSize level
  if e.getLsbD 57 then
    match ertEntry s tenant (field e 38 16) with
    | none => .error (0x05, 0x01)
    | some x =>
      if ertState s x = 2 then .ok (poolSlot s tenant (ertSlot s x) + field e 10 28 * 4096 + off)
      else .error (0x06, 0x02)
  else .ok (field e 10 44 * 4096 + off)

/-- Whether an expert-backed leaf fails a test of R309. -/
def expertTest (s : State) (tenant : BitVec 4) (e : Dword) (level : Nat) : Bool :=
  match ertEntry s tenant (field e 38 16) with
  | none => true
  | some x => ertPages s x * 4096 < field e 10 28 * 4096 + leafSize level || field e 10 28 % 2 ^ (9 * level) != 0

/-- What a valid leaf at a level gives, by the rows of R325 in order. The lines of an aperture are streaming lines (R346). -/
def checkLeaf (s : State) (ag : Agent) (acc : BitVec 2) (va : Dword) (e : Dword) (level : Nat) (entry : LeafRef) : Res Trans :=
  let fail (c : BitVec 8 × BitVec 8) : Res Trans := .fault { mkFault c.1 c.2 va acc with reads := entry.reads }
  if e.getLsbD 57 && expertTest s ag.tenant e level then fail (0x05, 0x01)
  else if field e 59 2 = 3 then fail (0x07, 0x01)
  else if field e 54 2 != 0 then fail (0x07, 0x02)
  else if denies e ag.sup acc then fail (0x04, 0x01)
  else
    if e.getLsbD 57 && ertHeld s ag.tid ag.tenant false (field e 38 16) then .wait
    else
    match leafAddress s ag.tenant e level va.toNat with
    | .error c =>
      .fault { mkFault c.1 c.2 va acc with expert := if c.1 = 0x06 then some (e.extractLsb' 38 16) else none, reads := entry.reads }
    | .ok pa =>
      match locOf s ag.tenant pa with
      | none => fail (0x05, 0x04)
      | some l => .ok
          { loc := l, pa := pa, kind := BitVec.ofNat 2 (field e 59 2), tagged := e.getLsbD 58,
            streaming := e.getLsbD 56 || isPeer l, entry := some entry }

/-- Whether a leaf is valid: it passes R309 and has no reserved attribute. Whom it permits what is another matter (R325, R326). -/
def validLeaf (s : State) (tenant : BitVec 4) (e : Dword) (level : Nat) : Bool :=
  !(e.getLsbD 57 && expertTest s tenant e level) && field e 59 2 != 3 && field e 54 2 = 0

/-- Whether an entry is malformed at a level (R325). -/
def malformed (e : Dword) (level : Nat) : Bool :=
  let leaf := e.getLsbD 1 || e.getLsbD 2 || e.getLsbD 3
  (e.getLsbD 2 && !e.getLsbD 1) ||
  (leaf && !e.getLsbD 57 && field e 10 44 % 2 ^ (9 * level) != 0) ||
  (!leaf && field e 54 7 != 0) || field e 61 3 != 0 || (!leaf && level = 0)

/-- The fault of a walk that reads a poisoned entry: a lost line's own, else a poisoned page-table entry (R326, R336). -/
def walkPoison (sub : BitVec 8) (va : Dword) (acc : BitVec 2) : Flt :=
  if sub = 0x05 then mkFault 0x15 0x05 va acc else mkFault 0x19 0x03 va acc

/-- The walk from a table on: the leaf, its level and the location of its entry, or the fault. Level 4 is the root. The entries are read as
ordinary reads, which wait as such (R326). -/
def walk (s : State) (ag : Agent) (acc : BitVec 2) (va : Dword) : Nat → Nat → Res (Dword × Nat × LeafRef)
  | level, table =>
    match locOf s ag.tenant (table + 8 * bits va.toNat (12 + 9 * level) 9) with
    | none => .fault (mkFault 0x05 0x04 va acc)
    | some at_ =>
      let e := s.mem64 at_
      if heldBack s ag.tid false at_ 8 then .wait
      else
        Res.after [(at_, 8)] <|
        match poisonSub s at_ 8 with
        | some sub => .fault (walkPoison sub va acc)
        | none =>
          if !e.getLsbD 0 then
            (if e.getLsbD 8 then .fault (mkFault 0x06 0x01 va acc) else .fault (mkFault 0x05 0x01 va acc))
          else if malformed e level then .fault (mkFault 0x05 0x03 va acc)
          else if e.getLsbD 1 || e.getLsbD 2 || e.getLsbD 3 then .ok (e, level, { loc := at_, reads := [(at_, 8)] })
          else
            match level with
            | 0 => .fault (mkFault 0x05 0x03 va acc)
            | l + 1 => (walk s ag acc va l (field e 10 44 * 4096)).bind fun r =>
              .ok (r.1, r.2.1, { r.2.2 with reads := (at_, 8) :: r.2.2.reads })

/-- The cached leaf that a translator holds for an address (R326). -/
def cachedLeaf (s : State) (ag : Agent) (va : Dword) : Option CachedLeaf :=
  s.leaves.find? fun c => c.unit = ag.unit && c.asid = ag.atp.extractLsb' 44 16 &&
    c.va = va.toNat % 2 ^ 57 / leafSize c.level

/-- The leaf of an address: a cached one, or the walk's. -/
def findLeaf (s : State) (ag : Agent) (acc : BitVec 2) (va : Dword) : Res (Dword × Nat × LeafRef) :=
  match cachedLeaf s ag va with
  | some c => .ok (c.leaf, c.level, { loc := c.entry, reads := [] })
  | none => walk s ag acc va 4 (field ag.atp 0 44 * 4096)

/-- What the reads behind a fault do (R242, R347): they are done once, and the fault keeps none. -/
def State.noteFault (s : State) (f : Flt) : State := s.noteReads f.reads

/-- A fault whose reads have left their marks. -/
def Flt.noted (f : Flt) : Flt := { f with reads := [] }

/-- The size of the page of an address: that of the leaf which maps it, or the smallest where none does. -/
def pageSizeAt (s : State) (ag : Agent) (acc : BitVec 2) (va : Nat) : Nat :=
  match findLeaf s ag acc (BitVec.ofNat 64 va) with
  | .ok leaf => leafSize leaf.2.1
  | _ => 4096

/-- Translate (R324 to R326), for an address outside the scratchpad window. A fetch address has only bits [56:0] (R54). -/
def translate (s : State) (ag : Agent) (acc : BitVec 2) (va : Dword) : Res Trans :=
  if acc != accFetch && !canonical va then .fault (mkFault 0x05 0x02 va acc)
  else (findLeaf s ag acc va).bind fun l => checkLeaf s ag acc va l.1 l.2.1 l.2.2

/-- The A bit, and for a store or an AMO the D bit, that an access sets (R326). -/
def leafMark (acc : BitVec 2) : Byte := if acc = accStore || acc = accAmo then 0xC0 else 0x40

/-- What an access does by its translation: the reads that this took, and an AMOOR on the leaf entry that sets A, and D for a store or an AMO,
where they are not set (R326). -/
def State.markLeaf (s : State) (acc : BitVec 2) (entry : Option LeafRef) : State :=
  match entry with
  | none => s
  | some e =>
    let s1 := s.noteReads e.reads
    let old := s1.mem.read e.loc
    let new := old ||| leafMark acc
    if new = old then s1
    else (s1.sendPacket e.loc (.amo .or ((leafMark acc).setWidth 64) 0) false).putBytes e.loc [new]

/-- Whether an access waits because the mark in its leaf entry is still to be made and the entry's line is held back (R326, R262, R241). -/
def leafHeld (s : State) (tid : BitVec 32) (acc : BitVec 2) (entry : Option LeafRef) : Bool :=
  entry.any fun e => s.mem.read e.loc ||| leafMark acc != s.mem.read e.loc && heldBack s tid true e.loc 1

/-- Where an address lies against the scratchpad window (R102, R148): not in it, at an offset, or in the window past the
scratchpad. -/
inductive Window where
  | outside
  | inside (off : Nat)
  | beyond
  deriving DecidableEq, Repr

def window (va : Dword) : Window :=
  let a := va.toNat
  if a < Config.spadBase || Config.spadBase + Config.spadWindow ≤ a then .outside
  else if a - Config.spadBase < Config.spadBytes then .inside (a - Config.spadBase)
  else .beyond

/-- A scratchpad byte range inside the crew's range (R225). -/
def inCrewRange (ag : Agent) (off n : Nat) : Bool := ag.spadLo ≤ off && off + n ≤ ag.spadLo + ag.spadLen

/-- A scratchpad offset as a translation: release-consistent, never walked (R148). -/
def spadTrans (ag : Agent) (off : Nat) : Trans :=
  { loc := spadLoc ag.core off, pa := spadLoc ag.core off, kind := 0, tagged := false, streaming := false, entry := none }

/-- The location of a data access of `n` bytes. In the scratchpad window, an offset past the scratchpad takes `beyondFault`
(R102, R148), one outside the crew's range an access without permission (R225). -/
def locate (s : State) (ag : Agent) (acc : BitVec 2) (va : Dword) (n : Nat) (beyondFault : Flt) : Res Trans :=
  match window va with
  | .inside off => if inCrewRange ag off n then .ok (spadTrans ag off) else .fault (mkFault 0x04 0x02 va acc)
  | .beyond => .fault beyondFault
  | .outside => translate s ag acc va

/-- `locate` for scalar accesses and engines: past the scratchpad lies an access without permission (R102). -/
def locateScalar (s : State) (ag : Agent) (acc : BitVec 2) (va : Dword) (n : Nat) : Res Trans :=
  locate s ag acc va n (mkFault 0x04 0x02 va acc)

/-- The page-wise pieces of n bytes from an address on. -/
def pagePieces : Nat → Nat → Nat → List (Nat × Nat)
  | 0, _, _ => []
  | fuel + 1, va, n =>
    if n = 0 then []
    else
      let k := min n (4096 - va % 4096)
      (va, k) :: pagePieces fuel (va + k) (n - k)

/-- The pages, by first address and size, whose translations a range of n bytes takes; the scratchpad window takes none (R120, R148). -/
def heldPages (s : State) (ag : Agent) (acc : BitVec 2) (va n : Nat) : List (Nat × Nat) :=
  (((pagePieces (n / 4096 + 2) va n).filter fun p => window (BitVec.ofNat 64 p.1) = .outside).map fun p =>
    let size := pageSizeAt s ag acc p.1
    (p.1 / size * size, size)).eraseDups

/-- A translation whose reads have left their marks. -/
def Trans.noted (t : Trans) : Trans := { t with entry := t.entry.map fun e => { e with reads := [] } }

/-- The translations of page pieces by a way of finding locations, or the fault or wait of the first that has none. -/
def piecesOf (find : Nat → Nat → Res Trans) : List (Nat × Nat) → Res (List (Nat × Trans))
  | [] => .ok []
  | p :: r => (find p.1 p.2).bind fun tr => (piecesOf find r).bind fun rs => .ok ((p.2, tr) :: rs)

/-- The translations of the pieces in front of the first that has none. -/
def piecesDone (find : Nat → Nat → Res Trans) : List (Nat × Nat) → List Trans
  | [] => []
  | p :: r =>
    match find p.1 p.2 with
    | .ok tr => tr :: piecesDone find r
    | _ => []

/-- The leaf entries of translations, each page once (R292, R326). -/
def leavesOf (trs : List Trans) : List LeafRef := (trs.filterMap (·.entry)).eraseDups

/-- The reads that translations have taken, each page once. -/
def leafReads (trs : List Trans) : List (Nat × Nat) := (leavesOf trs).flatMap (·.reads)

/-- `markLeaf` for the pages of several translations, each once. -/
def State.markLeaves (s : State) (acc : BitVec 2) (trs : List Trans) : State := (leavesOf trs).foldl (fun s e => s.markLeaf acc (some e)) s

/-- A translated access that is checked against claims (R262) and poison (R334): it may read. `own` is the core whose L1 may serve it. -/
def readable (s : State) (ag : Agent) (acc : BitVec 2) (va : Dword) (t : Trans) (n : Nat) (own : Option Nat := none) : Res Trans :=
  if heldBack s ag.tid (acc = accAmo) t.loc n || leafHeld s ag.tid acc t.entry then .wait
  else
    match poisonSub s t.loc n own with
    | some sub => .fault { mkFault 0x15 sub va acc with reads := t.reads }
    | none => .ok t

/-- A translated access that may write: held back by claims, and by the loss of the line's home (R336). -/
def writable (s : State) (ag : Agent) (va : Dword) (t : Trans) (n : Nat) : Res Trans :=
  if heldBack s ag.tid true t.loc n || leafHeld s ag.tid accStore t.entry then .wait
  else if poisonSub s t.loc n = some 0x05 then .fault { mkFault 0x15 0x05 va accStore with reads := t.reads }
  else .ok t

end Sys2Proof.Machine
end

