-- ==== Sys2Proof/Machine/Requests.lean ====
section
/-! DEFINITION. The request packets of the requester ports (R233, R234) and their share of a stack's bandwidth (R343). An access of a core
performs when its packet is sent; the packet keeps its tag until its replies have returned, at once unless the agenda defers them (log 19). -/

namespace Sys2Proof.Machine

/-- The ports of a core, its L1 miss port, access unit and tile fetch unit, and of a die's engines (log 19). -/
abbrev missPort (core : Nat) : BitVec 12 := BitVec.ofNat 12 core
abbrev accessPort (core : Nat) : BitVec 12 := BitVec.ofNat 12 (0x100 + core)
abbrev tilePort (core : Nat) : BitVec 12 := BitVec.ofNat 12 (0x200 + core)
abbrev enginePort (die : BitVec 2) : BitVec 12 := BitVec.ofNat 12 (0x300 + die.toNat)

/-! ### Tags (R234) -/

/-- The tags of an accord's packets that have not ended: each stack's packet has one of its own, free once the rows of the stack have acted
(R297). -/
def Accord.heldTags (a : Accord) : List (BitVec 8) :=
  (a.tags.filter fun x => a.rows.any fun r => stackOf r.pa = x.1).map (·.2)

/-- The tags that a port holds: of packets on their way, of replies, of packets that keep theirs, and of accords (R234, R297). -/
def heldTags (s : State) (port : BitVec 12) : List (BitVec 8) :=
  ((s.packets.filter fun p => p.port = port).map (·.tag)) ++ ((s.replies.filter fun r => r.port = port).map (·.tag)) ++
    ((s.inflight.filter fun p => p.port = port).map (·.tag)) ++
    (s.accords.filter fun a => missPort (a.tid.extractLsb' 3 8).toNat = port).flatMap (·.heldTags)

/-- The free tags of a port, ascending. -/
def freeTags (s : State) (port : BitVec 12) : List (BitVec 8) :=
  ((List.range 256).map fun k => BitVec.ofNat 8 k).filter fun t => !(heldTags s port).elem t

/-- The lowest free tag of a port (log 19). -/
def freeTag (s : State) (port : BitVec 12) : Option (BitVec 8) :=
  ((List.range 256).map fun k => BitVec.ofNat 8 k).find? fun t => !(heldTags s port).elem t

/-! ### Bandwidth (R343) -/

/-- The bytes of an access. -/
def accessSize (a : MemAccess) : Nat := memOpBytes a.op

/-- Whether a packet can perform: no claim granted since it was sent holds it back (R262), no accord's event stands before it (R300), and none of
the packets before it shares a byte with it (R235). -/
def packetReady (s : State) (before : List Packet) (p : Packet) : Bool :=
  let l := p.access.pa.toNat
  let n := accessSize p.access
  !packetHeld s p && !rowAhead s l n && !before.any fun q => overlap l n q.access.pa.toNat (accessSize q.access)

/-- The packets of a stack that can perform, oldest first. -/
def readyPackets (s : State) (stack : BitVec 4) : List Packet → List Packet → List Packet
  | _, [] => []
  | before, p :: r =>
    let rest := readyPackets s stack (before ++ [p]) r
    if p.stack = stack && packetReady s before p then p :: rest else rest

/-- WEIGHT of a tenant (R342). -/
def hbmWeight (s : State) (t : BitVec 4) : Nat := field (s.mreg 0 (offHbmshare t)) 0 8

/-- Whether packets of other tenants go before one of a tenant at a stack: the tenant has WEIGHT 0 and one of them has not, or its deficit has
run below 0 and one of them is served in its turn (R343). -/
def bandwidthHeld (s : State) (tenant stack : BitVec 4) : Bool :=
  !s.packets.isEmpty &&
    let others := (readyPackets s stack [] s.packets).filter fun p => p.tenant != tenant
    let weighed := others.any fun p => hbmWeight s p.tenant != 0
    (hbmWeight s tenant = 0 && weighed) ||
      ((weighed || (hbmWeight s tenant = 0 && !others.isEmpty)) && decide (Sparse.get 0 s.hbmDeficit (stack.toNat * 16 + tenant.toNat) < 0))

/-- The sectors of an access that performs when it is sent count against its tenant while packets wait at the stack. -/
def useBandwidth (s : State) (tenant stack : BitVec 4) (sectors : Nat) : State :=
  if s.packets.any fun p => p.stack = stack then s.chargeHbm stack tenant sectors else s

/-! ### Packets of the cores and engines (R233) -/

/-- A run of consecutive elements whose packet may take the next: its tag where it keeps one, its last element, the leaf entry of its page, and
the sector that the last element ends in. -/
structure RunPart where
  tag    : Option (BitVec 8)
  last   : Nat
  page   : Option Nat
  sector : Nat
  deriving DecidableEq, Repr

abbrev Run := Option RunPart

/-- The shape of a run: the packet's OP, the byte step, none where the packet carries a list of addresses, and log2 of the element size. -/
structure RunShape where
  op     : PacketOp
  stride : Option Dword
  esz    : Nat
  deriving DecidableEq, Repr

/-- Whether an access leaves the die in a packet: its line is of HBM and no L2 holds it (R231). -/
def leavesDie (s : State) (tr : Trans) : Bool := tr.loc < Config.hbmEnd && !s.l2.any fun x => x.line = lineOf tr.loc

/-- Whether an access waits at its port: for a tag, or behind other tenants' packets (R234, R343). -/
def portHeld (s : State) (port : BitVec 12) (tenant : BitVec 4) (tr : Trans) : Bool :=
  leavesDie s tr && (bandwidthHeld s tenant (stackOf tr.loc) || (s.deferReplies && (freeTag s port).isNone))

/-- Packets that are answered by one acknowledgement (R234). -/
def PacketOp.acked (op : PacketOp) : Bool := op = .write || op = .maskedWrite || op = .row

/-- The index under which element k of a packet's run is answered: its own, or that of the one acknowledgement (R234). -/
def PacketOp.owes (op : PacketOp) (k : Nat) : Nat := if op.acked then 0 else k

/-- The bytes that an access writes, by address: its write data, and by their places its byte mask (R233). -/
def opFlits (l : Nat) : MemOp → List (Nat × Byte)
  | .write d => ((List.range d.length).map (l + ·)).zip d
  | .read _ | .amo _ _ _ | .publish _ => []

/-- A packet takes element k of its run, an access at the address `loc`, which lies on a stack. -/
def Packet.grown (p : Packet) (stack : BitVec 4) (op : MemOp) (loc k : Nat) : Packet :=
  { p with
    len := p.len + 1
    flits := p.flits ++ opFlits loc op
    list := if p.list.isEmpty then [] else p.list ++ [loc]
    owing := if p.stack = stack && !p.owing.elem (p.op.owes k) then p.owing ++ [p.op.owes k] else p.owing }

/-- A packet of a run takes element k; it goes to every base die on which the run has an element (R233). -/
def growPacket (s : State) (port : BitVec 12) (tag : BitVec 8) (stack : BitVec 4) (op : MemOp) (loc i : Nat) : State :=
  let mine := fun p : Packet => p.port = port && p.tag = tag
  let grown := s.inflight.map fun p : Packet => if mine p then p.grown stack op loc (i - p.first.toNat) else p
  let more := match grown.find? mine with
    | some p => if grown.any fun q => mine q && q.stack = stack then [] else [{ p with stack := stack, owing := [p.op.owes (i - p.first.toNat)] }]
    | none => []
  { s with inflight := grown ++ more }

/-- The packet of a run's first element, i of its instruction. -/
def firstPacket (port : BitVec 12) (tag : BitVec 8) (tenant : BitVec 4) (shape : RunShape) (op : MemOp) (tr : Trans) (i : Nat) : Packet :=
  { op := shape.op, stack := stackOf tr.loc, port := port, tag := tag, tenant := tenant, kind := tr.kind,
    stride := (shape.stride.getD 0).setWidth 40, len := 1, esz := BitVec.ofNat 2 shape.esz, first := BitVec.ofNat 16 i,
    access := { pa := BitVec.ofNat 56 tr.loc, op := op, release := false },
    list := if shape.stride.isNone then [tr.loc] else [], flits := opFlits tr.loc op, owing := [0], damaged := false, waited := false }

/-- Sends element i of a run: in the run's packet while it goes on in one page, else in a new one (R233). None while the port sends nothing. -/
def sendRun (s : State) (port : BitVec 12) (tenant : BitVec 4) (run : Run) (shape : RunShape) (op : MemOp) (tr : Trans) (i : Nat) :
    Option (State × Run) :=
  if !leavesDie s tr then some (s, none)
  else
    let page := tr.entry.map (·.loc)
    let last := (tr.loc + memOpBytes op - 1) / 32
    let goesOn := run.filter fun r => r.last + 1 = i && r.page = page
    let sectors := last - tr.loc / 32 + (if goesOn.any fun r => r.sector = tr.loc / 32 then 0 else 1)
    if bandwidthHeld s tenant (stackOf tr.loc) then none
    else
      let s1 := useBandwidth s tenant (stackOf tr.loc) sectors
      let next := fun tag => ({ tag := tag, last := i, page := page, sector := last } : RunPart)
      if !s.deferReplies then some (s1, some (next none))
      else
        match goesOn.bind (·.tag) with
        | some tag => some (growPacket s1 port tag (stackOf tr.loc) op tr.loc i, some (next (some tag)))
        | none => (freeTag s port).map fun tag =>
          ({ s1 with inflight := s1.inflight ++ [firstPacket port tag tenant shape op tr i] }, some (next (some tag)))

/-- The OP of an access (R233). -/
def MemOp.packetOp : MemOp → PacketOp
  | .read _ => .read
  | .write _ => .write
  | .amo _ _ _ | .publish _ => .amo

/-- Elements of a single access of n bytes at an address: the largest that both are multiples of, up to a doubleword, by its log2. -/
def pieceSize (loc n : Nat) : Nat :=
  if loc % 8 = 0 && n % 8 = 0 then 3 else if loc % 4 = 0 && n % 4 = 0 then 2 else if loc % 2 = 0 && n % 2 = 0 then 1 else 0

/-- Sends a single access of n bytes of a port, or none while the port sends nothing. -/
def sendOp (s : State) (port : BitVec 12) (tenant : BitVec 4) (pop : PacketOp) (op : MemOp) (tr : Trans) (n : Nat) : Option State :=
  if !leavesDie s tr then some s
  else if portHeld s port tenant tr then none
  else
    let s1 := useBandwidth s tenant (stackOf tr.loc) ((tr.loc + n - 1) / 32 - tr.loc / 32 + 1)
    if !s.deferReplies then some s1
    else
      (freeTag s port).map fun tag =>
        let esz := pieceSize tr.loc n
        let len := n / 2 ^ esz
        let p := firstPacket port tag tenant { op := pop, stride := some (BitVec.ofNat 64 (2 ^ esz)), esz := esz } op tr 0
        { s1 with inflight := s1.inflight ++
            [{ p with len := BitVec.ofNat 17 len, owing := if pop.acked then [0] else List.range len }] }

/-- `sendOp` with the OP of the access. -/
def sendOne (s : State) (port : BitVec 12) (tenant : BitVec 4) (op : MemOp) (tr : Trans) (n : Nat) : Option State :=
  sendOp s port tenant (MemOp.packetOp op) op tr n

/-- A scalar access goes out by its core's L1 miss port, unless its L1 holds the line (R230, R233). -/
def sendScalar (s : State) (t : Thread) (op : MemOp) (tr : Trans) : Option State :=
  if s.l1.any fun c => c.core = t.core && c.line = lineOf tr.loc then some s
  else sendOne s (missPort t.core) t.tenant op tr (memOpBytes op)

/-- A location that needs no translation, on a release-consistent page. -/
def placeTrans (l : Loc) : Trans := { loc := l, pa := l, kind := 0, tagged := false, streaming := false, entry := none }

end Sys2Proof.Machine
end

