-- ==== Sys2Proof/Machine/Operands.lean ====
section
/-! DEFINITION. Every operand form: scalar fields through the window, the b operand, immediates, vector groups, masks, slot
addresses (R22 to R27, R47, R55 to R58, R126). -/

namespace Sys2Proof

/-- The registers that a b operand reads. -/
def Src.reads (b : Src) : List (BitVec 7) := if b.ext.isSome then [] else [b.field]

/-- Slots of an instruction whose b operand may carry a prefix. -/
def Src.slots (b : Src) : Nat := if b.ext.isSome then 2 else 1

def Imm11.slots (i : Imm11) : Nat := if i.ext.isSome then 2 else 1

def Imm20.slots (i : Imm20) : Nat := if i.ext.isSome then 2 else 1

namespace Machine

/-! ### Scalar registers (R22) -/

/-- The entry of the scalar area that a field names, for a field other than 0. -/
def Thread.entryOf (t : Thread) (f : BitVec 7) : Nat := t.swb.toNat + f.toNat

/-- g(f): zero for field 0. -/
def Thread.g (t : Thread) (f : BitVec 7) : Dword := if f = 0 then 0 else Sparse.get 0 t.scal (t.entryOf f)

/-- Writes g(f): nothing for field 0. A written entry holds no poison. -/
def Thread.setG (t : Thread) (f : BitVec 7) (v : Dword) : Thread :=
  if f = 0 then t
  else { t with scal := Sparse.set 0 t.scal (t.entryOf f) v, badScal := t.badScal.remove (t.entryOf f) }

/-- Whether a field names a poisoned entry (R242). -/
def Thread.badG (t : Thread) (f : BitVec 7) : Bool := f != 0 && t.badScal.mem (t.entryOf f)

/-- The value of the b operand: g(b), or the composed constant (R58). -/
def Thread.src (t : Thread) (b : Src) : Dword :=
  match b.ext with
  | none => t.g b.field
  | some e => constB e b.field

/-! ### Slot addresses (R47, R52 to R54) -/

/-- Whether an address is a slot address. -/
def isSlot (a : BitVec 57) : Bool := 8 ≤ a.toNat % 128 && a.toNat % 4 = 0

/-- The ordinal of a slot address. -/
def ordinal (a : BitVec 57) : Nat := a.toNat / 128 * 30 + (a.toNat % 128 - 8) / 4

/-- The slot address of an ordinal, modulo 2^57. -/
def slotAddress (o : Nat) : BitVec 57 := BitVec.ofNat 57 (o / 30 * 128 + 8 + o % 30 * 4)

/-- The slot that follows `n` slots on. -/
def slotAfter (a : BitVec 57) (n : Nat) : BitVec 57 := slotAddress (ordinal a + n)

/-- Lines of the address space: the modulus of line indices. -/
abbrev lineCount : Nat := 2 ^ 50

/-- The target of a branch or JAL, modulo 2^57 (R53). -/
def branchTarget (a : BitVec 57) (off : Dword) : BitVec 57 :=
  slotAddress (((ordinal a : Int) + off.toInt) % (lineCount * 30 : Nat)).toNat

/-- The repeat counts that go on once the instruction at the pc has completed: its own are over (R332). -/
def Thread.laterRepeats (t : Thread) : List (BitVec 57 × Dword × BitVec 17 × Nat) := t.repeats.filter fun r => r.1 != t.pc

/-- The repeat counts that go on once an instruction is queued: those of its fetch are over, others at its address belong to an entry queued
before it, in a loop (R332). -/
def Thread.queuedRepeats (t : Thread) : List (BitVec 57 × Dword × BitVec 17 × Nat) :=
  t.repeats.filter fun r => r.1 != t.pc || !(r.2.1.toNat / 128 = t.pc.toNat / 128 || r.2.1.toNat / 128 = t.pc.toNat / 128 + 1)

/-- The thread past an instruction of `n` slots. -/
def Thread.advance (t : Thread) (n : Nat) : Thread := { t with pc := slotAfter t.pc n, arrived := none, repeats := t.laterRepeats }

/-! ### Vector type and groups (R13, R24) -/

def vtSew (vt : BitVec 14) : Nat := 8 * 2 ^ (vt.extractLsb' 0 3).toNat
def vtFmt (vt : BitVec 14) : Nat := (vt.extractLsb' 3 3).toNat
def vtGroup (vt : BitVec 14) : Nat := 2 ^ (vt.extractLsb' 6 2).toNat
def vtMsel (vt : BitVec 14) : Nat := (vt.extractLsb' 8 4).toNat
def vtTz (vt : BitVec 14) : Bool := vt.getLsbD 12
def vtIz (vt : BitVec 14) : Bool := vt.getLsbD 13

/-- Whether FMT and SEW go together (R13); reserved codes do not. -/
def vtLegal (vt : BitVec 14) : Bool :=
  let sew := (vt.extractLsb' 0 3).toNat
  let fmt := vtFmt vt
  sew ≤ 3 && (fmt ≤ 1 || (fmt = 2 && sew = 2) || ((fmt = 3 || fmt = 4) && sew = 1) || ((fmt = 5 || fmt = 6) && sew = 0))

/-- Elements of SEW bits that one register holds for k lane groups (R24). -/
def perReg (k sew : Nat) : Nat := k * 1024 / sew

/-- VLMAX: the elements of a group of registers. -/
def vlMax (k : Nat) (vt : BitVec 14) : Nat := perReg k (vtSew vt) * vtGroup vt

/-- The floating-point format that VTYPE.FMT names, for FMT 2 to 6. -/
def vtFormat (vt : BitVec 14) : FpFormat :=
  if vtFmt vt = 2 then fp32
  else if vtFmt vt = 3 then bf16
  else if vtFmt vt = 4 then fp16
  else if vtFmt vt = 5 then e4m3
  else e5m2

/-- A pattern of a format as a datum. -/
def decodeFp (f : FpFormat) (x : Nat) : Fp :=
  if f = e4m3 then decodeE4m3 x else if f = e5m2 then decodeE5m2 x else decodeIeee f x

/-! ### Vector and mask registers (R23 to R26) -/

/-- Byte `j` of a group's reachable bytes: which byte of the thread's vector registers it is. k lane groups reach the first
k × 128 bytes of each register. -/
def groupByte (vwb : BitVec 8) (f : BitVec 7) (k j : Nat) : Nat :=
  let r := k * 128
  (vwb.toNat + f.toNat + j / r) * 8192 + j % r

/-- Byte position in a group of element i of w bits. -/
def elemByte (w i : Nat) : Nat := i * (w / 8)

/-- Element i of the group at a field, at a width of w bits. -/
def readElem (regs : Memory) (vwb : BitVec 8) (f : BitVec 7) (k w i : Nat) : Nat :=
  leNat (Memory.readBytes regs (groupByte vwb f k (elemByte w i)) (w / 8))

/-- Writes element i of the group at a field. -/
def writeElem (regs : Memory) (vwb : BitVec 8) (f : BitVec 7) (k w i v : Nat) : Memory :=
  Memory.writeBytes regs (groupByte vwb f k (elemByte w i)) (leBytes (w / 8) v)

/-- Bit i of mask register m (R26). -/
def maskBit (masks : NatSet) (m i : Nat) : Bool := masks.mem (m * 65536 + i)

/-- Writes bit i of mask register m. -/
def setMaskBit (masks : NatSet) (m i : Nat) (b : Bool) : NatSet := masks.put (m * 65536 + i) b

end Machine

end Sys2Proof
end

