-- ==== Sys2Proof/Machine/Ends.lean ====
section
/-! DEFINITION. Barriers' instances, fault records and the end of a thread (R9, R109, R111, R281, R329 to R333). -/

namespace Sys2Proof.Machine

/-! ### Fault records (R329, R330, R333) -/

def tqTail (s : State) (t : BitVec 4) : Nat := field (s.mreg 0 (offTq t + 8)) 32 16
def tqHead (s : State) (t : BitVec 4) : Nat := field (s.mreg 0 (offTq t + 8)) 0 16

/-- Records in the queue, TAIL − HEAD. -/
def tqUsed (s : State) (t : BitVec 4) : Nat := (tqTail s t + 65536 - tqHead s t) % 65536

/-- N, the size of the queue. -/
def tqSize (s : State) (t : BitVec 4) : Nat := 2 ^ field (s.mreg 0 (offTq t)) 0 4

/-- The first doubleword of a fault record (R330). -/
def recordWord (f : Flt) (count : Nat) (fatal eng : Bool) (slot : BitVec 5) (tenant : BitVec 4) (seq : Nat) : Dword :=
  f.cause ++ f.sub ++ BitVec.ofNat 16 count ++ BitVec.ofBool fatal ++ BitVec.ofBool eng ++ f.access ++ (0 : BitVec 3) ++ slot ++
    tenant ++ BitVec.ofNat 16 seq

/-- Where a tenant's next record lies (R329). -/
def recordAt (s : State) (tenant : BitVec 4) : Nat :=
  field (s.mreg 0 (offTq tenant)) 12 45 * 4096 + 32 * (tqTail s tenant % tqSize s tenant)

/-- Writes a record and then advances TAIL; the service path that the split register selects is signalled (R330, R344). -/
def writeRecord (s : State) (tenant : BitVec 4) (f : Flt) (count : Nat) (fatal eng : Bool) (slot : BitVec 5) (tid : BitVec 32)
    (elem : BitVec 16) : State :=
  let k := tqTail s tenant
  let bytes := leBytes 8 (recordWord f count fatal eng slot tenant k).toNat ++ leBytes 8 tid.toNat ++ leBytes 8 f.va.toNat ++
    leBytes 8 elem.toNat
  let s1 := s.storeBytes (recordAt s tenant) bytes
  let s2 := s1.setMreg 0 (offTq tenant + 8) (setField (s1.mreg 0 (offTq tenant + 8)) 32 16 (k + 1))
  if s2.splitBit tenant 0 then s2.raiseVector tenant 62 else s2

/-- Counts a record that found no room (R329, R333). -/
def countOverflow (s : State) (tenant : BitVec 4) : State :=
  let v := s.mreg 0 (offTq tenant + 16)
  let n := min (field v 1 31 + 1) (2 ^ 31 - 1)
  s.setMreg 0 (offTq tenant + 16) (BitVec.ofNat 64 (n * 2 + 1))

/-- Whether a tenant's next record waits: a claim or a stack in self-refresh holds its write back, or an earlier record waits (R262, R330). -/
def recordHeld (s : State) (tenant : BitVec 4) : Bool :=
  heldBack s deviceTid true (recordAt s tenant) 32 || s.records.any fun r => r.tenant = tenant

/-- The records of a tenant that stand in the queue or wait to be written. -/
def recordCount (s : State) (tenant : BitVec 4) : Nat := tqUsed s tenant + (s.records.filter fun r => r.tenant = tenant).length

/-- Writes the first record that waits no longer, or none. -/
def recordWork (s : State) : Option State :=
  (s.records.find? fun r => !heldBack s deviceTid true (recordAt s r.tenant) 32).map fun r =>
    writeRecord { s with records := s.records.erase r } r.tenant r.flt r.count false r.eng r.slot r.tid r.elem

/-- Queues a record of a replayable fault while a place besides the last is free; answers whether it is queued (R333). -/
def queueRecord (s : State) (tenant : BitVec 4) (f : Flt) (count : Nat) (eng : Bool) (slot : BitVec 5) (tid : BitVec 32)
    (elem : BitVec 16) : State × Bool :=
  if recordCount s tenant + 1 < tqSize s tenant then
    (if recordHeld s tenant then
        { s with records := s.records ++ [{ tenant := tenant, flt := f, count := count, eng := eng, slot := slot, tid := tid, elem := elem }] }
      else writeRecord s tenant f count false eng slot tid elem, true)
  else (countOverflow s tenant, false)

/-! ### Barriers (R109, R111) -/

/-- Completes the crew or gang barrier instance of a group when every live member has arrived. -/
def completeBarrier (s : State) (member : Thread → Bool) (arrived : Wait) (left : Wait) : State :=
  if s.threads.all fun t => !member t || t.wait = arrived then
    { s with threads := s.threads.map fun t => if member t then { t with wait := left } else t }
  else s

/-- The crew barrier of a thread's crew. -/
def completeCrew (s : State) (t : Thread) : State := completeBarrier s (sameCrew t) (.barc false) (.barc true)

/-- The gang barrier of a thread's gang. -/
def completeGang (s : State) (t : Thread) : State := completeBarrier s (sameGang t) (.barg false) (.barg true)

/-- Whether a thread waits in BARW on the counter at a location. -/
def waitsAt (l : Loc) (t : Thread) : Bool :=
  match t.wait with
  | .barw l' _ => l = l'
  | _ => false

/-- Whether a thread that waits in BARW with a bound at a counter can no longer be reached: short exceeds able (R111). -/
def cannotReach (s : State) (t : Thread) (l : Loc) (bound : Dword) : Bool :=
  let able := (s.threads.filter fun u => sameGang t u && !waitsAt l u).length
  able < bound.toNat - (s.mem64 l).toNat

/-- The check of R111 over a thread's gang, on one counter or, when a member ends, on each: every waiter whose short exceeds able is to
trap. -/
def checkCounters (s : State) (t : Thread) (counter : Option Nat) : State :=
  { s with threads := s.threads.map fun u =>
      match u.wait with
      | .barw l bound => if (counter.all fun c => c = l) && sameGang t u && cannotReach s u l bound then { u with wait := .unreachable } else u
      | _ => u }

/-! ### Executed stores (R167, R247) -/

/-- Operations of VMEM that write memory. -/
def VMemOp.stores (op : VMemOp) : Bool := op = .st || op = .sts || op = .stx || op = .sc

/-- Whether an entry of the vector queue still has loads, or stores, to perform. -/
def VEntry.accesses (e : VEntry) (loads stores : Bool) : Bool :=
  match e.op with
  | .mem op _ _ => op != .pf && (if op.stores then stores else loads)
  | _ => false

/-- Whether an entry of the matrix queue still has loads, or stores, to perform (R169). -/
def MEntry.accesses (m : MEntry) (loads stores : Bool) : Bool :=
  m.op != .zero && (if m.op = .sta then stores else loads)

/-- Whether an executed store performs after the accesses of an entry of the vector or the matrix queue (R167). -/
def Pending.follows (p : Pending) (order : Nat) (accesses : Bool → Bool → Bool) : Bool :=
  (order < p.afterVl && accesses true false) || (order < p.afterVs && accesses false true)

/-- The vector entries that the handler has set aside (R320). -/
def Thread.asideQueue (t : Thread) : List VEntry := t.snapshot.elim [] (·.vq)

/-- Whether an executed store waits for vector or matrix accesses that a FENCESV puts before it (R167), those set aside included. -/
def fenceHeld (s : State) (t : Thread) (p : Pending) : Bool :=
  ((t.vq ++ t.asideQueue).any fun e => p.follows e.order e.accesses) ||
    s.matq.any fun m => m.tid = t.tid && p.follows m.order m.accesses

/-- Whether an executed store waits for an entry that goes on only when the thread is back from its handler: what the handler waits for does not
cover such a store (R374, log 94). -/
def asideHeld (s : State) (t : Thread) (p : Pending) : Bool :=
  t.inHandler && ((t.asideQueue.any fun e => p.follows e.order e.accesses) ||
    ((s.matq.filter fun m => m.tid = t.tid).dropWhile fun m => m.stopped.isNone).any fun m => p.follows m.order m.accesses)

/-- An executed store performs, unless a FENCESV or something at its home holds it back or its port sends nothing (R167, R234). -/
def performPending (s : State) (t : Thread) (p : Pending) : Option State :=
  if fenceHeld s t p || heldBack s t.tid true p.loc p.bytes.length then none
  else
    (sendScalar s t (.write p.bytes) { placeTrans p.loc with kind := p.kind, streaming := p.streaming }).map fun s =>
      storeFrom s t.core p.streaming p.loc p.bytes

/-- Performs the scalar stores of a list in order, up to one that cannot; answers those left. -/
def performAll (s : State) (t : Thread) : List Pending → State × List Pending
  | [] => (s, [])
  | p :: r =>
    match performPending s t p with
    | none => (s, p :: r)
    | some s1 => performAll s1 t r

/-- Performs a thread's executed stores as far as none is held back. -/
def flushStores (s : State) (t : Thread) : State :=
  if t.sbuf.isEmpty then s
  else
    let r := performAll s t t.sbuf
    r.1.update t.tid fun u => { u with sbuf := r.2 }

/-- Whether a store has still to perform for which an instruction of the thread can wait. -/
def storesLeft (s : State) (t : Thread) : Bool := t.sbuf.any fun p => !asideHeld s t p

/-- A thread whose queued work is discarded: its executed stores wait for none of it (R281). -/
def Thread.unfenced (t : Thread) : Thread := { t with sbuf := t.sbuf.map fun p => { p with afterVl := 0, afterVs := 0 } }

/-- Performs the executed stores of a thread that ends, as far as none is held back; those of a die that has stopped wait (R351). -/
def endStores (s : State) (t : Thread) : State :=
  if t.sbuf.isEmpty || s.stoppedDies.mem t.die.toNat then s else flushStores (s.update t.tid Thread.unfenced) t.unfenced

/-- Whether a thread's executed stores have all performed. -/
def storesDone (s : State) (tid : BitVec 32) : Bool :=
  match s.thread? tid with
  | none => true
  | some t => t.sbuf.isEmpty

/-! ### The end of a thread (R9) -/

/-- The flags of the rows that a thread's oldest matrix entry has completed: they reach FCSR when it completes or stops (R96). -/
def rowFlags (s : State) (tid : BitVec 32) : BitVec 5 := ((s.matq.find? fun m => m.tid = tid).map (·.flags)).getD 0

/-- Zeroes an accumulator tile and frees it (R28). -/
def freeTile (s : State) (z : Nat) : State :=
  { s with
    acc := Sparse.clear s.acc (z * 262144) 262144
    accPoison := s.accPoison.clear (z * 128) 128
    accOwner := Sparse.set 0 s.accOwner z 0 }

/-- The tiles of a core that a thread owns: keys core × 2 + z. -/
def ownedTiles (s : State) (t : Thread) : List Nat :=
  [t.core * 2, t.core * 2 + 1].filter fun z => Sparse.get 0 s.accOwner z = t.tid.toNat + 1

/-- The gang of a thread ends with its last thread; its task then has one gang less to wait for (R277, R281). -/
def endGang (s : State) (t : Thread) (fatal : Bool) : State :=
  let tasks := s.tasks.map fun k =>
    if k.queue = t.queue && BitVec.ofNat 32 k.seq = t.taskSeq then { k with fatal := k.fatal || fatal } else k
  if s.threads.any (sameGang t) then { s with tasks := tasks }
  else
    { s with
      gangs := s.gangs.filter fun g => !(g.die = t.die && g.id = t.gang)
      tasks := tasks.map fun k =>
        if k.queue = t.queue && BitVec.ofNat 32 k.seq = t.taskSeq then { k with live := k.live - 1 } else k }

/-- Ends a thread: tenures released, tiles zeroed and released, barriers counted, queued work discarded, tickets dropped; its state
returns to system software, with the flags of the matrix rows that were done (R96). A tile saved in its image goes with it. -/
def endThread (s : State) (t : Thread) (fatal : Bool) : State :=
  let s1 := ((ownedTiles s t).foldl freeTile s).leaveTileMode t.core
    ((s.claims.filter fun c => c.tid = t.tid && c.granted).flatMap (·.ranges))
  let s2 := { s1 with
    threads := s1.threads.filter fun u => u.tid != t.tid
    ended := s1.ended ++ [{ t with fcsr := Flags.stick t.fcsr (rowFlags s t.tid) }]
    claims := s1.claims.filter fun c => c.tid != t.tid
    accSaved := s1.accSaved.filter fun e => e.1 != t.tid
    macqWait := s1.macqWait.filter fun e => e.2 != t.tid
    matq := s1.matq.filter fun e => e.tid != t.tid
    accords := s1.accords.filter fun a => a.tid != t.tid }
  let s3 := endGang s2 t fatal
  checkCounters (completeGang (completeCrew s3 t) t) t none

/-- Whether a fatal record can be written now (R333). -/
def fatalRoom (s : State) (tenant : BitVec 4) : Bool := recordCount s tenant < tqSize s tenant && !recordHeld s tenant

/-- Ends a thread with a fatal record, once its stores have performed (R281); while the last place of the trap queue is taken
the thread keeps its slot and waits (R333). -/
def endFatal (s0 : State) (t : Thread) (f : Flt) (count : Nat) : State :=
  let s := endStores s0 t
  if storesDone s t.tid && fatalRoom s t.tenant then
    endThread (writeRecord s t.tenant f count true false 0 t.tid (t.trap.elem.extractLsb' 0 16)) t true
  else s.update t.tid fun u => { u with wait := .dying f count, replay := none }

end Sys2Proof.Machine
end

