-- ==== Sys2Proof/Machine/Ops.lean ====
section
/-! DEFINITION. The operations every family shares: fetching a line and the arrival checks (R45 to R51), beginning an expert fetch
(R310, R311), taking a trap (R318 to R320, R330 to R332) and returning from one (R321, R331). -/

namespace Sys2Proof.Machine

/-! ### Fetch and arrival -/

/-- How control arrives at a slot (R50). -/
inductive How where
  | fall | jump | call | eret | entry
  deriving DecidableEq, Repr

/-- Word w of a line (R45). -/
def lineWord (line : List Byte) (w : Nat) : Word := BitVec.ofNat 32 (leNat ((line.drop (4 * w)).take 4))

/-- The copy of a line that a core holds, when it holds one of this translation (R48). -/
def fetchCopy (s : State) (t : Thread) (va : Nat) (pa : Nat) : Option FetchCopy :=
  s.fetchCopies.find? fun c => c.core = t.core && c.va = va && c.asid = t.atp.extractLsb' 44 16 && c.pa = pa

/-- The line that a slot address lies in, and the leaf entry of its page (R48). A kept copy of a lost line serves no fetch (R336). -/
def fetchLine (s : State) (t : Thread) (addr : BitVec 57) : Res (List Byte × Option LeafRef) :=
  let va : Dword := BitVec.ofNat 64 (addr.toNat / 128 * 128)
  match translate s t.agent accFetch va with
  | .fault f => .fault f
  | .wait => .wait
  | .ok tr =>
    match fetchCopy s t va.toNat tr.pa with
    | some c =>
      if lineLost s tr.loc 128 then .fault { mkFault 0x15 0x05 va accFetch with reads := tr.reads } else .ok (c.bytes, tr.entry)
    | none => (readable s t.agent accFetch va tr 128).bind fun tr =>
      .ok (s.loadBytes tr.loc 128, tr.entry.map fun e => { e with reads := e.reads ++ [(tr.loc, 128)] })

/-- The line that a thread's last transfer of control has arrived in, while the thread stands at the slot it arrived at: the checks at
arrival and the slots come from one access (R48, R50). -/
def arrivedLine (t : Thread) : Option (List Byte) :=
  match t.arrived with
  | some (a, bs) => if a = t.pc then some bs else none
  | none => none

/-- The slot number of a slot address. -/
def slotOf (addr : BitVec 57) : Nat := (addr.toNat % 128 - 8) / 4

/-- The checks of R50 on the line arrived in, in their order. -/
def headerFault (how : How) (addr : BitVec 57) (line : List Byte) : Option (BitVec 8) :=
  let h0 := lineWord line 0
  let h1 := lineWord line 1
  let kind := h0.extractLsb' 30 2
  let slot := slotOf addr
  if kind = 3 then some 0x01
  else if kind = 1 then some 0x02
  else if h1.extractLsb' 30 2 != 0 then some 0x03
  else if (how = .call || how = .entry) && (kind != 2 || slot != 0) then some 0x04
  else if (how = .jump || how = .call) && !h1.getLsbD slot then some 0x05
  else if !h0.getLsbD slot then some 0x06
  else none

/-- Arrival at an address (R50): the line, or the fault. `reg` tells that the address came from a register or TRAPSAVE. -/
def arrive (s : State) (t : Thread) (how : How) (reg : Bool) (addr : BitVec 57) : Res (List Byte × Option LeafRef) :=
  let va := addr.setWidth 64
  if reg && !isSlot addr then .fault (mkFault 0x02 0x07 va accFetch)
  else
    (fetchLine s t addr).bind fun l =>
      match headerFault how addr l.1 with
      | some sub => .fault { mkFault 0x02 sub va accFetch with reads := l.2.elim [] (·.reads) }
      | none => .ok l

/-! ### Expert requests (R310, R311) -/

/-- Sets fields of the first doubleword of a residency table entry: STATE. -/
def setErtState (s : State) (e st : Nat) : State := s.store64 e (setField (s.mem64 e) 61 3 st)

/-- A request for an expert reaches its table entry: from absent or failed a fetch begins in the mode of the split register; a fetch under way
serves it; an eviction under way records it. -/
def beginRequest (s : State) (tenant : BitVec 4) (x : BitVec 16) : State :=
  match ertEntry s tenant x.toNat with
  | none => s
  | some e =>
    let st := ertState s e
    if st = 1 || st = 2 then s
    else if st = 3 then
      { s with evicting := s.evicting.map fun v => if v.1 = tenant && v.2.1 = x then (tenant, x, true) else v }
    else
      { setErtState s e 1 with
        fetches := s.fetches ++ [{ tenant := tenant, expert := x, host := s.splitBit tenant 1, src := s.mem64 (e + 8), pages := ertPages s e,
                                   placed := false, moved := 0, posted := false, victim := none, ended := none }] }

/-- A request for an expert, which waits while something holds the device's access to the table entry back (R262, R308). -/
def requestExpert (s : State) (tenant : BitVec 4) (x : BitVec 16) : State :=
  if ertHeld s deviceTid tenant true x.toNat then
    (if s.requests.elem (tenant, x) then s else { s with requests := s.requests ++ [(tenant, x)] })
  else beginRequest s tenant x

/-! ### Taking a trap -/

/-- The paths of R318. -/
inductive Delivery where
  | handler | queue | device | fatal
  deriving DecidableEq, Repr

/-- Column Delivery of R318. -/
def delivery (f : Flt) : Delivery :=
  if f.cause = 0x04 && f.sub = 0x01 then .queue
  else if f.cause = 0x05 && f.sub = 0x01 then .queue
  else if f.cause = 0x06 then (if f.sub = 0x02 then .device else .queue)
  else if f.cause = 0x17 then .queue
  else if f.cause = 0x0E || f.cause = 0x19 then .fatal
  else .handler

/-- The point of a trap (R319): TRAPPC, TRAPSAVE, and TRAPELEM with its VALID bit. -/
structure TrapPoint where
  pc   : BitVec 57
  save : BitVec 57
  elem : BitVec 17
  deriving DecidableEq, Repr

/-- TRAPCAUSE (R32). -/
def causeWord (f : Flt) (count : Nat) (fatal : Bool) : Dword :=
  BitVec.ofBool fatal ++ (0 : BitVec 31) ++ BitVec.ofNat 16 count ++ f.sub ++ f.cause

/-- The trap registers that describe a fault. -/
def trapRegs (f : Flt) (count : Nat) (fatal : Bool) (p : TrapPoint) : TrapRegs :=
  { cause := causeWord f count fatal, pc := p.pc, addr := f.addr, elem := p.elem, save := p.save }

/-- Slot 0 of the handler's line (R320). -/
def handlerEntry (t : Thread) : BitVec 57 := t.trapVec + 8

/-- What R320 saves. -/
def Thread.toSnapshot (t : Thread) : Snapshot :=
  { vl := t.vl, vtype := t.vtype, vstart := t.vstart, vwb := t.vwb, swb := t.swb, vq := t.vq, epoch := t.epoch }

/-- The granules that run-ahead elements of a thread's queued VLDFECs have emptied, those of the head that VSTART has passed apart (R151). -/
def Thread.earlyGranules (t : Thread) : List Nat :=
  ((List.range t.vq.length).zip t.vq).flatMap fun p =>
    match p.2.op with
    | .mem .ldfec _ _ => (p.2.early.filter fun x => p.1 != 0 || t.vstart.toNat ≤ x.elem).map fun x => x.loc / 16
    | _ => []

/-- The thread's queue once its run is interrupted: what has run ahead is discarded, and each entry begins its next run anew (R151, R155). -/
def Thread.interrupted (t : Thread) : Thread := { t with vq := t.vq.map fun e => { e with early := [], began := none }, noAhead := false }

/-- A run is interrupted: accesses that have run ahead leave no trace, and granules that they emptied are full again (R151, R328). -/
def State.interrupt (s : State) (t : Thread) : State :=
  { s with full := t.earlyGranules.foldl NatSet.insert s.full }.setThread t.interrupted

/-- The repeat counts without that of one access (R332). -/
def Thread.otherRepeats (t : Thread) (pc : BitVec 57) (va : Dword) (elem : BitVec 17) : List (BitVec 57 × Dword × BitVec 17 × Nat) :=
  t.repeats.filter fun r => !(r.1 = pc && r.2.1 = va && r.2.2.1 = elem)

/-- The thread at its handler's entry (R320): trap registers written, snapshot saved, in handler, vector queue empty. The checks of
R50 for entry are made with its next fetch. -/
def Thread.inHandlerAt (t : Thread) (f : Flt) (count : Nat) (p : TrapPoint) : Thread :=
  { t with
    trap := trapRegs f count false p
    snapshot := some t.toSnapshot
    vq := []
    inHandler := true
    pc := handlerEntry t
    arrived := none
    wait := .entering
    replay := none
    repeats := t.otherRepeats p.pc f.va p.elem }

/-- A trap delivered to the handler, or fatal when the thread is in its handler or has none (R32, R320). -/
def enterHandler (s : State) (t : Thread) (f : Flt) (count : Nat) (p : TrapPoint) : State :=
  if t.inHandler || t.trapVec = 0 then
    let t' := { t with trap := trapRegs f count true p }
    endFatal (s.setThread t') t' f count
  else s.setThread (t.inHandlerAt f count p)

/-- The repeat count of a fault: it continues that of the same access, replayed (R332). -/
def repeatOf (t : Thread) (f : Flt) (p : TrapPoint) : Nat :=
  match t.repeats.find? fun r => r.1 = p.pc && r.2.1 = f.va && r.2.2.1 = p.elem with
  | none => 0
  | some r => r.2.2.2

/-- A thread leaves replay-wait to re-issue its access (R331, KIND 0): its trap registers are those of before, and the count goes on
unless the queue did not hold the record (R332). A system call has completed, and leaves no count to the next one at its address (R118, R319). -/
def Thread.replayed (t : Thread) : Thread :=
  match t.replay with
  | none => t
  | some r => { t with
      replay := none
      trap := r.saved
      repeats := if r.flt.cause = 0x17 then t.otherRepeats t.trap.pc r.flt.va t.trap.elem
        else (t.trap.pc, r.flt.va, t.trap.elem, if r.queued then r.count + 1 else r.count) :: t.otherRepeats t.trap.pc r.flt.va t.trap.elem }

/-- Whether an expert is being fetched, or evicted with a request recorded, or a request for it waits: its STATE is still to become 2 or 4
(R311, R331). -/
def expertComes (s : State) (tenant : BitVec 4) (x : BitVec 16) : Bool :=
  s.requests.elem (tenant, x) || (ertEntry s tenant x.toNat).any fun e => ertState s e = 1 || ertState s e = 3

/-- Replay-wait (R331): the trap registers describe the fault, those of before are kept, a record is queued (Q), or the expert is
requested (D); an access whose expert has come in the meantime is replayed at once. The sixteenth repeat is fatal (R332). -/
def enterReplay (s : State) (t : Thread) (f : Flt) (p : TrapPoint) (record : Bool) : State :=
  let n := repeatOf t f p
  let t1 := { t with trap := trapRegs f n (decide (16 ≤ n)) p, pc := p.save }
  if 16 ≤ n then endFatal (s.setThread t1) t1 f 16
  else
    let x := if record then none else f.expert
    let s1 := match x with
      | some x => requestExpert s t.tenant x
      | none => s
    let r := if record then queueRecord s1 t.tenant f n false 0 t.tid (p.elem.extractLsb' 0 16) else (s1, true)
    r.1.update t.tid fun u =>
      let w := { u with
        trap := t1.trap
        pc := p.save
        replay := some { flt := f, count := n, queued := r.2, saved := t.trap, expert := x } }
      if record || x.any (expertComes r.1 t.tenant) then w else w.replayed

/-- Delivering a trap or a replay-wait of a thread at a point, by the cause's delivery (R318). -/
def deliverTrap (s : State) (t : Thread) (f : Flt) (p : TrapPoint) : State :=
  match delivery f with
  | .handler => enterHandler s t f 0 p
  | .queue => enterReplay s t f p true
  | .device => enterReplay s t f p false
  | .fatal =>
    let t' := { t with trap := trapRegs f 0 true p }
    endFatal (s.setThread t') t' f 0

/-- Taking a trap of a thread at a point: its run-ahead work is discarded (R151), the reads behind the fault leave their marks (R242, R347), and the
trap is delivered. -/
def takeTrap (s : State) (t : Thread) (f : Flt) (p : TrapPoint) : State :=
  deliverTrap ((s.noteFault f).interrupt t) t.interrupted f.noted p

/-- The point of a scalar instruction's trap (R319). -/
def scalarPoint (t : Thread) : TrapPoint := { pc := t.pc, save := t.pc, elem := 0 }

/-! ### Returning -/

/-- What ERET restores (R321): the snapshot, the mark, and the pc; the held vector instructions go on from the restored VSTART. -/
def Thread.returned (t : Thread) : Thread :=
  let t1 := { t with inHandler := false, snapshot := none, pc := t.trap.save, arrived := none }
  match t.snapshot with
  | none => t1
  | some c => { t1 with vl := c.vl, vtype := c.vtype, vstart := c.vstart, vwb := c.vwb, swb := c.swb, vq := c.vq,
                        epoch := c.epoch }

end Sys2Proof.Machine
end

