-- ==== Sys2Proof/Machine/Vector.lean ====
section
/-! DEFINITION. What an entry of the vector queue computes: the writes of its active, inactive and tail elements and the flags
charged to each element (R15, R21, R24 to R27, R125 to R145). -/

namespace Sys2Proof.Machine

/-- An entry with the registers it reads, as they stand before it begins (R125) or, after a trap, before it goes on (log 73), the bits of
its governing mask (R27), its first element, and the thread's lane groups. -/
structure VView where
  e      : VEntry
  k      : Nat
  regs   : Memory
  masks  : NatSet
  gov    : NatSet
  vstart : Nat
  badV   : NatSet
  badM   : NatSet

/-- A write of an entry: an element of a group at a width, or a bit of a mask register. -/
inductive VWrite where
  | elem (f : BitVec 7) (w i v : Nat)
  | bit (m i : Nat) (b : Bool)
  deriving DecidableEq, Repr

namespace VView

def sew (v : VView) : Nat := vtSew v.e.vtype
def fmt (v : VView) : Nat := vtFmt v.e.vtype
def format (v : VView) : FpFormat := vtFormat v.e.vtype
def vl (v : VView) : Nat := v.e.vl.toNat
def vmax (v : VView) : Nat := vlMax v.k v.e.vtype
def isFp (v : VView) : Bool := 2 ≤ v.fmt

/-- Element i of a group at SEW, or at another width. -/
def elemW (v : VView) (f : BitVec 7) (w i : Nat) : Nat := readElem v.regs v.e.vwb f v.k w i
def elem (v : VView) (f : BitVec 7) (i : Nat) : Nat := v.elemW f v.sew i

/-- The captured scalar at the element width (R126). -/
def scalar (v : VView) : Nat := v.e.scalar.toNat % 2 ^ v.sew

/-- The second operand of element i. -/
def second (v : VView) (b : VSrc) (i : Nat) : Nat :=
  match b with
  | .vec f => v.elem f i
  | .scalar => v.scalar

/-- Whether the governing mask enables element i (R7). -/
def enabled (v : VView) (i : Nat) : Bool := !v.e.masked || maskBit v.gov (vtMsel v.e.vtype) i

/-- The elements from VSTART up to a stop. -/
def span (v : VView) (stop : Nat) : List Nat := (List.range (min v.vl stop)).drop v.vstart

/-- The tail of a group or mask that begins at an element, when TZ zeroes it and the entry runs to its end (R15). -/
def tailFrom (v : VView) (stop lo : Nat) (w : Nat → VWrite) : List VWrite :=
  if vtTz v.e.vtype && v.vl ≤ stop then ((List.range v.vmax).drop lo).map w else []

end VView

/-- Results of the elements of a span: each enabled one receives its result, a disabled one zero when IZ says so (R15). -/
def spanWrites (v : VView) (on : Nat → Bool) (stop : Nat) (res : Nat → VWrite) (zero : Nat → VWrite) : List VWrite :=
  (v.span stop).filterMap fun i => if on i then some (res i) else if vtIz v.e.vtype then some (zero i) else none

/-- An element-wise destination group: active, inactive and tail elements. -/
def groupResult (v : VView) (on : Nat → Bool) (stop : Nat) (d : BitVec 7) (w : Nat) (res : Nat → Nat) : List VWrite :=
  spanWrites v on stop (fun i => .elem d w i (res i)) (fun i => .elem d w i 0) ++
    v.tailFrom stop (max v.vl v.vstart) (fun i => .elem d w i 0)

/-- An element-wise destination mask. -/
def maskResult (v : VView) (on : Nat → Bool) (stop : Nat) (d : BitVec 7) (res : Nat → Bool) : List VWrite :=
  spanWrites v on stop (fun i => .bit d.toNat i (res i)) (fun i => .bit d.toNat i false) ++
    v.tailFrom stop (max v.vl v.vstart) (fun i => .bit d.toNat i false)

/-- Flags charged to the enabled elements of a span. -/
def flagsOf (v : VView) (on : Nat → Bool) (stop : Nat) (fl : Nat → Flags) : List (Nat × Flags) :=
  ((v.span stop).filter on).map fun i => (i, fl i)

/-! ### Integer operations (R130) -/

/-- Saturation of a sum or difference to the range of i or n. -/
def saturate (isN : Bool) (w : Nat) (x : Int) : Int :=
  let lo : Int := if isN then 0 else -(2 ^ (w - 1) : Nat)
  let hi : Int := if isN then (2 ^ w : Nat) - 1 else (2 ^ (w - 1) : Nat) - 1
  if x < lo then lo else if hi < x then hi else x

/-- An element as an integer: i, or n for FMT n. -/
def asInt (isN : Bool) (w x : Nat) : Int := if isN then (x : Int) else signed w x

/-- Result of an integer operation on a and y with destination d, before reduction modulo 2^SEW. -/
def intResult (op : IntOp) (isN : Bool) (w a y d : Nat) : Int :=
  let sh := y % w
  match op with
  | .add => a + y
  | .sub => (a : Int) - y
  | .mul => (a * y : Nat)
  | .mulh => asInt isN w a * asInt isN w y / (2 ^ w : Nat)
  | .macc => (d + a * y : Nat)
  | .and => (a &&& y : Nat)
  | .or => (a ||| y : Nat)
  | .xor => (a ^^^ y : Nat)
  | .sll => (a * 2 ^ sh : Nat)
  | .srl => (a / 2 ^ sh : Nat)
  | .sra => signed w a / (2 ^ sh : Nat)
  | .min => if signed w a < signed w y then (a : Int) else y
  | .max => if signed w y < signed w a then (a : Int) else y
  | .minn => (min a y : Nat)
  | .maxn => (max a y : Nat)
  | .sadd => saturate isN w (asInt isN w a + asInt isN w y)
  | .ssub => saturate isN w (asInt isN w a - asInt isN w y)

def intOp (op : IntOp) (isN : Bool) (w a y d : Nat) : Nat := wrap w (intResult op isN w a y d)

def intCompare (op : IntCmp) (w a y : Nat) : Bool :=
  match op with
  | .eq => a = y
  | .ne => a != y
  | .lt => signed w a < signed w y
  | .ltn => a < y

/-! ### Floating-point operations (R132 to R136) -/

/-- The sign operations: magnitude of a with a sign (R133). -/
def signOp (f : FpFormat) (x : Nat) (neg : Bool) : Nat × Flags :=
  match decodeIeee f x with
  | .nan q => (canonicalNan f, Flags.on (!q) Flags.nv)
  | _ => (x % 2 ^ (f.fraction + f.exponent) + (if neg then 2 ^ (f.fraction + f.exponent) else 0), Flags.none)

/-- A rounded sum, product or fused result with its flags. -/
def roundOf (f : FpFormat) (rm : BitVec 2) (r : Fp × Flags) : Nat × Flags :=
  let x := encodeFp f rm r.1
  (x.1, x.2 ||| r.2)

def fpResult (op : FpOp) (f : FpFormat) (rm : BitVec 2) (a y d : Nat) : Nat × Flags :=
  let fa := decodeIeee f a
  let fy := decodeIeee f y
  let fd := decodeIeee f d
  match op with
  | .add => roundOf f rm (addFp rm fa fy)
  | .sub => roundOf f rm (addFp rm fa (negFp fy))
  | .mul => roundOf f rm (mulFp fa fy)
  | .fma => roundOf f rm (fmaFp rm fa fy fd)
  | .fnms => roundOf f rm (fmaFp rm (negFp fa) fy fd)
  | .min => minMaxFp f false a y
  | .max => minMaxFp f true a y
  | .div => divFp f rm fa fy
  | .sgnj => signOp f a (fpSign f y)
  | .sgnn => signOp f a (!fpSign f y)
  | .sgnx => signOp f a (fpSign f a != fpSign f y)

def fpCompare (op : FpCmp) (f : FpFormat) (a y : Nat) : Bool × Flags :=
  let fa := decodeIeee f a
  let fy := decodeIeee f y
  let quiet := isNan fa || isNan fy
  let sig := isSnan fa || isSnan fy
  match op with
  | .eq => (!quiet && !ltFp fa fy && !ltFp fy fa, Flags.on sig Flags.nv)
  | .lt => (ltFp fa fy, Flags.on quiet Flags.nv)
  | .le => (!quiet && !ltFp fy fa, Flags.on quiet Flags.nv)

/-- Unary operations on a source pattern; the source is i of SEW bits for VFCVTIF and FP32 for VFCVTW (R134). -/
def fpUnary (op : FpUn) (f : FpFormat) (rm : BitVec 2) (w a : Nat) : Nat × Flags :=
  match op with
  | .sqrt => sqrtFp f rm (decodeIeee f a)
  | .rsqrte => rsqrtEst (decodeIeee f a)
  | .rece => recEst (decodeIeee f a)
  | .cls => (classFp f a, Flags.none)
  | .cvtif => fromInt f rm (signed w a)
  | .cvtfi => let r := toInt rm w (decodeIeee f a); (wrap w r.1, r.2)
  | .cvtw =>
    if f = e4m3 || f = e5m2 then narrowFp f (decodeIeee fp32 a) else encodeFp f rm (decodeIeee fp32 a)

/-! ### Blocks (R137 to R140) -/

/-- The block code that VCVTB targets (R137). -/
def targetCode (fmt : Nat) : Byte := if fmt = 1 then 1 else if fmt = 5 then 2 else if fmt = 6 then 3 else 4

/-- Blocks of VL source elements. -/
def blockCount (vl : Nat) (code : Byte) : Nat := ceilDiv vl (blockElems code)

/-- One byte of a block stream in a group. -/
def streamWrites (d : BitVec 7) (n : Nat) (bs : List Byte) : List VWrite :=
  (bs.zip (List.range bs.length)).map fun (b, j) => .elem d 8 (64 * n + j) b.toNat

/-- The blocks of a conversion from VSTART up to a stop. -/
def blockSpan (v : VView) (code : Byte) (stop : Nat) : List Nat := (List.range (min (blockCount v.vl code) stop)).drop v.vstart

/-- Blocks of a conversion from VSTART to a stop, with the flags of their source elements; a disabled block's bytes as IZ directs,
the bytes past the last block, and past the blocks below VSTART, as TZ directs (R15, R137). -/
def putBlocks (v : VView) (code : Byte) (on : Nat → Bool) (d : BitVec 7) (stop : Nat) (src : Nat → Fp) :
    List VWrite × List (Nat × Flags) :=
  let per := blockElems code
  let count := blockCount v.vl code
  let which := blockSpan v code stop
  let coded := (which.filter on).map fun n =>
    (n, encodeBlock code ((List.range per).map fun j => if n * per + j < v.vl then src (n * per + j) else .fin false 0 0))
  let zeros := if vtIz v.e.vtype then (which.filter fun n => !on n).flatMap fun n => streamWrites d n (List.replicate 64 0) else []
  let tail := if vtTz v.e.vtype && count ≤ stop then
      ((List.range (v.k * 128 * vtGroup v.e.vtype)).drop (64 * max count v.vstart)).map fun j => VWrite.elem d 8 j 0
    else []
  (coded.flatMap (fun c => streamWrites d c.1 c.2.1) ++ zeros ++ tail,
    coded.flatMap fun c => ((c.2.2.zip (List.range per)).filter fun x => c.1 * per + x.2 < v.vl).map fun x =>
      (c.1 * per + x.2, x.1))

/-- One element of a Hadamard stage at distance h (R139). -/
def butterflyOf (v : VView) (a : BitVec 7) (h i : Nat) : Nat × Flags :=
  let plus := i / h % 2 = 0
  let x := if plus then v.elem a i else v.elem a (i - h)
  let y := if plus then v.elem a (i + h) else v.elem a i
  if v.isFp then fpResult (if plus then .add else .sub) v.format v.e.rm x y 0
  else (intOp (if plus then .add else .sub) false v.sew x y 0, Flags.none)

/-- The 64 bytes of block n of a stream in a group (R137). -/
def streamBlock (v : VView) (a : BitVec 7) (n : Nat) : List Byte :=
  (List.range 64).map fun j => BitVec.ofNat 8 (v.elemW a 8 (64 * n + j))

/-- VCVTX decode of element i; a block that is still not valid gives NaN and NV (R138). -/
def unblock (v : VView) (a : BitVec 7) (i : Nat) : Nat × Flags :=
  let b := streamBlock v a (i / 120)
  match blockFault b with
  | some _ => (canonicalNan fp32, Flags.nv)
  | none => blockToFp32 v.e.rm b (i % 120)

/-- The first active element whose block is not valid, other than the block on which the entry has faulted (R138). -/
def badBlockAt (v : VView) (a : BitVec 7) (stop : Nat) : Option (Nat × BitVec 8) :=
  (v.span stop).findSome? fun i =>
    if v.enabled i && v.e.badBlock != some (i / 120) then (blockFault (streamBlock v a (i / 120))).map fun sub => (i, sub)
    else none

/-- VCVTX widening of one element to FP32 (R138). -/
def widenOf (f : FpFormat) (x : Nat) : Nat × Flags := encodeFp fp32 0 (decodeFp f x)

/-! ### Permutation, reductions, segments, selection (R141 to R144) -/

/-- Enabled elements below i that also satisfy a test, counted from element 0 (R141). -/
def enabledBelow (v : VView) (test : Nat → Bool) (i : Nat) : Nat := ((List.range i).filter fun j => v.enabled j && test j).length

/-- Result of a permutation for element i, or none where d keeps its value (R141). -/
def permResult (v : VView) (op : PermOp) (a b : BitVec 7) (i : Nat) : Option Nat :=
  let s := v.e.scalar.toNat
  match op with
  | .perm => let x := v.elem b i; some (if x < v.vl then v.elem a x else 0)
  | .slup => if s ≤ i then some (v.elem a (i - s)) else none
  | .sldn => some (if i + s < v.vl then v.elem a (i + s) else 0)
  | .comp => none
  | .expd => some (v.elem a (enabledBelow v (fun _ => true) i))
  | .iota => some (enabledBelow v (maskBit v.masks a.toNat) i % 2 ^ v.sew)
  | .id => some (i % 2 ^ v.sew)

/-- A permutation's destination: an enabled element that keeps its value is not written (R15, R141). -/
def permWrites (v : VView) (op : PermOp) (d a b : BitVec 7) (stop : Nat) : List VWrite :=
  (v.span stop).filterMap (fun i =>
      if v.enabled i then (permResult v op a b i).map fun x => .elem d v.sew i x
      else if vtIz v.e.vtype then some (.elem d v.sew i 0) else none) ++
    v.tailFrom stop (max v.vl v.vstart) (fun i => .elem d v.sew i 0)

/-- MPOPC and MFIRST: what the bits of a mask below VL give, whatever VSTART holds (R145). -/
def countResult (v : VView) (first : Bool) (a : BitVec 7) : Dword :=
  let on := (List.range v.vl).filter (maskBit v.masks a.toNat)
  if first then (match on with
    | i :: _ => BitVec.ofNat 64 i
    | [] => BitVec.allOnes 64)
  else BitVec.ofNat 64 on.length

/-- VCOMP: enabled elements from VSTART on, placed by their count from element 0; from the count on lies the tail (R141). -/
def compress (v : VView) (d a : BitVec 7) (stop : Nat) : List VWrite :=
  ((v.span stop).filter v.enabled).map (fun i => .elem d v.sew (enabledBelow v (fun _ => true) i) (v.elem a i)) ++
    v.tailFrom stop (enabledBelow v (fun _ => true) v.vl) (fun i => .elem d v.sew i 0)

/-- One step of a reduction (R142). -/
def reduceStep (v : VView) (op : RedOp) (acc x : Nat) : Nat × Flags :=
  let isN := v.fmt = 1
  match op with
  | .sum => ((acc + x) % 2 ^ v.sew, Flags.none)
  | .max => (if asInt isN v.sew acc < asInt isN v.sew x then x else acc, Flags.none)
  | .min => (if asInt isN v.sew x < asInt isN v.sew acc then x else acc, Flags.none)
  | .fsum => fpResult .add v.format v.e.rm acc x 0
  | .fmax => minMaxFp v.format true acc x

/-- A reduction over a list of elements: the result and the flags of each. -/
def reduceAll (v : VView) (op : RedOp) (a : BitVec 7) : Nat → List Nat → Nat × List (Nat × Flags)
  | acc, [] => (acc, [])
  | acc, i :: r =>
    let x := reduceStep v op acc (v.elem a i)
    let rest := reduceAll v op a x.1 r
    (rest.1, (i, x.2) :: rest.2)

/-- The head of the segment that element i lies in (R143). -/
def segmentHead (v : VView) (b : BitVec 7) (i : Nat) : Nat :=
  match ((List.range (i + 1)).filter fun j => j = 0 || maskBit v.masks b.toNat j).getLast? with
  | some j => j
  | none => 0

/-- The element that starts a segment's sum: exactly, a NaN as the canonical one, a signalling one with NV (R78, R143). -/
def segmentStart (v : VView) (x : Nat) : Nat × Flags :=
  match v.isFp, decodeIeee v.format x with
  | true, .nan q => (canonicalNan v.format, Flags.on (!q) Flags.nv)
  | _, _ => (x, Flags.none)

/-- The sum of a list of elements in order: the first exactly, each further one rounded or modulo 2^SEW (R143), with the flags of the last
of them. -/
def segmentSum (v : VView) (a : BitVec 7) : List Nat → Nat × Flags
  | [] => (0, Flags.none)
  | i :: r => r.foldl (fun acc j =>
      if v.isFp then fpResult .add v.format v.e.rm acc.1 (v.elem a j) 0 else ((acc.1 + v.elem a j) % 2 ^ v.sew, Flags.none))
      (segmentStart v (v.elem a i))

/-- The active elements of element i's segment up to a bound. -/
def segmentMembers (v : VView) (b : BitVec 7) (stop i bound : Nat) : List Nat :=
  ((v.span stop).filter v.enabled).filter fun j => j < bound && segmentHead v b j = segmentHead v b i

/-- Rank for VCSWI: a value pattern p above q (R144). -/
def valueAbove (v : VView) (p q : Nat) : Bool :=
  if v.isFp then
    let fp := decodeIeee v.format p
    let fq := decodeIeee v.format q
    if isNan fp then false else if isNan fq then true else ltFp fq fp
  else asInt (v.fmt = 1) v.sew q < asInt (v.fmt = 1) v.sew p

/-- Above(p, q) on pairs of value and index (R144). -/
def pairAbove (v : VView) (p q : Nat × Nat) : Bool :=
  valueAbove v p.1 q.1 || (!valueAbove v q.1 p.1 && p.2 < q.2)

/-- The field of the index group of a pair (R144). -/
def indexField (v : VView) (f : BitVec 7) : BitVec 7 := f + BitVec.ofNat 7 (vtGroup v.e.vtype)

def pairOfElem (v : VView) (f : BitVec 7) (i : Nat) : Nat × Nat := (v.elem f i, v.elem (indexField v f) i)

/-- The higher and the lower pair of element i (R144). -/
def swapOf (v : VView) (a b : BitVec 7) (i : Nat) : (Nat × Nat) × (Nat × Nat) :=
  let pa := pairOfElem v a i
  let pb := pairOfElem v b i
  if pairAbove v pb pa then (pb, pa) else (pa, pb)

def maskLogic (op : MaskOp) (a b : Bool) : Bool :=
  match op with
  | .and => a && b
  | .or => a || b
  | .xor => a != b
  | .andn => a && !b
  | .not => !a

/-! ### An entry's writes and flags -/

/-- Merges the flags of one element that appears more than once. -/
def gatherFlags (fl : List (Nat × Flags)) : List (Nat × Flags) :=
  fl.foldr (fun x acc => match acc.find? (fun y => y.1 = x.1) with
    | none => x :: acc
    | some _ => acc.map fun y => if y.1 = x.1 then (y.1, y.2 ||| x.2) else y) []

/-- What an entry that touches no memory writes for the elements from VSTART up to a stop, and the flags of its active elements;
past the last element also the tail. Of a reduction that is resumed the tail begins at VSTART (log 31). A memory or accumulator entry has rules of its own. VSEGSUM and VSEGSCAN charge the flags of each
addition to the element added, which R143 leaves open (log 74). The stage of a fused pair raises the flags of the source elements of the
blocks from VSTART on, those of disabled blocks included, which report to m14 too: R21 and R140 leave both open (log 93). -/
def vectorBody (v : VView) (stop : Nat) : List VWrite × List (Nat × Flags) :=
  let isN := v.fmt = 1
  let w := v.sew
  match v.e.op with
  | .int op d a b => (groupResult v v.enabled stop d w fun i => intOp op isN w (v.elem a i) (v.second b i) (v.elem d i), [])
  | .intCmp op d a b => (maskResult v v.enabled stop d fun i => intCompare op w (v.elem a i) (v.second b i), [])
  | .merge d a b => (groupResult v (fun _ => true) stop d w fun i => if v.enabled i then v.second b i else v.elem a i, [])
  | .move d b inverted => (groupResult v (fun i => if inverted then !v.enabled i else v.enabled i) stop d w fun i => v.second b i, [])
  | .fp op d a b =>
    let r := fun i => fpResult op v.format v.e.rm (v.elem a i) (v.second b i) (v.elem d i)
    (groupResult v v.enabled stop d w fun i => (r i).1, flagsOf v v.enabled stop fun i => (r i).2)
  | .fpCmp op d a b =>
    let r := fun i => fpCompare op v.format (v.elem a i) (v.second b i)
    (maskResult v v.enabled stop d fun i => (r i).1, flagsOf v v.enabled stop fun i => (r i).2)
  | .fpUn op d a =>
    let r := fun i => fpUnary op v.format v.e.rm w (v.elemW a (if op = .cvtw then 32 else w) i)
    (groupResult v v.enabled stop d w fun i => (r i).1,
      if op = .cls then [] else flagsOf v v.enabled stop fun i => (r i).2)
  | .toBlocks d a => putBlocks v (targetCode v.fmt) v.enabled d stop fun i => decodeIeee fp32 (v.elemW a 32 i)
  | .widen d a =>
    let r := if v.fmt = 2 then unblock v a else fun i => widenOf v.format (v.elem a i)
    (groupResult v v.enabled stop d 32 fun i => (r i).1, flagsOf v v.enabled stop fun i => (r i).2)
  | .butterfly d a =>
    let r := butterflyOf v a v.e.scalar.toNat
    (groupResult v v.enabled stop d w fun i => (r i).1, if v.isFp then flagsOf v v.enabled stop fun i => (r i).2 else [])
  | .chain a d m =>
    let r := butterflyOf v a (v.e.scalar.toNat % 65536)
    let code := BitVec.ofNat 8 (bits v.e.scalar.toNat 16 3)
    let on := fun n => !m || maskBit v.gov (vtMsel v.e.vtype) n
    let x := putBlocks v code on d stop fun i => decodeIeee fp32 (r i).1
    let staged := (List.range v.vl).filter fun i => (blockSpan v code stop).elem (i / blockElems code)
    (x.1, gatherFlags ((staged.map fun i => (i, (r i).2)) ++ x.2))
  | .perm .comp d a _ => (compress v d a stop, [])
  | .perm op d a b => (permWrites v op d a b stop, [])
  | .reduce op d a =>
    let act := (v.span stop).filter v.enabled
    let r := reduceAll v op a (v.elem d 0) act
    ((if act.isEmpty then [] else [.elem d w 0 r.1]) ++ v.tailFrom stop (max 1 v.vstart) (fun i => .elem d w i 0),
      if v.isFp then r.2 else [])
  | .segment scan d a b =>
    let upTo := fun i => segmentSum v a (segmentMembers v b stop i (i + 1))
    let r := fun i => if scan then upTo i else segmentSum v a (segmentMembers v b stop i v.vl)
    (groupResult v v.enabled stop d w fun i => (r i).1, if v.isFp then flagsOf v v.enabled stop fun i => (upTo i).2 else [])
  | .swap d a b =>
    let r := fun i => swapOf v a b i
    (groupResult v v.enabled stop d w (fun i => (r i).1.1) ++ groupResult v v.enabled stop (indexField v d) w (fun i => (r i).1.2) ++
      groupResult v v.enabled stop b w (fun i => (r i).2.1) ++ groupResult v v.enabled stop (indexField v b) w (fun i => (r i).2.2), [])
  | .maskLogic op d a b =>
    (maskResult v (fun _ => true) stop d fun i => maskLogic op (maskBit v.masks a.toNat i) (maskBit v.masks b.toNat i), [])
  | .maskToVec d a => (groupResult v v.enabled stop d w fun i => if maskBit v.masks a.toNat i then 1 else 0, [])
  | .vecToMask d a => (maskResult v v.enabled stop d fun i => v.elem a i != 0, [])
  | .count _ _ _ => ([], [])
  | .mem _ _ _ => ([], [])
  | .matv _ _ => ([], [])
  | .mvta _ _ => ([], [])

/-- Whether an entry can raise floating-point flags, so that it reports to m14 (R21). -/
def raisesFlags (v : VView) : Bool :=
  match v.e.op with
  | .fp _ _ _ _ | .fpCmp _ _ _ _ | .toBlocks _ _ | .widen _ _ | .chain _ _ _ => true
  | .fpUn op _ _ => op != .cls
  | .butterfly _ _ | .segment _ _ _ _ => v.isFp
  | .reduce op _ _ => op = .fsum || op = .fmax
  | _ => false

/-! ### Poisoned sources (R129, R242, R334) -/

/-- Whether an operation is a prefetch, which only hints (R165). -/
def VOp.prefetch : VOp → Bool
  | .mem op _ _ => op = .pf
  | _ => false

namespace VView

/-- Whether element i of a group at a width holds a poisoned byte. -/
def badElem (v : VView) (f : BitVec 7) (w i : Nat) : Bool :=
  v.badV.meets (groupByte v.e.vwb f v.k (elemByte w i) / 8) (ceilDiv (w / 8) 8)

/-- Whether bit i of a mask register is poisoned. -/
def badBit (v : VView) (m i : Nat) : Bool := v.badM.mem (m * 1024 + i / 64)

/-- Whether the second operand of element i is poisoned (R129). -/
def badSecond (v : VView) (b : VSrc) (i : Nat) : Bool :=
  match b with
  | .vec f => v.badElem f v.sew i
  | .scalar => v.e.badScalar

end VView

/-- The elements of the segment that element i lies in: up to i for a scan, else to the segment's end (R143). -/
def segmentRange (v : VView) (b : BitVec 7) (scan : Bool) (i : Nat) : List Nat :=
  (List.range (if scan then i + 1 else v.vl)).filter fun j => segmentHead v b j = segmentHead v b i

/-- Whether a mask bit is poisoned that the sum of element i needs: a head bit of its segment or of the next one's start, or a governing
bit of a member (R129, R143). -/
def segmentBad (v : VView) (b : BitVec 7) (scan : Bool) (i : Nat) : Bool :=
  let seg := segmentRange v b scan i
  let next := (seg.getLast?).getD i + 1
  (seg.any fun j => (j != 0 && v.badBit b.toNat j) || (v.e.masked && v.vstart ≤ j && v.badBit (vtMsel v.e.vtype) j)) ||
    (!scan && next < v.vl && v.badBit b.toNat next)

/-- Whether an entry writes class bits to m14 (R21). -/
def reportsClass (v : VView) : Bool := raisesFlags v && v.e.xcls.extractLsb' 0 3 != 0

/-- Whether the class bits of element i, for blocks of block i, are ORed into a poisoned bit of m14, which is a source then (R21, R129). -/
def reportBad (v : VView) (i : Nat) : Bool :=
  let block := fun per => (List.range per).any fun j => i * per + j < v.vl && v.badBit 14 (i * per + j)
  reportsClass v && v.e.xcls.getLsbD 3 &&
    match v.e.op with
    | .toBlocks _ _ => block (blockElems (targetCode v.fmt))
    | .chain _ _ _ => block (blockElems (BitVec.ofNat 8 (bits v.e.scalar.toNat 16 3)))
    | _ => v.badBit 14 i

/-- Whether a source of element i of an entry is poisoned; for blocks i is the block. A prefetch consumes nothing (R165). -/
def sourceBad (v : VView) (i : Nat) : Bool :=
  let w := v.sew
  let gov := v.e.masked && v.e.op.prefetch.not && v.badBit (vtMsel v.e.vtype) i
  let below := v.e.masked && (List.range i).any fun j => v.badBit (vtMsel v.e.vtype) j
  let pair := fun f => v.badElem f w i || v.badElem (indexField v f) w i
  gov || reportBad v i || match v.e.op with
  | .int op d a b => v.badElem a w i || v.badSecond b i || (op = .macc && v.badElem d w i)
  | .intCmp _ _ a b => v.badElem a w i || v.badSecond b i
  | .merge _ a b => if v.enabled i then v.badSecond b i else v.badElem a w i
  | .move _ b _ => v.badSecond b i
  | .fp op d a b => v.badElem a w i || v.badSecond b i || ((op = .fma || op = .fnms) && v.badElem d w i)
  | .fpCmp _ _ a b => v.badElem a w i || v.badSecond b i
  | .fpUn op _ a => v.badElem a (if op = .cvtw then 32 else w) i
  | .toBlocks _ a =>
    let per := blockElems (targetCode v.fmt)
    (List.range per).any fun j => i * per + j < v.vl && v.badElem a 32 (i * per + j)
  | .widen _ a => if v.fmt = 2 then (List.range 64).any fun j => v.badElem a 8 (64 * (i / 120) + j) else v.badElem a w i
  | .butterfly _ a =>
    let h := v.e.scalar.toNat
    v.e.badScalar || v.badElem a w i || v.badElem a w (if i / h % 2 = 0 then i + h else i - h)
  | .chain a _ m =>
    let h := v.e.scalar.toNat % 65536
    let per := blockElems (BitVec.ofNat 8 (bits v.e.scalar.toNat 16 3))
    v.e.badScalar || (m && v.badBit (vtMsel v.e.vtype) i) ||
      (List.range per).any fun j => let x := i * per + j
        x < v.vl && (v.badElem a 32 x || v.badElem a 32 (if x / h % 2 = 0 then x + h else x - h))
  | .perm .perm _ a b => v.badElem b w i || (v.elem b i < v.vl && v.badElem a w (v.elem b i))
  | .perm .slup _ a _ => v.e.badScalar || (v.e.scalar.toNat ≤ i && v.badElem a w (i - v.e.scalar.toNat))
  | .perm .sldn _ a _ => v.e.badScalar || (i + v.e.scalar.toNat < v.vl && v.badElem a w (i + v.e.scalar.toNat))
  | .perm .comp _ a _ => below || v.badElem a w i
  | .perm .expd _ a _ => below || v.badElem a w (enabledBelow v (fun _ => true) i)
  | .perm .iota _ a _ => below || (List.range i).any fun j => v.enabled j && v.badBit a.toNat j
  | .perm .id _ _ _ => false
  | .reduce _ d a => v.badElem a w i || v.badElem d w 0
  | .segment scan _ a b =>
    (segmentMembers v b v.vl i (if scan then i + 1 else v.vl)).any (fun j => v.badElem a w j) || segmentBad v b scan i
  | .swap _ a b => pair a || pair b
  | .maskLogic _ _ a b => v.badBit a.toNat i || v.badBit b.toNat i
  | .maskToVec _ a | .count _ _ a => v.badBit a.toNat i
  | .vecToMask _ a => v.badElem a w i
  | .mem op d b =>
    let store := op = .st || op = .sts || op = .stx || op = .sc
    let indexed := op = .ldx || op = .stx || op = .gl || op = .sc
    op != .pf && (v.e.badScalar || (store && v.badElem d w i) || (indexed && v.badElem b w i))
  | .matv _ _ => v.e.badScalar
  | .mvta _ a => v.e.badScalar || v.badElem a w i

/-- Whether an entry acts on element i, a poisoned governing bit included. -/
def actsOn (v : VView) (i : Nat) : Bool :=
  (v.e.masked && v.e.op.prefetch.not && v.badBit (vtMsel v.e.vtype) i) ||
  match v.e.op with
  | .merge _ _ _ | .chain _ _ _ => true
  | .move _ _ true => !v.enabled i
  | _ => v.enabled i

/-- The lowest active element, or block, whose source is poisoned. -/
def firstBad (v : VView) (stop : Nat) : Option Nat :=
  if v.badV.isEmpty && v.badM.isEmpty && !v.e.badScalar then none
  else
    let count := match v.e.op with
      | .toBlocks _ _ => blockCount v.vl (targetCode v.fmt)
      | .chain _ _ _ => blockCount v.vl (BitVec.ofNat 8 (bits v.e.scalar.toNat 16 3))
      | _ => v.vl
    ((List.range (min count stop)).drop v.vstart).find? fun i => actsOn v i && sourceBad v i

/-- The bytes of the thread's vector registers that a list of writes covers. -/
def writtenBytes (vwb : BitVec 8) (k : Nat) (ws : List VWrite) : List Nat :=
  ws.flatMap fun
    | .elem f w i _ => (List.range (w / 8)).map fun j => groupByte vwb f k (elemByte w i) + j
    | .bit _ _ _ => []

/-- The mask bits that a list of writes covers. -/
def writtenBits (ws : List VWrite) : List Nat :=
  ws.filterMap fun
    | .elem _ _ _ _ => none
    | .bit m i _ => some (m * 65536 + i)

/-- The bits of m14 that the class bits of flags write (R21). -/
def classWritten (xcls : BitVec 4) (fl : List (Nat × Flags)) : List Nat :=
  if xcls.extractLsb' 0 3 = 0 then [] else fl.map fun x => 14 * 65536 + x.1

/-- Poison marks of units of n bytes or bits, less the units whose every part is written. A unit of a mask register is 64 bits, and one that a run
writes only in part keeps its mark: R242 and R334 leave both open (log 99). -/
def unmark (bad : NatSet) (n : Nat) (written : List Nat) : NatSet :=
  bad.filter fun u => !(List.range n).all fun j => written.elem (u * n + j)

/-- Applies one write. -/
def applyWrite (vwb : BitVec 8) (k : Nat) (s : Memory × NatSet) : VWrite → Memory × NatSet
  | .elem f w i v => (writeElem s.1 vwb f k w i v, s.2)
  | .bit m i b => (s.1, setMaskBit s.2 m i b)

/-- m14 with the class bits of the elements whose flags are listed (R21). -/
def classBits (xcls : BitVec 4) (masks : NatSet) (fl : List (Nat × Flags)) : NatSet :=
  if xcls.extractLsb' 0 3 = 0 then masks
  else fl.foldl (fun m x => setMaskBit m 14 x.1 (classBit xcls (maskBit m 14 x.1) x.2)) masks

/-- All flags of a list. -/
def allFlags (fl : List (Nat × Flags)) : Flags := fl.foldl (fun acc x => acc ||| x.2) 0

end Sys2Proof.Machine
end

