-- ==== Sys2Proof/Machine/Tiles.lean ====
section
/-! DEFINITION. Tile descriptors, handles and the bytes of an accumulator row (R28, R171 to R176, R181). -/

namespace Sys2Proof.Machine

/-- A descriptor from its four doublewords (R171). -/
def descOf (d0 d1 d2 d3 : Dword) : Desc :=
  { base := d0.extractLsb' 0 57, fmt := d1.extractLsb' 56 8, rows1 := d1.extractLsb' 32 16, rows0 := d1.extractLsb' 16 16,
    rlen16 := d1.extractLsb' 0 16, stride0 := d2, stride1 := d3 }

def Desc.r0 (d : Desc) : Nat := d.rows0.toNat + 1
def Desc.r1 (d : Desc) : Nat := d.rows1.toNat + 1

/-- Rows of a tile (R172). -/
def Desc.rows (d : Desc) : Nat := d.r0 * d.r1

/-- RowLen (R172). -/
def Desc.rowLen (d : Desc) : Nat := (d.rlen16.toNat + 1) * 16

/-- RowAddr, exact (R172). -/
def Desc.rowAddr (d : Desc) (row : Nat) : Int :=
  d.base.toNat + (row % d.r0 : Nat) * d.stride0.toInt + (row / d.r0 : Nat) * d.stride1.toInt

/-- RowAddr as an address, for a tile whose rows lie in the address space. -/
def Desc.rowVa (d : Desc) (row : Nat) : Nat := (d.rowAddr row).toNat

/-- The extreme rows of a tile: the four corners bound every row's address. -/
def Desc.corners (d : Desc) : List Nat := [0, d.r0 - 1, (d.r1 - 1) * d.r0, d.rows - 1]

/-- Whether row `row` meets the scratchpad window. -/
def Desc.meetsWindow (d : Desc) (row : Nat) : Bool :=
  let a := d.rowAddr row
  decide (a < (Config.spadBase + Config.spadWindow : Nat)) && decide ((Config.spadBase : Int) < a + d.rowLen)

/-- Alignment of BASE, row length and strides for the format (R171). -/
def Desc.misaligned (d : Desc) : Bool :=
  let unit : Nat := if 1 ≤ d.fmt.toNat && d.fmt.toNat ≤ 4 then 64 else 16
  d.base.toNat % unit != 0 || d.rowLen % unit != 0 || d.stride0.toNat % unit != 0 || d.stride1.toNat % unit != 0

/-- The descriptor fault of THNEW, the lowest subcause that applies (R173). -/
def descFault (d0 d1 : Dword) (d : Desc) : Option (BitVec 8) :=
  if field d0 57 7 != 0 || field d1 48 8 != 0 then some 0x01
  else if d.misaligned then some 0x02
  else if 5 ≤ d.fmt.toNat then some 0x03
  else if 16777216 < d.rows then some 0x04
  else if d.corners.any (fun r => decide (d.rowAddr r < 0) || decide (((2 : Int) ^ 57) < d.rowAddr r + d.rowLen)) then some 0x05
  else if (List.range d.rows).any d.meetsWindow then some 0x05
  else none

/-! ### Handles (R174, R175) -/

def handleDie (h : Dword) : BitVec 2 := h.extractLsb' 14 2
def handleIndex (h : Dword) : BitVec 14 := h.extractLsb' 0 14
def handleGen (h : Dword) : BitVec 16 := h.extractLsb' 32 16
def handleTenant (h : Dword) : BitVec 4 := h.extractLsb' 20 4

/-- Key of a directory entry: die and index. -/
def tileKey (die : BitVec 2) (index : BitVec 14) : Nat := die.toNat * 16384 + index.toNat

/-- A handle of an entry with its current generation. -/
def handleOf (s : State) (die : BitVec 2) (index : BitVec 14) (tenant : BitVec 4) : Dword :=
  (1 : BitVec 1) ++ (0 : BitVec 15) ++ Sparse.get 0 s.tileGen (tileKey die index) ++ (0 : BitVec 8) ++ tenant ++ (0 : BitVec 4) ++
    die ++ index

/-- The live entry a handle points at. -/
def tileAt (s : State) (h : Dword) : Option Tile :=
  s.tiles.find? fun t => t.die = handleDie h && t.index = handleIndex h

/-- The check of R175: the tile, or the stale-handle subcause. A TENANT field that is the thread's own on an entry of another tenant gives 0x02 too,
which R175 does not say (log 99). -/
def checkHandle (s : State) (tenant : BitVec 4) (h : Dword) : Except (BitVec 8) Tile :=
  match tileAt s h with
  | none => .error 0x01
  | some t =>
    if s.failedDies.mem (handleDie h).toNat || Sparse.get 0 s.tileGen (tileKey t.die t.index) != handleGen h then .error 0x01
    else if handleTenant h != tenant || t.tenant != tenant then .error 0x02
    else if !h.getLsbD 63 || field h 48 15 != 0 || field h 24 8 != 0 || field h 16 4 != 0 then .error 0x03
    else .ok t

/-! ### Accumulator rows (R28) -/

/-- Key of a byte of an accumulator: tile key core × 2 + z, row, column. -/
def accByte (tile row col : Nat) : Nat := tile * 262144 + (row * 512 + col) * 4

def accGet (acc : Memory) (tile row col : Nat) : Nat := leNat (Memory.readBytes acc (accByte tile row col) 4)

def accSet (acc : Memory) (tile row col v : Nat) : Memory := Memory.writeBytes acc (accByte tile row col) (leBytes 4 v)

/-- Key of a thread's tile za(z) on its core. -/
def Thread.tileKey (t : Thread) (z : BitVec 1) : Nat := t.core * 2 + z.toNat

end Sys2Proof.Machine
end

