-- ==== Sys2Proof/Machine/VectorMem.lean ====
section
/-! DEFINITION. Vector memory entries: element addresses, events, full/empty bits, links (R146 to R165), and the accumulator
moves (R191). -/

namespace Sys2Proof.Machine

/-- How a pass over an entry's elements ends. -/
inductive Stop where
  | finish
  | hold (i : Nat)
  | trap (i : Nat) (f : Flt)
  | truncate (i : Nat)
  deriving DecidableEq, Repr

/-- What a pass over elements has done: the machine, the register and mask writes, the packet whose run goes on (R233), the addresses
written so far with their success (VSC), the granule being consumed, and the granules stored to that are not yet full. -/
structure Pass where
  s       : State
  writes  : List VWrite
  run     : Run
  written : List Nat
  granule : Option Nat
  stored  : List Nat

/-- Operations of VMEM with an index group. -/
def VMemOp.indexed (op : VMemOp) : Bool := op = .ldx || op = .stx || op = .gl || op = .sc

/-- Address(i) (R146), modulo 2^64. For VLDT `base` is the row's address. -/
def elemAddress (v : VView) (op : VMemOp) (b : BitVec 7) (base : Dword) (i : Nat) : Dword :=
  if op = .lds || op = .sts then base + v.e.scalar2 * BitVec.ofNat 64 i
  else if op.indexed then base + BitVec.ofNat 64 (v.elem b i)
  else base + BitVec.ofNat 64 (i * (v.sew / 8))

/-- The VSTART of an entry's present run: a wait at an element moves VSTART without a new beginning (R153, R155). -/
def VView.runStart (v : VView) : Nat := v.e.began.getD v.vstart

/-- The pass of a fault's event: of a truncation the reads behind the fault leave their marks here, of a trap when it is taken (R242, R347). -/
def Pass.stoppedBy (p : Pass) (f : Flt) (st : Stop) : Pass :=
  match st with
  | .truncate _ => { p with s := p.s.noteFault f }
  | _ => p

/-- The event of a fault at element i (R150, R155): a scratchpad-range event of any instruction truncates above VSTART, any fault of VLDFF
above its first active element (log 22). -/
def elementEvent (v : VView) (op : VMemOp) (i : Nat) (f : Flt) : Stop :=
  if (f.cause = 0x08 && v.runStart < i) || (op = .ldff && ((List.range (min v.vl i)).drop v.runStart).any v.enabled) then .truncate i
  else .trap i f

/-- Locating element i (R147, R148). One that is both misaligned and past the top of the scratchpad takes the misalignment: the manual gives the two
no order at one element (log 99). -/
def locateElement (s : State) (t : Thread) (v : VView) (op : VMemOp) (va : Dword) : Res Trans :=
  let acc := if op.stores then accStore else accLoad
  if va.toNat % (v.sew / 8) != 0 then .fault (mkFault 0x03 0 va acc)
  else locate s t.agent acc va (v.sew / 8) (mkFault 0x08 0 va acc)

/-- The write of a loaded element. -/
def loadWrite (v : VView) (d : BitVec 7) (i x : Nat) : VWrite := .elem d v.sew i x

/-- A thread's link set with a line that a VGL has read. A resumed VGL that reads a line again keeps the link of the first read, broken or
not, which R160 leaves open (log 93). -/
def addLink (line : Nat) (u : Thread) : Thread :=
  if u.links.any fun k => k.line = line then u else { u with links := u.links ++ [{ line := line, intact := true }] }

/-- What VGL's read of a line does (R160): the link, and the line's place in its home slice, which keeps the link (R229; log 80). -/
def linkLine (s : State) (t : Thread) (tr : Trans) : State :=
  let s1 := s.update t.tid (addLink (lineOf tr.loc))
  if tr.streaming || isSpad tr.loc then s1 else fillL2 s1 t.tenant (lineOf tr.loc)

/-- Loading element i from a location that may be read. -/
def loadElement (p : Pass) (t : Thread) (v : VView) (op : VMemOp) (d : BitVec 7) (i : Nat) (tr : Trans) : Pass :=
  let s := (p.s.markLeaf accLoad tr.entry).noteRead tr.loc (v.sew / 8)
  let x := leNat (s.loadBytes tr.loc (v.sew / 8))
  { p with
    s := if op = .gl then linkLine s t tr else s
    writes := p.writes ++ [loadWrite v d i x] ++ (if op = .ldnr then [.bit 13 i false] else []) }

/-- The first element of a granule's run at or above VSTART: where VSTART stands while its consumer waits (R159). -/
def granuleStart (v : VView) (base : Dword) (q : Nat) : Nat :=
  max v.vstart ((q * 16 - base.toNat % 2 ^ 24) / (v.sew / 8))

/-- VLDFE and VLDFEC on element i: the granule must be full; VLDFEC empties it with the read (R159). -/
def consumeElement (p : Pass) (t : Thread) (v : VView) (op : VMemOp) (d : BitVec 7) (base : Dword) (i : Nat) (tr : Trans) : Pass × Stop :=
  let q := tr.loc / 16
  if p.granule = some q || p.s.full.mem q then
    let p1 := loadElement p t v op d i tr
    ({ p1 with
        granule := some q
        s := if op = .ldfec then { p1.s with full := p1.s.full.remove q } else p1.s }, .finish)
  else (p, .hold (granuleStart v base (tr.loc % 2 ^ 21 / 16)))

/-- Storing element i. The thread's own links on the line stay as they are for VSC (R162). -/
def storeElement (p : Pass) (t : Thread) (v : VView) (d : BitVec 7) (i : Nat) (tr : Trans) (keep : Bool) : Pass :=
  let s0 := p.s.markLeaf accStore tr.entry
  let own := match s0.thread? t.tid with
    | some u => u.links
    | none => []
  let s1 := storeVia s0 tr.streaming tr.loc (leBytes (v.sew / 8) (v.elem d i))
  let s2 := if keep then s1.update t.tid fun u => { u with links := own } else s1
  { p with s := s2, stored := if isSpad tr.loc then p.stored ++ [tr.loc / 16] else p.stored }

/-- VSC on element i: it succeeds when the line's link is intact and no lower active element writes its bytes (R162). One that fails sets neither
the A nor the D bit of its leaf, of which R162 says nothing (log 99). -/
def scatterElement (p : Pass) (t : Thread) (v : VView) (d : BitVec 7) (i : Nat) (tr : Trans) : Pass :=
  let links := match p.s.thread? t.tid with
    | some u => u.links
    | none => []
  let intact := links.any fun k => k.line = lineOf tr.loc && k.intact
  let ok := intact && !p.written.elem tr.loc
  let p1 := if ok then storeElement p t v d i tr true else p
  { p1 with written := tr.loc :: p.written, writes := p1.writes ++ [.bit 15 i ok] }

/-- Whether a fault means mapped but not resident (R156). -/
def notResident (f : Flt) : Bool := f.cause = 0x06

/-- An element's load that has run ahead (R151). -/
def earlyLoad (e : VEntry) (i : Nat) : Option EarlyLoad := e.early.find? fun x => x.elem = i

/-- An element whose load has run ahead takes its value; what a load leaves behind comes about now: the A bit and the count of corrected
errors (R151, R328). -/
def takeEarly (p : Pass) (t : Thread) (v : VView) (d : BitVec 7) (x : EarlyLoad) : Pass × Stop :=
  if leafHeld p.s t.tid accLoad x.entry then (p, .hold x.elem)
  else
    ({ p with
        s := (p.s.markLeaf accLoad x.entry).noteRead x.loc (v.sew / 8)
        writes := p.writes ++ [loadWrite v d x.elem x.value] }, .finish)

/-- The access of element i, as a packet carries it (R233). -/
def elementOp (v : VView) (op : VMemOp) (d : BitVec 7) (i : Nat) : MemOp :=
  if op.stores then .write (leBytes (v.sew / 8) (v.elem d i)) else .read (BitVec.ofNat 8 (v.sew / 8))

/-- The shape of an entry's runs: its OP, and its byte step, where an indexed run carries addresses instead (R233). -/
def elementShape (v : VView) (op : VMemOp) : RunShape :=
  { op := if op.stores then (if v.e.masked || op = .sc then .maskedWrite else .write) else .read
    stride := if op = .lds || op = .sts then some v.e.scalar2 else if op.indexed then none else some (BitVec.ofNat 64 (v.sew / 8))
    esz := (v.e.vtype.extractLsb' 0 3).toNat }

/-- One active element of a memory entry. -/
def memElement (p : Pass) (t : Thread) (v : VView) (op : VMemOp) (d b : BitVec 7) (base : Dword) (rowLen : Nat) (i : Nat) : Pass × Stop :=
  let va := elemAddress v op b base i
  if op = .ldt && rowLen < (i + 1) * (v.sew / 8) then ({ p with writes := p.writes ++ [loadWrite v d i 0] }, .finish)
  else
    match earlyLoad v.e i with
    | some x => takeEarly p t v d x
    | none =>
    match locateElement p.s t v op va with
    | .wait => (p, .hold i)
    | .fault f =>
      if op = .ldnr && notResident f then
        ({ p with s := p.s.noteFault f, writes := p.writes ++ [loadWrite v d i 0, .bit 13 i true] }, .finish)
      else (p.stoppedBy f (elementEvent v op i f), elementEvent v op i f)
    | .ok tr =>
      let r := if op.stores then writable p.s t.agent va tr (v.sew / 8) else readable p.s t.agent accLoad va tr (v.sew / 8)
      match r with
      | .wait => (p, .hold i)
      | .fault f => (p.stoppedBy f (elementEvent v op i f), elementEvent v op i f)
      | .ok tr =>
        match sendRun p.s (accessPort t.core) t.tenant p.run (elementShape v op) (elementOp v op d i) tr i with
        | none => (p, .hold i)
        | some (s1, run) =>
          let p := { p with s := s1, run := run }
          if op = .ldfe || op = .ldfec then consumeElement p t v op d base i tr
          else if op = .sc then (scatterElement p t v d i tr, .finish)
          else if op.stores then (storeElement p t v d i tr false, .finish)
          else (loadElement p t v op d i tr, .finish)

/-- The active elements in ascending order, up to the first that stops the pass. -/
def memPass (t : Thread) (v : VView) (op : VMemOp) (d b : BitVec 7) (base : Dword) (rowLen : Nat) : Pass → List Nat → Pass × Stop
  | p, [] => (p, .finish)
  | p, i :: r =>
    match memElement p t v op d b base rowLen i with
    | (p', .finish) => memPass t v op d b base rowLen p' r
    | x => x

/-- The element at which a stop stands. -/
def Stop.at (st : Stop) (vl : Nat) : Nat :=
  match st with
  | .finish => vl
  | .hold i | .trap i _ | .truncate i => i

/-- The granules that a pass fills and those that it leaves for later: a granule waits while an active element at or above the stop may
still write to it (R158). -/
def filledGranules (t : Thread) (v : VView) (op : VMemOp) (b : BitVec 7) (base : Dword) (p : Pass) (st : Stop) : List Nat × List Nat :=
  match st with
  | .hold i | .trap i _ =>
    let rest := ((v.span v.vl).filter fun j => i ≤ j && v.enabled j).filterMap fun j =>
      match window (elemAddress v op b base j) with
      | .inside off => some (spadLoc t.core off / 16)
      | _ => none
    p.stored.partition fun q => !rest.elem q
  | _ => (p.stored, [])

/-- The thread's link set is emptied: when a VGL begins (R160), and when a VSC completes (R162). -/
def emptyLinks (s : State) (t : Thread) (b : Bool) : State := if b then s.update t.tid fun u => { u with links := [] } else s

/-- Whether a pass ends the instruction. -/
def Stop.completes : Stop → Bool
  | .finish | .truncate _ => true
  | .hold _ | .trap _ _ => false

/-- The faults that a memory entry raises at element VSTART before any element: VLDFE and VLDFEC on their base (R159), of which a base both
outside the window and no multiple of 16 raises the first (log 75), VLDT on its handle and row (R164). Answers the base of Address(i) and
the row length. -/
def memBase (s : State) (t : Thread) (v : VView) (op : VMemOp) : Except Flt (Dword × Nat) :=
  let e := v.e
  if op = .ldfe || op = .ldfec then
    let va := elemAddress v op 0 e.scalar v.vstart
    match window e.scalar with
    | .outside => .error (mkFault 0x04 0x02 va accLoad)
    | _ => if e.scalar.toNat % 16 != 0 then .error (mkFault 0x03 0 va accLoad) else .ok (e.scalar, 0)
  else if op = .ldt then
    match checkHandle s t.tenant e.scalar with
    | .error sub => .error (mkFault 0x0C sub 0 accLoad)
    | .ok k =>
      if k.desc.rows ≤ e.scalar2.toNat then .error (mkFault 0x0D 0x01 0 accLoad)
      else .ok (BitVec.ofNat 64 (k.desc.rowVa e.scalar2.toNat), k.desc.rowLen)
  else .ok (e.scalar, 0)

/-- The line of an active element and whether its access or the mark of its leaf is held back, where its location is found (R262); a location
that is not yet found counts as line 0, held back. -/
def elementLine (s : State) (t : Thread) (v : VView) (op : VMemOp) (b : BitVec 7) (base : Dword) (i : Nat) : Option (Nat × Bool) :=
  let acc := if op.stores then accStore else accLoad
  match locateElement s t v op (elemAddress v op b base i) with
  | .ok tr => some (lineOf tr.loc, heldBack s t.tid op.stores tr.loc (v.sew / 8) || leafHeld s t.tid acc tr.entry)
  | .wait => some (0, true)
  | .fault _ => none

/-- The longest prefix of at most n elements none of whose lines holds a later element. -/
def wholeLines (lines : List (Option Nat)) : Nat → Nat → Nat
  | 0, n => n
  | fuel + 1, n =>
    let later := lines.drop n
    match (List.range n).find? fun k => (lines.getD k none).isSome && later.elem (lines.getD k none) with
    | none => n
    | some k => wholeLines lines fuel k

/-- The lines of the leading active elements up to the first that faults (R150), each with whether it is held back. -/
def lineInfo (s : State) (t : Thread) (v : VView) (op : VMemOp) (b : BitVec 7) (base : Dword) (act : List Nat) : List (Option (Nat × Bool)) :=
  (act.map (elementLine s t v op b base)).takeWhile Option.isSome

/-- How many leading active elements of a VGL or VSC perform now: those before the first that is held back, in whole lines, since each
line is one access (R160, R162). Events past a faulting element do not count (R150). -/
def linePrefix (info : List (Option (Nat × Bool))) (count : Nat) : Nat :=
  let free := (info.takeWhile fun x => x.any fun y => !y.2).length
  if free = info.length then count
  else wholeLines (info.map fun x => x.map (·.1)) free free

/-- A pass over the leading n active elements, which then waits at the next one. -/
def passUpTo (t : Thread) (v : VView) (op : VMemOp) (d b : BitVec 7) (base : Dword) (rowLen : Nat) (p : Pass) (act : List Nat) (n : Nat) :
    Pass × Stop :=
  match memPass t v op d b base rowLen p (act.take n), act[n]? with
  | (p1, .finish), some i => (p1, .hold i)
  | r, _ => r

/-- A pass over the active elements: a VGL or VSC line by line, also where its port has no tag for an element of a line (R234). -/
def runPass (s : State) (t : Thread) (v : VView) (op : VMemOp) (d b : BitVec 7) (base : Dword) (rowLen : Nat) (p : Pass)
    (act : List Nat) : Pass × Stop :=
  if op = .gl || op = .sc then
    let info := lineInfo s t v op b base act
    let n := linePrefix info act.length
    match passUpTo t v op d b base rowLen p act n with
    | (p1, .hold i) =>
      let k := act.idxOf i
      let m := wholeLines (info.map fun x => x.map (·.1)) k k
      if m < k then passUpTo t v op d b base rowLen p act m else (p1, .hold i)
    | r => r
  else memPass t v op d b base rowLen p act

/-- The locations that the lower elements of a resumed VSC have written (R162). -/
def lowerWritten (s : State) (t : Thread) (v : VView) (op : VMemOp) (b : BitVec 7) (base : Dword) : List Nat :=
  if op = .sc then
    ((List.range v.vstart).drop (v.e.start.getD v.vstart)).filterMap fun j =>
      if v.enabled j then
        match locateElement s t v op (elemAddress v op b base j) with
        | .ok tr => some tr.loc
        | _ => none
      else none
  else []

/-- The end of a pass that has run up to a poisoned element (R129). -/
def Stop.orBad (st : Stop) (bad : Option Nat) : Stop :=
  match st, bad with
  | .finish, some i => .trap i (mkFault 0x15 0x02 0 accLoad)
  | st, _ => st

/-- A pass over a memory entry's elements up to a poisoned one. The checks of its base are made while an element is left (R16). -/
def memEntry (s : State) (t : Thread) (v : VView) (op : VMemOp) (d b : BitVec 7) (bad : Option Nat) : Pass × Stop :=
  let act := (v.span (bad.getD v.vl)).filter v.enabled
  let p0 : Pass := { s := emptyLinks s t (op = .gl && v.e.start = none), writes := [], run := none, written := [], granule := none,
                     stored := v.e.owed }
  if op = .pf then (p0, .finish)
  else
    match (if v.vstart < v.vl && !v.e.badScalar then memBase s t v op else .ok (v.e.scalar, 0)) with
    | .error f => (p0, .trap v.vstart f)
    | .ok (base, rowLen) =>
      let r := runPass s t v op d b base rowLen { p0 with written := lowerWritten s t v op b base } act
      let st := r.2.orBad bad
      let filled := filledGranules t v op b base r.1 st
      let s1 := { r.1.s with full := filled.1.foldl NatSet.insert r.1.s.full }
      ({ r.1 with s := emptyLinks s1 t (op = .sc && st.completes), stored := filled.2 }, st)

/-- MATV: the elements of the accumulator row that VSTART and VL name, up to a poisoned row (R191). -/
def matvPass (s : State) (t : Thread) (v : VView) (d : BitVec 7) (z : BitVec 1) (stop : Nat) : Pass × Stop :=
  let row := v.e.scalar.toNat
  let tile := t.tileKey z
  let p : Pass := { s := s, writes := [], run := none, written := [], granule := none, stored := [] }
  if s.accPoison.mem (tile * 128 + row) && !(v.span stop).isEmpty then (p, .trap v.vstart (mkFault 0x15 0x04 0 accLoad))
  else ({ p with writes := (v.span stop).map fun i => .elem d 32 i (accGet s.acc tile row i) }, .finish)

/-- MVTA: the elements of the accumulator row receive the group's (R191). -/
def mvtaPass (s : State) (t : Thread) (v : VView) (z : BitVec 1) (a : BitVec 7) (stop : Nat) : Pass × Stop :=
  let row := v.e.scalar.toNat
  let tile := t.tileKey z
  let acc := (v.span stop).foldl (fun m i => accSet m tile row i (v.elem a i)) s.acc
  let clean := v.vstart = 0 && v.vl = 512 && 512 ≤ stop
  ({ s := { s with acc := acc, accPoison := if clean then s.accPoison.remove (tile * 128 + row) else s.accPoison },
     writes := [], run := none, written := [], granule := none, stored := [] }, .finish)

end Sys2Proof.Machine
end

