-- ==== Sys2Proof/Machine/Queue.lean ====
section
/-! DEFINITION. A thread's vector queue: executing its oldest entry, committing, truncation, traps, and draining (R16, R18 to R20,
R149, R170, R288). -/

namespace Sys2Proof.Machine

/-- Whether an entry is MPOPC or MFIRST, which read their mask whatever VSTART holds and hold the scalar stream (R19, R145). -/
def VEntry.counts (e : VEntry) : Bool :=
  match e.op with
  | .count _ _ _ => true
  | _ => false

/-- The bits that govern an entry: those kept from before it began, and of words that held poison those that stand there now (R27). -/
def governing (t : Thread) (e : VEntry) : NatSet :=
  match e.gov with
  | none => t.masks
  | some (kept, words) => (t.masks.filter fun k => words.elem (k / 64)).foldl NatSet.insert kept

/-- The entry at the head of a thread's queue with the registers as they stand. -/
def viewOf (t : Thread) (e : VEntry) : VView :=
  { e := e, k := t.grant.toNat, regs := t.vregs, masks := t.masks, gov := governing t e, vstart := if e.counts then 0 else t.vstart.toNat,
    badV := t.badVregs, badM := t.badMasks }

/-- Whether an entry is governed by a mask register. -/
def VEntry.governed (e : VEntry) : Bool :=
  e.masked || match e.op with
    | .chain _ _ m => m
    | _ => false

/-- The governing mask that a stopping entry keeps: it has read it in full before it wrote anything (R27), but for the words that hold
poison, which it reads when it goes on. -/
def heldGov (t : Thread) (e : VEntry) : Option (NatSet × NatSet) :=
  let m := vtMsel e.vtype
  if !e.governed then none
  else
    let words := t.badMasks.filter fun w => w / 1024 = m && e.gov.all fun g => g.2.elem w
    some ((governing t e).filter (fun k => k / 65536 = m && !words.elem (k / 64)), words)

/-- How the head entry ends its turn. -/
inductive HeadEnd where
  | committed | blocked | trapped
  deriving DecidableEq, Repr

/-- A thread with an entry's writes, its poison marks and its class bits; the entry's own result in m14 lands last (R21). -/
def withWrites (t : Thread) (e : VEntry) (ws : List VWrite) (fl : List (Nat × Flags)) : Thread :=
  let k := t.grant.toNat
  let masks := classBits e.xcls t.masks fl
  let r := ws.foldl (applyWrite e.vwb k) (t.vregs, masks)
  { t with
    vregs := r.1
    masks := r.2
    badVregs := if t.badVregs.isEmpty then [] else unmark t.badVregs 8 (writtenBytes e.vwb k ws)
    badMasks := if t.badMasks.isEmpty then [] else unmark t.badMasks 64 (classWritten e.xcls fl ++ writtenBits ws) }

/-- The head entry commits: VSTART is 0, its flags reach FCSR, VCP's last address is its own (R16, R18, R20). -/
def Thread.commitHead (t : Thread) (e : VEntry) (fl : Flags) : Thread :=
  { t with
    vq := t.vq.tail
    noAhead := t.noAhead && t.vq.head?.all fun e => e.early.isEmpty
    vstart := 0
    vcpAddr := e.addr
    fcsr := Flags.stick t.fcsr (e.flags ||| fl)
    repeats := t.repeats.filter fun r => r.1 != e.addr }

/-- The head entry stays, done up to an element: VSTART names it. -/
def Thread.keepHead (t : Thread) (e : VEntry) (i : Nat) (fl : Flags) : Thread :=
  { t with
    vstart := BitVec.ofNat 16 i
    vq := { e with flags := e.flags ||| fl, start := some (e.start.getD t.vstart.toNat),
                   began := some (e.began.getD t.vstart.toNat) } :: t.vq.tail }

/-- MPOPC and MFIRST write their result when they commit (R145). -/
def Thread.takeCount (t : Thread) (v : VView) : Thread :=
  match v.e.op with
  | .count first d a => t.setG d (countResult v first a)
  | _ => t

/-- VL becomes i for the younger entries, and the thread, that captured the same VL (R149). A VTYPE write ends that even where it leaves VL as
it is, which R14 leaves open (log 93). -/
def Thread.truncate (t : Thread) (e : VEntry) (i : Nat) : Thread :=
  let vl := BitVec.ofNat 17 i
  { t with
    vl := if t.epoch = e.epoch then vl else t.vl
    vq := t.vq.map fun x => if x.epoch = e.epoch then { x with vl := vl } else x }

/-- The point of a vector trap (R18, R319): VCP.ADDR, the first scalar instruction not executed, and the element. -/
def vectorPoint (t : Thread) (e : VEntry) (i : Nat) : TrapPoint :=
  { pc := e.addr, save := t.pc, elem := (1 : BitVec 1) ++ BitVec.ofNat 16 i }

/-- The tail and inactive elements of a memory load up to a stop (R15). Stores write no register. -/
def loadFill (v : VView) (op : VMemOp) (d : BitVec 7) (stop : Nat) (complete : Bool) : List VWrite :=
  if op.stores || op = .pf then []
  else
    let zeros := if vtIz v.e.vtype then ((v.span stop).filter fun i => !v.enabled i).map fun i => VWrite.elem d v.sew i 0 else []
    let tail := if complete && vtTz v.e.vtype then ((List.range v.vmax).drop (max (min v.vl stop) v.vstart)).map fun i => VWrite.elem d v.sew i 0
      else []
    zeros ++ tail

/-- A thread's entries of a matrix queue, in order. -/
def matrixOf (s : State) (tid : BitVec 32) : List MEntry := s.matq.filter fun m => m.tid = tid

/-- The matrix entries that waits of the thread's instructions cover: in the handler none from a stopped one on (R374). -/
def pendingMatrix (s : State) (t : Thread) : List MEntry :=
  let ms := matrixOf s t.tid
  if t.inHandler then ms.takeWhile fun m => m.stopped.isNone else ms

/-- Whether an entry waits for older matrix instructions of its thread: those on its tile (R170), and for a memory entry those
which it follows in order, a read of an older read included (R152, R169): whatever their addresses (log 30). Entries that R374 sets apart
do not count. -/
def waitsForMatrix (s : State) (t : Thread) (e : VEntry) : Bool :=
  (pendingMatrix s t).any fun m => m.order < e.order &&
    match e.op with
    | .matv _ z | .mvta z _ => m.z = z
    | .mem op _ _ => op != .pf && m.op != .zero
    | _ => false

/-- Whether a thread's tile has been taken while it was pre-empted (R29, R183). -/
def tileDisplaced (s : State) (t : Thread) (z : BitVec 1) : Bool :=
  Sparse.get 0 s.accOwner (t.tileKey z) != t.tid.toNat + 1 && s.accSaved.elem (t.tid, t.tileKey z)

/-- Where a thread's image keeps tile za(z) (R33). -/
def tileImage (t : Thread) (z : Nat) : Nat := t.image + 0x240000 + z * 0x40000

/-- A displaced owner gets its tile back from its image once the tile is free (R29, R183), before any MACQ that waits: R183 does not say
which comes first (log 42). The read waits while something holds it back (R262). -/
def restoreTile (s : State) (t : Thread) (z : BitVec 1) : State :=
  let key := t.tileKey z
  let base := tileImage t z.toNat
  if tileDisplaced s t z && Sparse.get 0 s.accOwner key = 0 && !rangeHeld s false base 0x40000 then
    let s := s.noteRead base 0x40000
    let bad := (List.range 128).filter fun r => s.poison.meets ((base + r * 2048) / 16) 128
    { s with
      acc := (Sparse.range s.mem base 262144).foldl (fun m c => Memory.write m (key * 262144 + (c.1 - base)) c.2) s.acc
      accPoison := (bad.map fun r => key * 128 + r).foldl NatSet.insert s.accPoison
      accOwner := Sparse.set 0 s.accOwner key (t.tid.toNat + 1)
      accSaved := s.accSaved.filter (· != (t.tid, key)) }
  else s

/-- The tile that an entry names. -/
def VOp.tile : VOp → Option (BitVec 1)
  | .matv _ z | .mvta z _ => some z
  | _ => none

/-- The memory or accumulator pass of an entry. -/
def entryPass (s : State) (t : Thread) (v : VView) (bad : Option Nat) : Pass × Stop :=
  match v.e.op with
  | .mem op d b => memEntry s t v op d b bad
  | .matv d z => matvPass s t v d z (bad.getD v.vl)
  | .mvta z a => mvtaPass s t v z a (bad.getD v.vl)
  | _ => ({ s := s, writes := [], run := none, written := [], granule := none, stored := [] }, .finish)

/-- The stop of an entry for a block that is not valid (R138), before which a poisoned source may lie (R129). -/
def bodyStop (v : VView) : Stop :=
  let bad := firstBad v v.vl
  let block := match v.e.op with
    | .widen _ a => if v.fmt = 2 then badBlockAt v a (bad.getD v.vl) else none
    | _ => none
  match block, bad with
  | some (i, sub), _ => .trap i (mkFault 0x09 sub 0 accLoad)
  | none, some i => .trap i (mkFault 0x15 0x02 0 accLoad)
  | none, none => .finish

/-- The fill of an entry's destination after a pass. -/
def passFill (v : VView) (st : Stop) : List VWrite :=
  let complete := st.completes
  let stop := st.at v.vl
  match v.e.op with
  | .mem op d _ => loadFill v op d stop complete
  | .matv d _ => loadFill v .ld d stop complete
  | _ => []

/-- Executes the head entry of a thread's queue. With VL 0 a VGL and a VSC leave the link set as it is, which R12 and R160 leave open
(log 93). -/
def runHead (s : State) (t : Thread) (e : VEntry) : State × HeadEnd :=
  let v := viewOf t e
  if v.vl = 0 then (s.setThread ((t.takeCount v).commitHead e Flags.none), .committed)
  else
    match e.op with
    | .mem _ _ _ | .matv _ _ | .mvta _ _ =>
      let bad := firstBad v v.vl
      let r := entryPass s t v bad
      let st := r.2.orBad bad
      let kept := { e with gov := heldGov t e, owed := r.1.stored }
      let s1 := r.1.s
      let t1 := withWrites ((s1.thread? t.tid).getD t) e (r.1.writes ++ passFill v st) []
      match st with
      | .finish => (s1.setThread (t1.commitHead e Flags.none), .committed)
      | .truncate i => (s1.setThread ((t1.commitHead e Flags.none).truncate e i), .committed)
      | .hold i => (s1.setThread (t1.keepHead kept i Flags.none), .blocked)
      | .trap i f =>
        let t2 := t1.keepHead kept i Flags.none
        (takeTrap (s1.setThread t2) t2 f (vectorPoint t2 e i), .trapped)
    | _ =>
      let st := bodyStop v
      let b := vectorBody v (match st with | .trap i _ => i | _ => 2 ^ 17)
      let t1 := withWrites t e b.1 (if raisesFlags v then b.2 else [])
      match st with
      | .trap i f =>
        let kept := { e with gov := heldGov t e, badBlock := if f.cause = 0x09 then some (i / 120) else e.badBlock }
        let t2 := t1.keepHead kept i (allFlags b.2)
        (takeTrap (s.setThread t2) t2 f (vectorPoint t2 e i), .trapped)
      | _ => (s.setThread ((t1.takeCount v).commitHead e (allFlags b.2)), .committed)

/-- Whether a scalar store numbered below n has still to perform (R167). A store that waits for an entry which is set aside while the handler runs
does not count (log 94). -/
def waitsForStores (s : State) (t : Thread) (n : Nat) : Bool := t.sbuf.any fun p => p.seq < n && !asideHeld s t p

/-- Executes the head entry, unless it waits for the matrix queue, for scalar stores before a FENCESV, or for its tile. -/
def stepHead (s : State) (t : Thread) (e : VEntry) : State × HeadEnd :=
  let s1 := match e.op.tile with
    | some z => restoreTile s t z
    | none => s
  let displaced := match e.op.tile with
    | some z => tileDisplaced s1 t z
    | none => false
  if waitsForMatrix s1 t e || waitsForStores s1 t e.waitStores || displaced then (s1, .blocked) else runHead s1 t e

/-- Executes queued entries, oldest first, until the queue is empty, an entry waits, or a trap is taken. -/
def drainFor (tid : BitVec 32) : Nat → State → State × HeadEnd
  | 0, s => (s, .committed)
  | n + 1, s =>
    match s.thread? tid with
    | none => (s, .trapped)
    | some t =>
      match t.vq with
      | [] => (s, .committed)
      | e :: _ =>
        match stepHead s t e with
        | (s', .committed) => drainFor tid n s'
        | r => r

/-- Drains a thread's vector queue: committed when no entry is left. -/
def drainVector (s : State) (t : Thread) : State × HeadEnd := drainFor t.tid (t.vq.length + 1) s

/-- A trap or replay-wait of a scalar instruction of the thread: the older vector instructions commit first; when one of them
waits, the instruction waits, and when one traps, its trap is taken instead (R20, R319). -/
def scalarTrapAt (s : State) (t : Thread) (f : Flt) (save : BitVec 57) : State :=
  match drainVector s t with
  | (s1, .committed) =>
    match s1.thread? t.tid with
    | none => s1
    | some u => takeTrap s1 u f { pc := u.pc, save := save, elem := 0 }
  | (s1, _) => s1

/-- A scalar trap that resumes at the instruction itself. -/
def scalarTrap (s : State) (t : Thread) (f : Flt) : State := scalarTrapAt s t f t.pc

/-- An illegal-instruction trap with a subcause (R63). -/
def illegal (s : State) (t : Thread) (sub : BitVec 8) : State := scalarTrap s t (mkFault 0x01 sub 0 accLoad)

end Sys2Proof.Machine
end

