-- ==== Sys2Proof/Machine/Matrix.lean ====
section
/-! DEFINITION. The core's matrix queue: rows of MMA, MMAI, MMAG, MLDA, MSTA, MZERO, their stops and their completion (R93 to R96,
R168 to R170, R184 to R192). -/

namespace Sys2Proof.Machine

/-! ### Terms (R93 to R96) -/

/-- An exact sum of products; a zero sum is +0 (R93). -/
def dot (xs : List (Fp × Fp)) : Fp :=
  match xs.foldl (fun acc x => (addFp 0 acc (mulFp x.1 x.2).1).1) (.fin false 0 0) with
  | .fin _ 0 _ => .fin false 0 0
  | r => r

/-- The element pairs of two blocks: ElemA and ElemB for j = 0 … 119 (R93). -/
def blockPairs (a b : List Byte) : List (Fp × Fp) := (List.range 120).map fun j => (blockElem a j, blockElem b j)

/-- The element pairs of two 64-byte groups of BF16 or FP16 (R94). -/
def plainPairs (f : FpFormat) (a b : List Byte) : List (Fp × Fp) :=
  (List.range 32).map fun j =>
    (decodeIeee f (leNat ((a.drop (2 * j)).take 2)), decodeIeee f (leNat ((b.drop (2 * j)).take 2)))

def anyNan (xs : List (Fp × Fp)) : Bool := xs.any fun x => isNan x.1 || isNan x.2

/-- One term rounded to FP32 and its flags NV, OF (R93, R96). `nanIn` tells that an input was a NaN. -/
def termOf (sum : Fp) (nanIn : Bool) : Nat × Flags :=
  let r := encodeFp fp32 0 sum
  (r.1, (r.2 &&& Flags.ovf) ||| Flags.on (isNan sum && !nanIn) Flags.nv)

/-- acc + term in FP32 with RNE; NV only when neither was a NaN (R96). -/
def accumulate (acc : Nat) (term : Nat × Flags) : Nat × Flags :=
  let a := decodeIeee fp32 acc
  let t := decodeIeee fp32 term.1
  let s := addFp 0 a t
  let r := encodeFp fp32 0 s.1
  (r.1, term.2 ||| (r.2 &&& Flags.ovf) ||| Flags.on (isNan s.1 && !isNan a && !isNan t) Flags.nv)

/-- A block pair's term: the sum times 2^(ea + eb), NaN for a scale of 0xFF (R93). -/
def floatTerm (a b : List Byte) : Nat × Flags :=
  let xs := blockPairs a b
  let sa := blockByte a 1
  let sb := blockByte b 1
  termOf (scaleFp sa (scaleFp sb (dot xs))) (anyNan xs || sa = 0xFF || sb = 0xFF)

/-- The products of an INT8 block pair (R95). -/
def intTerm (a b : List Byte) : Int :=
  ((List.range 60).map fun j => signed 8 (blockByte a (4 + j)).toNat * signed 8 (blockByte b (4 + j)).toNat).sum

/-- A pair combined with the accumulator by FMT (R185): 1 float blocks, 2 INT8 blocks, 3 BF16, 4 FP16. -/
def combine (fmt : Nat) (acc : Nat) (a b : List Byte) : Nat × Flags :=
  if fmt = 1 then accumulate acc (floatTerm a b)
  else if fmt = 2 then (wrap 32 (acc + intTerm a b), Flags.none)
  else
    let xs := plainPairs (if fmt = 3 then bf16 else fp16) a b
    accumulate acc (termOf (dot xs) (anyNan xs))

/-- A pair with a block that is still not valid: a NaN term and NV, or nothing and NV (R188). -/
def combineBad (fmt acc : Nat) : Nat × Flags :=
  if fmt = 1 then
    let r := accumulate acc (canonicalNan fp32, Flags.none)
    (r.1, r.2 ||| Flags.nv)
  else (acc, Flags.nv)

/-- The block-check subcause of a block as an operand (R186): 0x01, 0x02, or 0x03 for a code that the format does not admit. -/
def operandFault (fmt : Nat) (b : List Byte) : Option (BitVec 8) :=
  match blockFault b with
  | some sub => some sub
  | none => if (fmt = 2) = (blockByte b 0 = 4) then none else some 0x03

/-! ### Rows -/

/-- The progress of a row: the machine, the results so far, the flags, and, while some columns of a move stall, what the row keeps. -/
structure RowPass where
  s    : State
  vals : List Nat
  fl   : Flags
  move : Option RowMove

/-- Reading one 64-byte operand block (R186, R187). An error in the tile fetch buffer of the core is a block-check fault (R242). -/
def operandBlock (s : State) (t : Thread) (va : Dword) : Res (State × List Byte) :=
  (locate s t.agent accLoad va 64 (mkFault 0x08 0 va accLoad)).bind fun tr =>
    (readable s t.agent accLoad va tr 64).bind fun tr =>
      match sendOne s (tilePort t.core) t.tenant (.read 64) tr 64 with
      | none => .wait
      | some s0 =>
        if s0.fetchBad.mem t.core then .fault (mkFault 0x09 0x01 va accLoad)
        else
          let s1 := (s0.markLeaf accLoad tr.entry).noteRead tr.loc 64
          .ok (s1, s1.loadBytes tr.loc 64)

/-- An outcome of a multiply, with the blocks of it that are given up for the rest of the instruction (R188). -/
structure Vetted (α : Type) where
  dead : List Nat
  res  : Res α

/-- A next stage, with the blocks that are given up so far. -/
def Vetted.bind {α β : Type} (x : Vetted α) (f : List Nat → α → Vetted β) : Vetted β :=
  match x.res with
  | .ok a => f x.dead a
  | .wait => ⟨x.dead, .wait⟩
  | .fault e => ⟨x.dead, .fault e⟩

/-- The check of an operand block: one on which the instruction has faulted, and which it finds still not valid, does not fault again and is given
up, whatever another thread then writes there (R188). -/
def vetBlock (fmt : Nat) (seen dead : List Nat) (va : Dword) (b : List Byte) : Vetted Bool :=
  if 3 ≤ fmt then ⟨dead, .ok true⟩
  else if dead.elem va.toNat then ⟨dead, .ok false⟩
  else
    match operandFault fmt b with
    | none => ⟨dead, .ok true⟩
    | some sub => if seen.elem va.toNat then ⟨va.toNat :: dead, .ok false⟩ else ⟨dead, .fault (mkFault 0x09 sub va accLoad)⟩

/-- One pair of a result element. Where both blocks fail the check, A's is reported, whichever subcause is lower: R85 and R186 order the tests
of one block only (log 97). -/
def pairStep (t : Thread) (m : MEntry) (a b : Desc) (arow col : Nat) (dead : List Nat) (s : State) (acc : Nat × Flags) (k : Nat) :
    Vetted (State × (Nat × Flags)) :=
  let off := m.mkoff.toNat + 64 * k
  if off < a.rowLen && off < b.rowLen then
    let va := BitVec.ofNat 64 (a.rowVa arow + off)
    let vb := BitVec.ofNat 64 (b.rowVa col + off)
    let blocks := (operandBlock s t va).bind fun ra => (operandBlock ra.1 t vb).bind fun rb => .ok (rb.1, ra.2, rb.2)
    (⟨dead, blocks⟩ : Vetted (State × List Byte × List Byte)).bind fun dead x =>
      (vetBlock a.fmt.toNat m.badBlocks dead va x.2.1).bind fun dead oka =>
        (vetBlock a.fmt.toNat m.badBlocks dead vb x.2.2).bind fun dead okb =>
          let r := if oka && okb then combine a.fmt.toNat acc.1 x.2.1 x.2.2 else combineBad a.fmt.toNat acc.1
          ⟨dead, .ok (x.1, (r.1, acc.2 ||| r.2))⟩
  else ⟨dead, .ok (s, acc)⟩

/-- The eight pairs of a result element in ascending k. -/
def pairsFrom (t : Thread) (m : MEntry) (a b : Desc) (arow col : Nat) : List Nat → List Nat → State → Nat × Flags → Vetted (State × (Nat × Flags))
  | [], dead, s, acc => ⟨dead, .ok (s, acc)⟩
  | k :: r, dead, s, acc => (pairStep t m a b arow col dead s acc k).bind fun dead x => pairsFrom t m a b arow col r dead x.1 x.2

/-- The columns of a result row. -/
def columnsFrom (t : Thread) (m : MEntry) (a b : Desc) (tile row arow : Nat) : List Nat → List Nat → RowPass → Vetted RowPass
  | [], dead, p => ⟨dead, .ok p⟩
  | col :: r, dead, p =>
    (pairsFrom t m a b arow col (List.range 8) dead p.s (accGet p.s.acc tile row col, Flags.none)).bind fun dead x =>
      columnsFrom t m a b tile row arow r dead { s := x.1, vals := p.vals ++ [x.2.1], fl := p.fl ||| x.2.2, move := none }

/-- Writes a row's results to columns 0 upward. -/
def writeRow (acc : Memory) (tile row : Nat) (vals : List Nat) : Memory :=
  (vals.zip (List.range vals.length)).foldl (fun m x => accSet m tile row x.2 x.1) acc

/-- Locations of the elements of a packed row, all translated before any moves (R192). -/
def packedRow (s : State) (t : Thread) (acc : BitVec 2) (base : Dword) : List Nat → List Trans → Res (List Trans)
  | [], done => .ok done.reverse
  | c :: r, done =>
    let va := base + BitVec.ofNat 64 (4 * c)
    (locate s t.agent acc va 4 (mkFault 0x08 0 va acc)).bind fun tr => packedRow s t acc base r (tr :: done)

/-- The access of one element of a row. -/
def elementAccess (s : State) (t : Thread) (store : Bool) (x : Nat × Dword × Trans) : Res Trans :=
  if store then writable s t.agent x.2.1 x.2.2 4 else readable s t.agent accLoad x.2.1 x.2.2 4

/-- The lowest fault among the elements of a row that do not stall: it stops the entry before anything of the row is written (R188). -/
def rowFault (s : State) (t : Thread) (store : Bool) (xs : List (Nat × Dword × Trans)) : Option Flt :=
  xs.findSome? fun x => match elementAccess s t store x with
    | .fault f => some f
    | _ => none

/-- Moves one element of a row: MSTA writes it to memory, MLDA reads it; answers the value. -/
def moveElement (s : State) (store : Bool) (tile row : Nat) (x : Nat × Dword × Trans) : State × Nat :=
  let l := x.2.2.loc
  if store then
    let v := accGet s.acc tile row x.1
    (storeVia (s.markLeaf accStore x.2.2.entry) x.2.2.streaming l (leBytes 4 v), v)
  else
    let s1 := (s.markLeaf accLoad x.2.2.entry).noteRead l 4
    (s1, leNat (s1.loadBytes l 4))

/-- The elements of a row move, each that may be accessed and that the port can send; each stalls by itself, but on a strongly ordered page
none passes an earlier one (R152, R153, R192, R234). A store element of a row that has begun faults no more. Answers what has moved. -/
def moveElements (t : Thread) (store begun : Bool) (tile row : Nat) :
    List (Nat × Dword × Trans) → Bool → Run → State → State × List (Nat × Nat)
  | [], _, _, s => (s, [])
  | x :: r, blocked, run, s =>
    let strong := x.2.2.kind = 1
    let later := moveElements t store begun tile row r (blocked || strong) none s
    let op := if store then MemOp.write (leBytes 4 (accGet s.acc tile row x.1)) else .read 4
    let goes := match elementAccess s t store x with
      | .ok _ => true
      | .wait => false
      | .fault _ => store && begun
    if (blocked && strong) || !goes then later
    else
      match sendRun s (tilePort t.core) t.tenant run { op := if store then .write else .read, stride := some 4, esz := 2 } op x.2.2 x.1 with
      | some (s1, run1) =>
        let e := moveElement s1 store tile row x
        let y := moveElements t store begun tile row r blocked run1 e.1
        (y.1, (x.1, e.2) :: y.2)
      | none => later

/-- A row of an accumulator with the values that MLDA has read, by column; a row of 512 columns that is loaded holds no poison (R242). -/
def loadRow (s : State) (tile row n : Nat) (vals : List (Nat × Nat)) : State :=
  { s with
    acc := vals.foldl (fun m x => accSet m tile row x.1 x.2) s.acc
    accPoison := if n = 512 then s.accPoison.remove (tile * 128 + row) else s.accPoison }

/-- The translations of a row's elements: those that a row which has begun keeps, or new ones (R192). -/
def moveTrans (s : State) (t : Thread) (m : MEntry) (acc : BitVec 2) (base : Dword) (n : Nat) : Res (List Trans) :=
  if m.move.trans.isEmpty then packedRow s t acc base (List.range n) [] else .ok m.move.trans

/-- One row of MLDA or MSTA: its elements are translated, and its faults found, before it begins (R188, R192); then what does not stall moves.
The row is done when all of it has moved, and only then MLDA writes it to the accumulator. -/
def moveRow (s : State) (t : Thread) (m : MEntry) (tile row n : Nat) : Res RowPass :=
  let store := m.op = .sta
  let acc := if store then accStore else accLoad
  let base := m.a + BitVec.ofNat 64 (row * n * 4)
  let begun := !m.move.moved.isEmpty
  if m.a.toNat % 64 != 0 then .fault (mkFault 0x03 0 m.a acc)
  else
    (moveTrans s t m acc base n).bind fun ls =>
      if store && s.accPoison.mem (tile * 128 + row) && !begun then .fault (mkFault 0x15 0x04 0 acc)
      else
        let all := (List.range n).map fun c => base + BitVec.ofNat 64 (4 * c)
        let rest := ((List.range n).zip (all.zip ls)).filter fun x => !(m.move.moved.map (·.1)).elem x.1
        match (if store && begun then none else rowFault s t store rest) with
        | some f => .fault f
        | none =>
          let r := moveElements t store begun tile row rest false none s
          let moved := m.move.moved ++ r.2
          if r.2.length = rest.length then
            .ok { s := if store then r.1 else loadRow r.1 tile row n moved, vals := [], fl := Flags.none, move := none }
          else
            let pages := (pagePieces 3 base.toNat (4 * n)).map fun p => (p.1, pageSizeAt s t.agent acc p.1)
            .ok { s := r.1, vals := [], fl := Flags.none,
                  move := some (if moved.isEmpty then .none else { trans := ls, pages := pages, moved := moved }) }

/-- MSHAPE.M and MSHAPE.N (R30). -/
def shapeM (sh : BitVec 26) : Nat := (sh.extractLsb' 0 8).toNat
def shapeN (sh : BitVec 26) : Nat := (sh.extractLsb' 16 10).toNat

/-- One row of an entry; a multiply writes the row whole (R186). -/
def entryRow (s : State) (t : Thread) (m : MEntry) (ops : Option (Desc × Desc)) (row : Nat) : Vetted RowPass :=
  let tile := t.tileKey m.z
  match ops with
  | none => ⟨m.dead, moveRow s t m tile row (shapeN m.mshape)⟩
  | some (a, b) =>
    if s.accPoison.mem (tile * 128 + row) then ⟨m.dead, .fault (mkFault 0x15 0x04 0 accLoad)⟩
    else
      let arow := (if m.op = .mmag then t.tgpos.toNat * 128 else 0) + row
      let p0 : RowPass := { s := s, vals := [], fl := Flags.none, move := none }
      (columnsFrom t m a b tile row arow (List.range (shapeN m.mshape)) m.dead p0).bind fun dead p =>
        ⟨dead, .ok { p with s := { p.s with acc := writeRow p.s.acc tile row p.vals } }⟩

/-- How an entry's turn ends: with the machine and the entry as they then stand, at a row that stalls or stops it. -/
inductive MEnd where
  | done (s : State) (m : MEntry)
  | wait (s : State) (m : MEntry) (row : Nat)
  | stop (s : State) (m : MEntry) (row : Nat) (f : Flt)

/-- Rows in ascending order from a row on, up to one that stalls; the entry gathers the flags of each completed row (R96). What a row of MLDA or
MSTA has moved counts for that row only. -/
def rowsFrom (t : Thread) (m : MEntry) (ops : Option (Desc × Desc)) : List Nat → State → MEnd
  | [], s => .done s m
  | row :: r, s =>
    let x := entryRow s t m ops row
    let m := { m with dead := x.dead }
    match x.res with
    | .wait => .wait s m row
    | .fault f => .stop s m row f
    | .ok p =>
      match p.move with
      | some v => .wait p.s { m with move := v } row
      | none => rowsFrom t { m with move := .none, flags := m.flags ||| p.fl } ops r p.s

/-- The checks a multiply makes when it begins and at each resumption: handles, formats, rows (R175, R185, R186). They are made again at each of its
turns, so that a THSPLIT which another thread makes in the meantime counts: R186 does not say what it does (log 99). -/
def operandCheck (s : State) (t : Thread) (m : MEntry) : Except Flt (Option (Desc × Desc)) :=
  match m.op with
  | .mma | .mmai | .mmag =>
    match checkHandle s t.tenant m.a, checkHandle s t.tenant m.b with
    | .error sub, _ => .error (mkFault 0x0C sub 0 accLoad)
    | _, .error sub => .error (mkFault 0x0C sub 0 accLoad)
    | .ok a, .ok b =>
      let arow0 := if m.op = .mmag then t.tgpos.toNat * 128 else 0
      if a.desc.fmt != b.desc.fmt || a.desc.fmt.toNat = 0 || 4 < a.desc.fmt.toNat then .error (mkFault 0x0E 0x01 0 accLoad)
      else if a.desc.rows < arow0 + shapeM m.mshape || b.desc.rows < shapeN m.mshape then .error (mkFault 0x0D 0x02 0 accLoad)
      else .ok (some (a.desc, b.desc))
  | _ => .ok none

/-! ### The queue -/

/-- A queue with the oldest entry of a thread replaced or dropped. -/
def setOldest (tid : BitVec 32) (f : MEntry → Option MEntry) : List MEntry → List MEntry
  | [] => []
  | m :: r => if m.tid = tid then (match f m with | some m' => m' :: r | none => r) else m :: setOldest tid f r

/-- Replaces or drops the oldest entry of a thread. -/
def setMatrixHead (s : State) (tid : BitVec 32) (f : MEntry → Option MEntry) : State := { s with matq := setOldest tid f s.matq }

/-- The oldest entry of a thread has completed: its flags reach FCSR (R96), and the repeat counts of its accesses are over (R332). -/
def retireMatrix (s : State) (tid : BitVec 32) (m : MEntry) : State :=
  (setMatrixHead s tid fun _ => none).update tid fun t =>
    { t with fcsr := Flags.stick t.fcsr m.flags, repeats := t.repeats.filter fun r => r.1 != m.addr }

/-- A thread's oldest matrix entry stops: the flags of the rows that it has completed reach FCSR (R96). -/
def giveFlags (s : State) (tid : BitVec 32) : State :=
  if rowFlags s tid = 0 then s
  else
    (setMatrixHead s tid fun m => some { m with flags := 0 }).update tid fun t => { t with fcsr := Flags.stick t.fcsr (rowFlags s tid) }

/-- Whether an entry waits for older vector entries of its thread: the moves on its tile (R170), and the memory accesses, which
matrix accesses follow in order (R169). Entries that the handler set aside count. -/
def waitsForVector (t : Thread) (m : MEntry) : Bool :=
  (t.vq ++ t.asideQueue).any fun e => e.order < m.order &&
    match e.op with
    | .matv _ z | .mvta z _ => z = m.z
    | .mem op _ _ => op != .pf && m.op != .zero
    | _ => false

/-- Runs up to a number of rows of the oldest matrix entry of a thread; answers whether it completed. -/
def runMatrixRows (limit : Nat) (s : State) (t : Thread) (m : MEntry) : State × Bool :=
  let s0 := restoreTile s t m.z
  if m.stopped.isSome || waitsForVector t m || waitsForStores s0 t m.waitStores || tileDisplaced s0 t m.z || t.parked then (s0, false)
  else if m.op = .zero then
    let tile := t.tileKey m.z
    (retireMatrix { s0 with acc := Sparse.clear s0.acc (tile * 262144) 262144, accPoison := s0.accPoison.clear (tile * 128) 128 } t.tid m, true)
  else
    match operandCheck s0 t m with
    | .error f =>
      let t' := { t with trap := trapRegs f 0 true { pc := m.addr, save := t.pc, elem := 0 } }
      (endFatal (s0.setThread t') t' f 0, false)
    | .ok ops =>
      match rowsFrom t m ops (((List.range (shapeM m.mshape)).drop m.row.toNat).take limit) s0 with
      | .done s1 d =>
        if shapeM m.mshape ≤ m.row.toNat + limit then (retireMatrix s1 t.tid d, true)
        else (setMatrixHead s1 t.tid fun _ => some { d with row := BitVec.ofNat 8 (m.row.toNat + limit), begun := true }, false)
      | .wait s1 d row => (setMatrixHead s1 t.tid fun _ => some { d with row := BitVec.ofNat 8 row, begun := true }, false)
      | .stop s1 d row f =>
        let s2 := setMatrixHead { s1.noteFault f with fetchBad := s1.fetchBad.remove t.core } t.tid fun _ => some { d with
          move := .none
          row := BitVec.ofNat 8 row
          begun := true
          stopped := some f.noted
          due := true
          badBlocks := if f.cause = 0x09 then f.va.toNat :: d.badBlocks else d.badBlocks }
        (giveFlags s2 t.tid, false)

/-- Runs the oldest matrix entry of a thread to its end; an entry has at most 128 rows. -/
def runMatrixHead (s : State) (t : Thread) (m : MEntry) : State × Bool := runMatrixRows 128 s t m

/-- Runs one row of a thread's oldest matrix entry: an entry may be stopped between any two rows (R30, R285). -/
def runMatrixRow (s : State) (tid : BitVec 32) : State :=
  match s.thread? tid, matrixOf s tid with
  | some t, m :: _ => (runMatrixRows 1 s t m).1
  | _, _ => s

/-- Runs a thread's matrix entries, oldest first, until none is left or one cannot go on. -/
def drainMatrixFor (tid : BitVec 32) : Nat → State → State
  | 0, s => s
  | n + 1, s =>
    match s.thread? tid, matrixOf s tid with
    | some t, m :: _ =>
      match runMatrixHead s t m with
      | (s', true) => drainMatrixFor tid n s'
      | (s', false) => s'
    | _, _ => s

/-- Runs a thread's matrix entries as far as they go. -/
def drainMatrix (s : State) (tid : BitVec 32) : State := drainMatrixFor tid ((matrixOf s tid).length + 1) s

/-- The entry whose fault the thread has still to take at its scalar point (R188). -/
def dueMatrix (s : State) (tid : BitVec 32) : Option (MEntry × Flt) :=
  match matrixOf s tid with
  | m :: _ => if m.due then m.stopped.map fun f => (m, f) else none
  | [] => none

/-- Takes the trap of a stopped matrix entry (R188, R319). -/
def takeMatrixTrap (s : State) (t : Thread) (m : MEntry) (f : Flt) : State :=
  takeTrap (setMatrixHead s t.tid fun m => some { m with due := false, inside := t.inHandler }) t f { pc := m.addr, save := t.pc, elem := 0 }

/-- A stopped entry goes on once its trap has been taken and the thread is back from its handler, or, where the trap was taken in the handler,
from its wait (R188, R331, R374). -/
def resumeMatrix (s : State) (t : Thread) : State :=
  match matrixOf s t.tid with
  | m :: _ =>
    if m.stopped.isSome && !m.due && (!t.inHandler || m.inside) && t.replay.isNone then
      setMatrixHead s t.tid fun m => some { m with stopped := none }
    else s
  | [] => s

/-- Queues a matrix instruction with the values captured at push (R30), and what program order makes of MROW and MKOFF after it. -/
def pushMatrix (s : State) (t : Thread) (i : Instr) (op : MOp) (z : BitVec 1) (a b : Dword) (slots : Nat) : State :=
  let e : MEntry :=
    { tid := t.tid, instr := i, addr := t.pc, op := op, z := z, a := a, b := b, mshape := t.mshape, row := t.mrow, mkoff := t.mkoff,
      order := t.order, waitStores := if op = .sta then t.fences.vsSs else t.fences.vlSs, move := .none,
      begun := false, stopped := none, due := false, inside := false, badBlocks := [], dead := [], flags := 0 }
  let t1 := (t.advance slots)
  let t2 := { t1 with
    order := t.order + 1
    repeats := t.queuedRepeats
    mrow := if op = .zero then t.mrow else 0
    mkoff := if op = .mmai then t.mkoff + 512 else t.mkoff }
  { s with matq := s.matq ++ [e] }.setThread t2

/-- The entries in the matrix queue of a thread's core. -/
def coreQueue (s : State) (t : Thread) : List MEntry := s.matq.filter fun m => (m.tid.extractLsb' 3 8).toNat = t.core

/-- Whether a thread owns a tile, or has been displaced from it while pre-empted (R28, R183). -/
def ownsTile (s : State) (t : Thread) (z : BitVec 1) : Bool :=
  Sparse.get 0 s.accOwner (t.tileKey z) = t.tid.toNat + 1 || tileDisplaced s t z

end Sys2Proof.Machine
end

