-- ==== Sys2Proof/Machine/Access.lean ====
section
/-! DEFINITION. The frame of a scalar instruction: the current thread, poisoned operands, what an instruction waits for, and scalar
loads and stores (R19, R20, R102, R103, R122, R247). -/

namespace Sys2Proof.Machine

/-- What a meaning answers. -/
abbrev Result := Host.Outcome State Fault Refusal

/-- A meaning as what it makes of the current thread. -/
def onThread (s : State) (f : Thread → State) : Result :=
  match s.thread? s.cur with
  | none => .fault .noThread
  | some t => .next (f t)

/-- A scalar instruction that reads registers: a poisoned one is consumed and traps (R334). -/
def scalarOp (s : State) (reads : List (BitVec 7)) (f : Thread → State) : Result :=
  onThread s fun t => if reads.any t.badG then scalarTrap s t (mkFault 0x15 0x02 0 accLoad) else f t

/-- An instruction that writes one register from others and advances: the whole effect of the arithmetic instructions. -/
def writeOp (s : State) (reads : List (BitVec 7)) (d : BitVec 7) (slots : Nat) (f : Thread → Dword) : Result :=
  scalarOp s reads fun t => s.setThread ((t.setG d (f t)).advance slots)

/-! ### Waits -/

/-- After every older vector instruction of the thread has committed; while one waits the instruction waits, and a trap of one is
taken (R19, R20). In a handler this is the handler's own vector work: R114 and R374 do not say whether such a wait covers the entries that
the snapshot holds, and it does not (log 94). -/
def afterVector (s : State) (t : Thread) (k : State → Thread → State) : State :=
  match drainVector s t with
  | (s1, .committed) =>
    match s1.thread? t.tid with
    | none => s1
    | some u => k s1 u
  | (s1, _) => s1

/-- After every older matrix instruction of the thread has completed (R374 sets some apart in the handler). A stop's trap is taken at
the thread's next turn. -/
def afterMatrix (s : State) (t : Thread) (k : State → Thread → State) : State :=
  let s1 := drainMatrix s t.tid
  match s1.thread? t.tid with
  | none => s1
  | some u => if (pendingMatrix s1 u).isEmpty then k s1 u else s1

/-- After every scalar store of the thread has performed, but those that wait for entries which are set aside while the handler runs (log 94). -/
def afterStores (s : State) (t : Thread) (k : State → Thread → State) : State :=
  let s1 := flushStores s t
  match s1.thread? t.tid with
  | none => s1
  | some u => if storesLeft s1 u then s1 else k s1 u

/-- After every older load, or store, of the thread has performed, scalar, vector and matrix (R106). -/
def afterKinds (s : State) (t : Thread) (loads stores : Bool) (k : State → Thread → State) : State :=
  match drainVector s t with
  | (s1, .trapped) => s1
  | (s1, _) =>
    let s2 := drainMatrix s1 t.tid
    let s3 := if stores then (match s2.thread? t.tid with | some u => flushStores s2 u | none => s2) else s2
    match s3.thread? t.tid with
    | none => s3
    | some u =>
      if (u.vq.any fun e => e.accesses loads stores) || ((pendingMatrix s3 u).any fun m => m.accesses loads stores) ||
          (stores && storesLeft s3 u) then s3
      else k s3 u

/-- After every older access of the thread, scalar, vector and matrix, has performed. -/
def afterAll (s : State) (t : Thread) (k : State → Thread → State) : State :=
  afterVector s t fun s t => afterMatrix s t fun s t => afterStores s t k

/-- After every older vector and matrix instruction of the thread has committed. -/
def afterQueues (s : State) (t : Thread) (k : State → Thread → State) : State :=
  afterVector s t fun s t => afterMatrix s t k

/-- Whether a command may still write: a TLAUNCH whose block is in its ring and a PGREQ write no more (R107, R211, R212). -/
def Command.mayWrite (c : Command) : Bool :=
  match c.op with
  | .tlaunch => c.phase = .issued
  | .pgreq => false
  | _ => true

/-- After every engine command that the thread issued has made its last write (R107). -/
def afterEngines (s : State) (t : Thread) (k : State → Thread → State) : State :=
  if s.commands.any fun c => c.tid = t.tid && c.mayWrite then s else k s t

/-- An access outcome of a scalar instruction: a fault traps, a wait leaves the instruction to execute again. -/
def onAccess {α : Type} (s : State) (t : Thread) (r : Res α) (k : α → State) : State :=
  match r with
  | .fault f => scalarTrap s t f
  | .wait => s
  | .ok a => k a

/-! ### Scalar loads and stores (R102, R103) -/

/-- Whether a scalar access waits behind a FENCESV for vector or matrix accesses pushed before it (R167). The vector entries that a handler's
snapshot holds do not count, which R167 and R374 leave open (log 94). -/
def scalarHeld (s : State) (t : Thread) (load store : Bool) : Bool :=
  let before := fun (o : Nat) (acc : Bool → Bool → Bool) =>
    (load && ((o < t.fences.slVl && acc true false) || (o < t.fences.slVs && acc false true))) ||
      (store && ((o < t.fences.ssVl && acc true false) || (o < t.fences.ssVs && acc false true)))
  (t.vq.any fun e => before e.order e.accesses) || (pendingMatrix s t).any fun m => before m.order m.accesses

/-- Whether an access of n bytes follows an executed store of its thread: they share a byte, or both lie on strongly ordered pages (R247). -/
def Pending.before (p : Pending) (l : Loc) (n : Nat) (strong : Bool) : Bool := overlap l n p.loc p.bytes.length || (strong && p.kind = 1)

/-- The number of executed stores of a thread up to the last that an access follows. -/
def overlapCount (l : Loc) (n : Nat) (strong : Bool) (ps : List Pending) : Nat :=
  ((List.range ps.length).filter fun k => (ps[k]?).any fun p => p.before l n strong).foldl (fun _ k => k + 1) 0

/-- Performs the thread's executed stores up to the last that an access of n bytes follows (R247, R250), as far as none is held back; answers whether
none of these is left. -/
def settle (s : State) (tid : BitVec 32) (l : Loc) (n : Nat) (strong : Bool := false) : State × Bool :=
  match s.thread? tid with
  | none => (s, true)
  | some t =>
    let k := overlapCount l n strong t.sbuf
    if k = 0 then (s, true)
    else
      let r := performAll s t (t.sbuf.take k)
      (r.1.update tid fun u => { u with sbuf := r.2 ++ t.sbuf.drop k }, r.2.isEmpty)

/-- Bytes of memory as a thread reads them whose executed stores have not all performed: those that it has stored itself are its own. -/
def ownBytes (ps : List Pending) (l : Loc) (bs : List Byte) : List Byte :=
  ps.foldl (fun bs p => (List.range bs.length).zip bs |>.map fun x =>
    if p.loc ≤ l + x.1 && l + x.1 < p.loc + p.bytes.length then p.bytes.getD (l + x.1 - p.loc) x.2 else x.2) bs

/-- A scalar read of n bytes of a translated location performs: its packet, the marks of its leaf, the read; answers the value. In a handler a store
to these bytes may be left that waits for an entry which is set aside: the read takes its bytes (log 94). -/
def performRead (s : State) (t : Thread) (tr : Trans) (n : Nat) : Res (State × Nat) :=
  match sendScalar s t (.read (BitVec.ofNat 8 n)) tr with
  | none => .wait
  | some s1 =>
    let s2 := (s1.markLeaf accLoad tr.entry).noteRead tr.loc n (some t.core)
    let own := ((s2.thread? t.tid).elim [] (·.sbuf)).filter fun p => p.before tr.loc n false
    .ok (s2, leNat (if own.isEmpty then s2.loadBytes tr.loc n else ownBytes own tr.loc (s2.loadBytes tr.loc n)))

/-- Whether the executed stores that a read follows have performed, but those that wait for entries which are set aside. -/
def settledFor (s : State) (tid : BitVec 32) (l : Loc) (n : Nat) (strong : Bool) : Bool :=
  (s.thread? tid).all fun t => t.sbuf.all fun p => !p.before l n strong || asideHeld s t p

/-- What a scalar read of n bytes at an address gives the thread, once its own stores to these bytes have performed (R247). -/
def scalarRead (s : State) (t : Thread) (va : Dword) (n : Nat) : Res (State × Nat) :=
  if va.toNat % n != 0 then .fault (mkFault 0x03 0 va accLoad)
  else if scalarHeld s t true false then .wait
  else
    (locateScalar s t.agent accLoad va n).bind fun tr =>
      let r := settle s t.tid tr.loc n (tr.kind = 1)
      if r.2 || settledFor r.1 t.tid tr.loc n (tr.kind = 1) then
        (readable r.1 t.agent accLoad va tr n (some t.core)).bind fun tr => performRead r.1 t tr n
      else .wait

/-- A scalar load (R102): the bytes, sign-extended. -/
def loadOp (s : State) (d a : BitVec 7) (imm : Imm11) (n : Nat) : Result :=
  scalarOp s [a] fun t =>
    onAccess s t (scalarRead s t (t.g a + imm.value) n) fun r =>
      match r.1.thread? t.tid with
      | none => r.1
      | some u => r.1.setThread ((u.setG d ((BitVec.ofNat (8 * n) r.2).signExtend 64)).advance imm.slots)

/-- A thread past a scalar store. -/
def Thread.stored (t : Thread) (slots : Nat) : Thread := { t.advance slots with stores := t.stores + 1 }

/-- A scalar store performs: its packet, the marks of its leaf, the write. -/
def performStore (s : State) (t : Thread) (tr : Trans) (bs : List Byte) (slots : Nat) : State :=
  match sendScalar s t (.write bs) tr with
  | none => s
  | some s1 =>
    let s2 := s1.markLeaf accStore tr.entry
    match s2.thread? t.tid with
    | none => s2
    | some u => storeFrom (s2.setThread (u.stored slots)) u.core tr.streaming tr.loc bs

/-- A scalar store takes its place among the thread's executed stores, with the translation that it has used (R120) and the accesses that a FENCESV
puts before it (R167). -/
def keepStore (s : State) (t : Thread) (va : Dword) (tr : Trans) (bs : List Byte) (slots : Nat) : State :=
  let s1 := s.markLeaf accStore tr.entry
  let page := tr.entry.map fun _ => (va.toNat, pageSizeAt s t.agent accStore va.toNat, t.atp.extractLsb' 44 16)
  s1.update t.tid fun u =>
    { u.stored slots with
      sbuf := u.sbuf ++ [{ seq := u.stores, loc := tr.loc, bytes := bs, kind := tr.kind, streaming := tr.streaming, page := page,
                           afterVl := u.fences.ssVl, afterVs := u.fences.ssVs }] }

/-- Whether a store only executes now and performs later: the agenda holds the thread's stores, never on a strongly ordered page (R247), or a FENCESV
puts vector accesses before it (R167). -/
def storeKept (s : State) (t : Thread) (tr : Trans) : Bool := (t.holdStore && tr.kind != 1) || scalarHeld s t false true

/-- A scalar store (R102). Unless it only executes, the executed stores of the thread perform before it; in a handler it stays behind one that waits
for an entry which is set aside (log 94). A line that is lost takes no store (R336). -/
def storeOp (s : State) (d a : BitVec 7) (imm : Imm11) (n : Nat) : Result :=
  scalarOp s [d, a] fun t =>
    let va := t.g a + imm.value
    let bs := leBytes n (t.g d).toNat
    if va.toNat % n != 0 then scalarTrap s t (mkFault 0x03 0 va accStore)
    else
      onAccess s t (locateScalar s t.agent accStore va n) fun tr =>
        if poisonSub s tr.loc n = some 0x05 then scalarTrap s t { mkFault 0x15 0x05 va accStore with reads := tr.reads }
        else if leafHeld s t.tid accStore tr.entry then s
        else if storeKept s t tr then keepStore s t va tr bs imm.slots
        else
          afterStores s t fun s t =>
            if t.sbuf.any fun p => p.before tr.loc n (tr.kind = 1) then keepStore s t va tr bs imm.slots
            else onAccess s t (writable s t.agent va tr n) fun tr => performStore s t tr bs imm.slots

end Sys2Proof.Machine
end

