-- ==== Sys2Proof/Machine/Atomics.lean ====
section
/-! DEFINITION. Atomic accesses to one doubleword: AMOs, memory-count barriers and watermarks (R104, R105, R109 to R113). -/

namespace Sys2Proof.Machine

/-- The location of an aligned doubleword for an atomic access, once neither a FENCESV nor a claim holds it back (R104, R167, R262). A load may
be served by the core's own L1. -/
def atomicLoc (s : State) (t : Thread) (va : Dword) (acc : BitVec 2) : Res Trans :=
  if va.toNat % 8 != 0 then .fault (mkFault 0x03 0 va acc)
  else if scalarHeld s t true (acc != accLoad) then .wait
  else (locateScalar s t.agent acc va 8).bind fun tr => readable s t.agent acc va tr 8 (if acc = accLoad then some t.core else none)

/-- The new value of an AMO (R104), or none where it writes nothing. -/
def amoValue (op : AmoOp) (operand cmp old : Dword) : Option Dword :=
  match op with
  | .add => some (old + operand)
  | .swp => some operand
  | .cas => if old = cmp then some operand else none
  | .and => some (old &&& operand)
  | .or => some (old ||| operand)
  | .xor => some (old ^^^ operand)
  | .min => some (if operand.toInt < old.toInt then operand else old)
  | .max => some (if old.toInt < operand.toInt then operand else old)

/-- An AMO on a doubleword: one read-modify-write, across the Bruron Link one packet (R347). It breaks the line's links even when it writes
nothing (R104). Answers the old value. -/
def rmw (s : State) (tr : Trans) (op : AmoOp) (operand cmp : Dword) (release : Bool) : State × Dword :=
  let s1 := (s.markLeaf accAmo tr.entry).sendPacket tr.loc (.amo op operand cmp) release
  let old := s1.mem64 tr.loc
  match amoValue op operand cmp old with
  | some new => (bypassL2 (s1.putBytes tr.loc (leBytes 8 new.toNat)) tr.streaming tr.loc 8, old)
  | none => ((if isPeer tr.loc then s1 else s1.noteRead tr.loc 8).breakLinksAt tr.loc 8, old)

/-- Whether an order modifier releases. -/
def releases (o : Order) : Bool := o = .rel || o = .acqrel

/-- After the thread's own scalar stores that an atomic access of a location follows (R247). -/
def afterOwn (s : State) (t : Thread) (tr : Trans) (k : State → Thread → State) : State :=
  match settle s t.tid tr.loc 8 (tr.kind = 1) with
  | (s1, false) => s1
  | (s1, true) => k s1 ((s1.thread? t.tid).getD t)

/-- What an AMO waits for: with `.rel` every earlier access of the thread, otherwise its own earlier scalar stores to a common byte (R105,
R247). -/
def beforeAmo (s : State) (t : Thread) (o : Order) (tr : Trans) (k : State → Thread → State) : State :=
  if releases o then afterAll s t fun s t => afterOwn s t tr k else afterOwn s t tr k

/-- Whether a release to a location still waits: it lies across the Bruron Link, and some write sent over it is not acknowledged (R257). -/
def awaitsAcks (s : State) (release : Bool) (l : Loc) : Bool := release && isPeer l && s.unacked.any fun u => memOpWrites u.access.op

/-- An AMO (R104, R105, R257). The scope bit narrows no atomicity, and in a machine whose accesses perform one at a time it narrows no
order within the package. -/
def amoOp (op : AmoOp) (d a : BitVec 7) (b : Src) (o : Order) (dev : Bool) (s : State) : Result :=
  scalarOp s ((if op = .cas then [d] else []) ++ a :: b.reads) fun t =>
    match atomicLoc s t (t.g a) accAmo with
    | .fault f => scalarTrap s t f
    | .wait => if releases o then afterAll s t fun s _ => s else s
    | .ok tr =>
      beforeAmo s t o tr fun s t =>
        onAccess s t (atomicLoc s t (t.g a) accAmo) fun tr =>
          let release := releases o && dev
          if awaitsAcks s release tr.loc then s
          else
            match sendScalar s t (.amo op (t.src b) (t.g d)) tr with
            | none => s
            | some s =>
              let r := rmw s tr op (t.src b) (t.g d) release
              r.1.update t.tid fun u => (u.setG d r.2).advance b.slots

/-- AMOADD (R104). -/
def execAmoadd (d a : BitVec 7) (b : Src) (o : Order) (dev : Bool) (s : State) : Result := amoOp .add d a b o dev s

/-- AMOSWP (R104). -/
def execAmoswp (d a : BitVec 7) (b : Src) (o : Order) (dev : Bool) (s : State) : Result := amoOp .swp d a b o dev s

/-- AMOCAS (R104). -/
def execAmocas (d a : BitVec 7) (b : Src) (o : Order) (dev : Bool) (s : State) : Result := amoOp .cas d a b o dev s

/-- AMOAND (R104). -/
def execAmoand (d a : BitVec 7) (b : Src) (o : Order) (dev : Bool) (s : State) : Result := amoOp .and d a b o dev s

/-- AMOOR (R104). -/
def execAmoor (d a : BitVec 7) (b : Src) (o : Order) (dev : Bool) (s : State) : Result := amoOp .or d a b o dev s

/-- AMOXOR (R104). -/
def execAmoxor (d a : BitVec 7) (b : Src) (o : Order) (dev : Bool) (s : State) : Result := amoOp .xor d a b o dev s

/-- AMOMIN (R104). -/
def execAmomin (d a : BitVec 7) (b : Src) (o : Order) (dev : Bool) (s : State) : Result := amoOp .min d a b o dev s

/-- AMOMAX (R104). -/
def execAmomax (d a : BitVec 7) (b : Src) (o : Order) (dev : Bool) (s : State) : Result := amoOp .max d a b o dev s

/-! ### Memory-count barriers (R110, R111) -/

/-- BARA (R110, R257): adds 1 to the counter as a release, and continues. -/
def execBara (a : BitVec 7) (s : State) : Result :=
  scalarOp s [a] fun t =>
    afterAll s t fun s t =>
      onAccess s t (atomicLoc s t (t.g a) accAmo) fun tr =>
        if awaitsAcks s true tr.loc then s
        else
          match sendScalar s t (.amo .add 1 0) tr with
          | none => s
          | some s => (rmw s tr .add 1 0 true).1.update t.tid fun u => u.advance 1

/-- A BARW that waits: its counter and bound are noted, and the die checks the gang's waiters on that counter when the wait begins (R111). -/
def waitCounter (s : State) (t : Thread) (l : Loc) (bound : Dword) : State :=
  if t.wait = .barw l bound then s
  else checkCounters (s.setThread { t with wait := .barw l bound }) t (some l)

/-- The trap of a BARW that can no longer be reached (R111). -/
def trapUnreachable (s : State) (t : Thread) : State :=
  let u := { t with wait := .none }
  scalarTrap (s.setThread u) u (mkFault 0x14 0 0 accLoad)

/-- BARW (R110, R111): once the older vector and matrix instructions have committed, waits until the counter, which it reads after the thread's own
stores to it (R247), reaches its bound; a waiter that can no longer be reached traps. -/
def execBarw (a : BitVec 7) (b : Src) (s : State) : Result :=
  scalarOp s (a :: b.reads) fun t =>
    if t.wait = .unreachable then trapUnreachable s t
    else
      afterQueues s t fun s t =>
        onAccess s t (atomicLoc s t (t.g a) accLoad) fun tr =>
          afterOwn s t tr fun s t =>
            onAccess s t (performRead s t tr 8) fun x =>
              if (t.src b).toNat ≤ x.2 then x.1.update t.tid fun u => ({ u with wait := .none } : Thread).advance b.slots
              else waitCounter x.1 ((x.1.thread? t.tid).getD t) tr.loc (t.src b)

/-! ### Watermarks (R112, R113) -/

/-- Raises a watermark: one read-modify-write, across the Bruron Link one packet (R112, R347). A value that does not exceed the word writes
nothing. -/
def publish (s : State) (tr : Trans) (v : Dword) : State :=
  let s1 := (s.markLeaf accAmo tr.entry).sendPacket tr.loc (.publish v) true
  if (s1.mem64 tr.loc).toNat < v.toNat then bypassL2 (s1.putBytes tr.loc (leBytes 8 v.toNat)) tr.streaming tr.loc 8
  else if isPeer tr.loc then s1
  else s1.noteRead tr.loc 8

/-- PUBWM (R112, R257): raises the word to g(d) as a release, once every earlier access of the thread has performed. -/
def execPubwm (d a : BitVec 7) (s : State) : Result :=
  scalarOp s [d, a] fun t =>
    match atomicLoc s t (t.g a) accAmo with
    | .fault f => scalarTrap s t f
    | _ =>
      afterAll s t fun s t =>
        onAccess s t (atomicLoc s t (t.g a) accAmo) fun tr =>
          if awaitsAcks s true tr.loc then s
          else
            match sendScalar s t (.publish (t.g d)) tr with
            | none => s
            | some s => (publish s tr (t.g d)).update t.tid fun u => u.advance 1

/-- WAITWM (R113): waits until the word, which it reads after the thread's own stores to it (R247), reaches g(d). -/
def execWaitwm (d a : BitVec 7) (s : State) : Result :=
  scalarOp s [d, a] fun t =>
    onAccess s t (atomicLoc s t (t.g a) accLoad) fun tr =>
      match settle s t.tid tr.loc 8 (tr.kind = 1) with
      | (s1, false) => s1
      | (s1, true) =>
        onAccess s1 t (performRead s1 t tr 8) fun r =>
          if (t.g d).toNat ≤ r.2 then r.1.update t.tid fun u => u.advance 1 else r.1

end Sys2Proof.Machine
end

