-- ==== Sys2Proof/Machine/Launch.lean ====
section
/-! DEFINITION. Queues and launch blocks (R271 to R276). -/

namespace Sys2Proof.Machine

/-! ### Queue registers (R271, R272) -/

def qcfg (s : State) (q : BitVec 10) : Dword := s.mreg (queueDie q) (offQueue q)
def qHead (s : State) (q : BitVec 10) : Nat := field (s.mreg (queueDie q) (offQueue q + 8)) 0 16
def qTail (s : State) (q : BitVec 10) : Nat := field (s.mreg (queueDie q) (offQueue q + 16)) 0 16
def qEnabled (cfg : Dword) : Bool := cfg.getLsbD 0
def qDeviceFed (cfg : Dword) : Bool := cfg.getLsbD 1
def qTenant (cfg : Dword) : BitVec 4 := cfg.extractLsb' 2 4
def qPrio (cfg : Dword) : BitVec 2 := cfg.extractLsb' 6 2
def qSup (cfg : Dword) : Bool := cfg.getLsbD 57

/-- Blocks that a queue's ring holds. -/
def qSize (cfg : Dword) : Nat := 2 ^ (field cfg 8 4 + 4)

/-- Blocks posted and not accepted. -/
def qUsed (s : State) (q : BitVec 10) : Nat := (qTail s q + 65536 - qHead s q) % 65536

/-- The address of block k of a queue. -/
def qBlock (cfg : Dword) (k : Nat) : Nat := field cfg 12 45 * 4096 + 64 * (k % qSize cfg)

def setQHead (s : State) (q : BitVec 10) (v : Nat) : State := s.setMreg (queueDie q) (offQueue q + 8) (BitVec.ofNat 64 (v % 65536))
def setQTail (s : State) (q : BitVec 10) (v : Nat) : State := s.setMreg (queueDie q) (offQueue q + 16) (BitVec.ofNat 64 (v % 65536))

/-- Sets QSTAT.ERRF (R272, R338). -/
def setErrf (s : State) (q : BitVec 10) : State :=
  s.setMreg (queueDie q) (offQueue q + 24) (setField (s.mreg (queueDie q) (offQueue q + 24)) 16 1 1)

/-- Counts a discarded block: ERR saturates, ERRF is set (R271, R275). -/
def countDiscard (s : State) (q : BitVec 10) : State :=
  let v := s.mreg (queueDie q) (offQueue q + 24)
  s.setMreg (queueDie q) (offQueue q + 24) (setField (setField v 0 16 (min 65535 (field v 0 16 + 1))) 16 1 1)

/-- The queues of the device. -/
def allQueues : List (BitVec 10) := (List.range 1024).map fun k => BitVec.ofNat 10 k

/-! ### Launch blocks (R274, R275) -/

/-- The eight doublewords of 64 bytes. -/
def dwordsOf (bs : List Byte) : List Dword := (List.range 8).map fun k => leDword ((bs.drop (8 * k)).take 8)

/-- The fields of a launch block. -/
def launchBlockOf (ws : List Dword) : LaunchBlock :=
  let w := fun k => ws.getD k 0
  { entry := (w 0).extractLsb' 0 57, spad := field (w 1) 48 8, tileg := (w 1).getLsbD 44, gangsM1 := field (w 1) 16 16,
    ncrewM1 := field (w 1) 4 4, nthrM1 := field (w 1) 0 3, done := w 2, args := w 3, p0 := w 4, p1 := w 5, p2 := w 6, p3 := w 7 }

/-- Whether a block is invalid (R275): a field that must be 0, SPAD above 96, or a tile gang without four crews. DONE and ARGS are not
checked at acceptance. -/
def blockInvalid (ws : List Dword) : Bool :=
  let w0 := ws.getD 0 0
  let w1 := ws.getD 1 0
  let b := launchBlockOf ws
  field w0 57 7 != 0 || field w0 0 7 != 0 || field w1 56 8 != 0 || field w1 45 3 != 0 || field w1 32 12 != 0 ||
    field w1 8 8 != 0 || field w1 3 1 != 0 || 96 < b.spad || (b.tileg && b.ncrewM1 != 3)

/-- Why a TLAUNCH is refused, the lowest SUB that applies (R212, R276). -/
def launchRefusal (s : State) (tenant : BitVec 4) (sup : Bool) (arg : Dword) (ws : List Dword) : Option Nat :=
  let q := arg.extractLsb' 0 10
  let cfg := qcfg s q
  if field arg 10 54 != 0 || qTenant cfg != tenant || !qEnabled cfg || !qDeviceFed cfg || (!sup && qSup cfg) then some 1
  else if qSize cfg ≤ qUsed s q then some 2
  else if blockInvalid ws then some 3
  else none

end Sys2Proof.Machine
end

