-- ==== Sys2Proof/Machine/Handles.lean ====
section
/-! DEFINITION. Tile handles, tenure and accumulator ownership (R171 to R184, R258 to R269). -/

namespace Sys2Proof.Machine

/-! ### Directory entries (R174, R175, R267) -/

/-- Entries that a tenant holds on a die. -/
def dirUsed (s : State) (die : BitVec 2) (tenant : BitVec 4) : Nat :=
  (s.tiles.filter fun k => k.die = die && k.tenant = tenant).length

/-- Free entries of a die's directory. -/
def dirFree (s : State) (die : BitVec 2) : Nat := Config.directoryEntries - (s.tiles.filter fun k => k.die = die).length

/-- The sixteen tenants. -/
def allTenants : List (BitVec 4) := (List.range 16).map fun k => BitVec.ofNat 4 k

/-- Whether a tenant may take an entry of a die's directory (R267). -/
def mayTakeEntry (s : State) (die : BitVec 2) (tenant : BitVec 4) : Bool :=
  let owed := ((allTenants.filter fun u => u != tenant).map fun u => field (s.mreg die (offDirq u)) 32 15 - dirUsed s die u).sum
  decide (dirUsed s die tenant < field (s.mreg die (offDirq tenant)) 0 15) && decide (owed < dirFree s die)

/-- The free indices of a die's directory. -/
def freeIndices (s : State) (die : BitVec 2) : List Nat :=
  (List.range Config.directoryEntries).filter fun i => !s.tiles.any fun k => k.die = die && k.index.toNat = i

/-- A member of a list of free places; which one the manual leaves open (log 14). -/
def pickFree (s : State) (salt : Nat) (free : List Nat) : Option Nat := free[Config.freePlace s.steps salt % free.length]?

/-- Takes an entry of a die's directory for a descriptor: its handle, or 0 when the tenant may take none (R177). -/
def takeEntry (s : State) (die : BitVec 2) (tenant : BitVec 4) (d : Desc) : State × Dword :=
  match if mayTakeEntry s die tenant then pickFree s 0 (freeIndices s die) else none with
  | none => (s, 0)
  | some i =>
    let index := BitVec.ofNat 14 i
    ({ s with tiles := s.tiles ++ [{ die := die, index := index, tenant := tenant, desc := d }] }, handleOf s die index tenant)

/-- Frees an entry: its generation rises (R175). -/
def freeEntry (s : State) (k : Tile) : State :=
  let key := tileKey k.die k.index
  { s with
    tiles := s.tiles.filter fun x => !(x.die = k.die && x.index = k.index)
    tileGen := Sparse.set 0 s.tileGen key (Sparse.get 0 s.tileGen key + 1) }

/-- A stale handle's trap (R175). -/
def staleTrap (s : State) (t : Thread) (sub : BitVec 8) : State := scalarTrap s t (mkFault 0x0C sub 0 accLoad)

/-- A meaning on a live handle: stale ones trap. -/
def onHandle (s : State) (t : Thread) (h : Dword) (k : Tile → State) : State :=
  match checkHandle s t.tenant h with
  | .error sub => staleTrap s t sub
  | .ok tile => k tile

/-- THNEW (R173, R177). -/
def execThnew (d a : BitVec 7) (s : State) : Result :=
  scalarOp s [a] fun t =>
    onAccess s t (scalarRead s t (t.g a) 32) fun r =>
      let d0 := BitVec.ofNat 64 r.2
      let d1 := BitVec.ofNat 64 (bits r.2 64 64)
      let desc := descOf d0 d1 (BitVec.ofNat 64 (bits r.2 128 64)) (BitVec.ofNat 64 (bits r.2 192 64))
      match descFault d0 d1 desc with
      | some sub => scalarTrap r.1 t (mkFault 0x0B sub 0 accLoad)
      | none =>
        let e := takeEntry r.1 t.die t.tenant desc
        e.1.update t.tid fun u => (u.setG d e.2).advance 1

/-- Whether some thread holds or awaits tenure on a handle. -/
def tenured (s : State) (h : Dword) : Bool := s.claims.any fun c => c.handle = h

/-- Whether a matrix instruction of any thread is executing or stopped with a handle as an operand (R178). -/
def matrixUses (s : State) (h : Dword) : Bool :=
  s.matq.any fun m => m.begun && (m.op = .mma || m.op = .mmai || m.op = .mmag) && (m.a = h || m.b = h)

/-- THFREE (R178). -/
def execThfree (a : BitVec 7) (s : State) : Result :=
  scalarOp s [a] fun t =>
    afterQueues s t fun s t =>
      if matrixUses s (t.g a) then s
      else
        onHandle s t (t.g a) fun k =>
          if tenured s (t.g a) then scalarTrap s t (mkFault 0x10 0x01 0 accLoad)
          else (freeEntry s k).setThread (t.advance 1)

/-! ### Tenure (R179, R180, R258 to R265) -/

/-- Whether some row of a tile, from a row up to a row, shares a byte with some row of another (R172). -/
def rowsMeet (a : Desc) (as : List Nat) (b : Desc) (bs : List Nat) : Bool :=
  as.any fun i => bs.any fun j => decide (a.rowAddr i < b.rowAddr j + b.rowLen) && decide (b.rowAddr j < a.rowAddr i + a.rowLen)

/-- Whether two tiles' footprints share a byte. -/
def footprintsMeet (a b : Desc) : Bool := rowsMeet a (List.range a.rows) b (List.range b.rows)

/-- The pieces of a tile's footprint, row by row. -/
def footprintPieces (d : Desc) : List (Nat × Nat) :=
  (List.range d.rows).flatMap fun r => pagePieces (d.rowLen / 4096 + 2) (d.rowVa r) d.rowLen

/-- The lowest footprint address on the page of an address, given the page's size. -/
def lowestOnPage (ps : List (Nat × Nat)) (size va : Nat) : Nat :=
  ((ps.filter fun p => p.1 / size = va / size).map (·.1)).foldl min va

/-- Translates the footprint's pages as loads or stores: its pieces, or the fault of the first page that does not translate (R179). -/
def footprint (s : State) (ag : Agent) (acc : BitVec 2) (ps : List (Nat × Nat)) : Res (List (Nat × Trans)) :=
  let find := fun va (_ : Nat) =>
    match translate s ag acc (BitVec.ofNat 64 va) with
    | .fault f =>
      let low := BitVec.ofNat 64 (lowestOnPage ps (pageSizeAt s ag acc va) va)
      Res.fault { f with va := low, addr := low }
    | r => r
  match piecesOf find ps with
  | .fault f => .fault { f with reads := leafReads (piecesDone find ps) ++ f.reads }
  | r => r

/-- The physical ranges of a footprint's pieces. -/
def rangesOf (xs : List (Nat × Trans)) : List (Nat × Nat) := xs.map fun x => (x.2.loc, x.1)

/-- The physical ranges of a footprint, or the fault that its translation ends in. -/
def footprintRanges (s : State) (ag : Agent) (acc : BitVec 2) (ps : List (Nat × Nat)) : Res (List (Nat × Nat)) :=
  (footprint s ag acc ps).bind fun xs => .ok (rangesOf xs)

/-- Whether two claims conflict (R259). -/
def claimsConflict (c d : Claim) : Bool :=
  c.tid != d.tid && (c.write || d.write) && c.ranges.any fun r => d.ranges.any fun q => overlap r.1 r.2 q.1 q.2

/-- The home slices of byte ranges (R258), in ascending order. -/
def slicesOf (s : State) (rs : List (Nat × Nat)) : NatSet :=
  rs.foldl (fun xs r =>
    (List.range (lineOf (r.1 + r.2 - 1) - lineOf r.1 + 1)).foldl (fun xs k => xs.insert (homeSlice s (lineOf r.1 + k))) xs) []

/-- The number with which a claim reached a slice, if it has (R260). -/
def Claim.placedAt (c : Claim) (slice : Nat) : Option Nat := (c.placed.find? fun p => p.1 = slice).map (·.2)

/-- The requests that the package's directories accepted before a thread's request. -/
def acceptedBefore (cs : List Claim) (c : Claim) : List Claim := cs.takeWhile fun d => !(d.tid = c.tid && !d.granted)

/-- Whether the directory of a request does not start it yet: an earlier request that it accepted conflicts and is pending (R260 step 1). -/
def notStarted (cs : List Claim) (c : Claim) : Bool :=
  (acceptedBefore cs c).any fun d => !d.granted && handleDie d.handle = handleDie c.handle && claimsConflict c d

/-- Whether a claim that reached a slice with a number waits there: for a granted claim, or for one that reached the slice earlier and is
pending (R260 step 3). -/
def claimWaits (cs : List Claim) (c : Claim) (slice num : Nat) : Bool :=
  cs.any fun d => claimsConflict c d && (d.placedAt slice).any fun m => d.granted || m < num

/-- Whether a die that has stopped holds up the next move of a request: that of its directory, of its next slice, or for the last move, which
completes its instruction, of its thread (R351). -/
def requestStopped (s : State) (c : Claim) : Bool :=
  s.stoppedDies.mem (handleDie c.handle).toNat || (c.slices.head?.any fun x => s.stoppedDies.mem (x / 64)) ||
    (c.started && c.slices.length ≤ 1 && s.stoppedDies.mem (c.tid.extractLsb' 9 2).toNat)

/-- The next move of a pending request: its directory starts it, it places its claim at the next slice, or it goes on from there. Past the last
slice all its claims become granted (R260). -/
def claimMove (s : State) (c : Claim) : Option Claim :=
  if c.granted || (!c.started && notStarted s.claims c) || requestStopped s c then none
  else if !c.started then some { c with started := true }
  else
    match c.slices with
    | [] => some { c with granted := true }
    | x :: r =>
      match c.placedAt x with
      | none => some { c with placed := c.placed ++ [(x, s.claimSeq)] }
      | some n => if claimWaits s.claims c x n then none else some { c with slices := r, granted := r.isEmpty }

/-- A pending request's moves, as many as can be made but at most n. -/
def claimMoves (s : State) : Nat → Claim → Claim
  | 0, c => c
  | n + 1, c =>
    match claimMove s c with
    | none => c
    | some c1 => claimMoves s n c1

/-- The request of a thread that is not yet granted. -/
def pendingClaim (s : State) (tid : BitVec 32) : Option Claim := s.claims.find? fun c => c.tid = tid && !c.granted

/-- Whether a thread stands at the THACQ that made a request: a waiter that has taken a trap meanwhile stands in its handler (R285, R322). -/
def Claim.waiter (c : Claim) (t : Thread) : Bool := c.tid = t.tid && c.pc = t.pc && c.handler = t.inHandler

/-- A request after its moves takes its place; with the grant copies of its lines are recalled (R264), and the instruction that waits for it
completes (R179). While the waiter runs its handler, the instruction completes when it executes again. -/
def putRequest (s : State) (c : Claim) : State :=
  let here := c.granted && (s.thread? c.tid).any c.waiter
  let d := { c with done := here }
  let s1 := { s with claims := s.claims.map (fun x => if x.tid = c.tid && !x.granted then d else x), claimSeq := s.claimSeq + 1 }
  let s2 := if c.granted then s1.recallLines c.write c.ranges else s1
  if here then s2.update c.tid fun u => u.advance 1 else s2

/-- The request after every move that it can make. -/
def claimRun (s : State) (c : Claim) : Claim := claimMoves s (2 * c.slices.length + 2) c

/-- A thread's pending request goes on as far as it can. -/
def moveRequest (s : State) (tid : BitVec 32) : State :=
  match pendingClaim s tid with
  | none => s
  | some c => if claimRun s c = c then s else putRequest s (claimRun s c)

/-- Every pending request goes on as far as it can, in the order of acceptance, unless the agenda makes their moves one by one. -/
def grantClaims (s : State) : State :=
  if s.deferClaims then s else ((s.claims.filter fun c => !c.granted).map (·.tid)).foldl moveRequest s

/-- One move of a thread's pending request. -/
def stepRequest (s : State) (tid : BitVec 32) : State :=
  match (pendingClaim s tid).bind (claimMove s) with
  | none => s
  | some c => putRequest s c

/-- A handle's place at a slice (R258): its granted or its pending record, with the kind and the number of holders. -/
def claimRecord (s : State) (slice : Nat) (h : Dword) (granted : Bool) : Option (Bool × Nat) :=
  match s.claims.filter fun c => c.handle = h && c.granted = granted && (c.placedAt slice).isSome with
  | [] => none
  | c :: r => some (c.write, r.length + 1)

/-- Whether a request conflicts with a tenure that the thread holds on another handle (R176). -/
def ownConflict (s : State) (t : Thread) (k : Tile) (write : Bool) : Bool :=
  s.claims.any fun c => c.tid = t.tid && (write || c.write) &&
    match tileAt s c.handle with
    | some o => footprintsMeet k.desc o.desc
    | none => false

/-- The request that a thread's THACQ makes for a handle with some ranges (R179, R258). -/
def requestOf (s : State) (t : Thread) (h : Dword) (write : Bool) (rs : List (Nat × Nat)) : Claim :=
  { handle := h, tid := t.tid, write := write, granted := false, ranges := rs, started := false, slices := slicesOf s rs, placed := [],
    pc := t.pc, handler := t.inHandler, done := false }

/-- A THACQ whose request was granted while its thread ran its handler completes. -/
def completeAcquire (s : State) (t : Thread) (c : Claim) : State :=
  { s with claims := s.claims.map fun x => if x = c then { c with done := true } else x }.setThread (t.advance 1)

/-- THACQR and THACQW: a request waits until it is granted (R179); its walks leave the marks of their reads. -/
def acquireOp (write : Bool) (a : BitVec 7) (s : State) : Result :=
  scalarOp s [a] fun t =>
    let h := t.g a
    let acc := if write then accStore else accLoad
    match s.claims.find? fun c => c.granted && !c.done && c.waiter t && c.handle = h && c.write = write with
    | some c => completeAcquire s t c
    | none =>
      if s.claims.any fun c => c.tid = t.tid && !c.granted then grantClaims s
      else
        onHandle s t h fun k =>
          if s.claims.any fun c => c.tid = t.tid && c.handle = h then scalarTrap s t (mkFault 0x0F 0x01 0 accLoad)
          else if ownConflict s t k write then scalarTrap s t (mkFault 0x0F 0x02 0 accLoad)
          else
            onAccess s t (footprint s t.agent acc (footprintPieces k.desc)) fun xs =>
              grantClaims { s.noteReads (leafReads (xs.map (·.2))) with claims := s.claims ++ [requestOf s t h write (rangesOf xs)] }

/-- THACQR (R179). -/
def execThacqr (a : BitVec 7) (s : State) : Result := acquireOp false a s

/-- THACQW (R179). -/
def execThacqw (a : BitVec 7) (s : State) : Result := acquireOp true a s

/-- THREL (R180, R265). -/
def execThrel (a : BitVec 7) (s : State) : Result :=
  scalarOp s [a] fun t =>
    afterAll s t fun s t =>
      onHandle s t (t.g a) fun _ =>
        if s.claims.any fun c => c.tid = t.tid && c.handle = t.g a && c.granted then
          let mine := s.claims.filter fun c => c.tid = t.tid && c.handle = t.g a
          grantClaims ({ s.leaveTileMode t.core (mine.flatMap Claim.ranges) with
            claims := s.claims.filter fun c => !(c.tid = t.tid && c.handle = t.g a) }.setThread (t.advance 1))
        else scalarTrap s t (mkFault 0x0F 0x03 0 accLoad)

/-! ### Splitting (R181, R266) -/

/-- The two halves of a tile cut at row s, or none where the cut makes no tile. -/
def splitDesc (d : Desc) (row : Nat) : Option (Desc × Desc) :=
  if d.rows1.toNat = 0 then
    some ({ d with rows0 := BitVec.ofNat 16 (row - 1) },
      { d with base := BitVec.ofInt 57 (d.base.toNat + row * d.stride0.toInt), rows0 := BitVec.ofNat 16 (d.r0 - row - 1) })
  else if row % d.r0 = 0 then
    let n := row / d.r0
    some ({ d with rows1 := BitVec.ofNat 16 (n - 1) },
      { d with base := BitVec.ofInt 57 (d.base.toNat + n * d.stride1.toInt), rows1 := BitVec.ofNat 16 (d.r1 - n - 1) })
  else none

/-- The ranges of the rows that cover n bytes, and of the others. -/
def splitRanges : Nat → List (Nat × Nat) → List (Nat × Nat) × List (Nat × Nat)
  | _, [] => ([], [])
  | n, p :: r => if n = 0 then ([], p :: r) else let x := splitRanges (n - p.2) r; (p :: x.1, x.2)

/-- A granted claim narrowed to some of its ranges: it stands at their slices only. -/
def Claim.narrow (s : State) (c : Claim) (rs : List (Nat × Nat)) : Claim :=
  let xs := slicesOf s rs
  { c with ranges := rs, placed := c.placed.filter fun p => xs.mem p.1 }

/-- Replaces a handle's claims by claims of the two halves (R266). -/
def splitClaims (s : State) (h new : Dword) (n : Nat) : List Claim :=
  s.claims.flatMap fun c =>
    if c.handle = h then
      let x := splitRanges n c.ranges
      [c.narrow s x.1, { c.narrow s x.2 with handle := new }]
    else [c]

/-- The split itself: the original keeps its entry, the new half takes one. -/
def splitTile (s : State) (t : Thread) (d : BitVec 7) (h : Dword) (k : Tile) (row slots : Nat) (lo hi : Desc) : State :=
  let e := takeEntry s k.die t.tenant hi
  if e.2 = 0 then s.setThread ((t.setG d 0).advance slots)
  else
    let tiles := e.1.tiles.map fun x : Tile => if x.die = k.die && x.index = k.index then { x with desc := lo } else x
    { e.1 with tiles := tiles, claims := splitClaims e.1 h e.2 (row * k.desc.rowLen) }.setThread ((t.setG d e.2).advance slots)

/-- THSPLIT (R181). -/
def execThsplit (d a : BitVec 7) (b : Src) (s : State) : Result :=
  scalarOp s (a :: b.reads) fun t =>
    afterQueues s t fun s t =>
      onHandle s t (t.g a) fun k =>
        let row := (t.src b).toNat
        if row = 0 || k.desc.rows ≤ row then scalarTrap s t (mkFault 0x0D 0x01 0 accLoad)
        else if s.claims.any fun c => c.handle = t.g a && c.tid != t.tid then scalarTrap s t (mkFault 0x10 0x02 0 accLoad)
        else
          match splitDesc k.desc row with
          | none => scalarTrap s t (mkFault 0x0B 0x06 0 accLoad)
          | some (lo, hi) =>
            if footprintsMeet lo hi then scalarTrap s t (mkFault 0x0B 0x07 0 accLoad)
            else splitTile s t d (t.g a) k row b.slots lo hi

/-- The issuing thread's tenure on a handle (R182). -/
def mineOf (s : State) (t : Thread) (h : Dword) : BitVec 2 :=
  match s.claims.find? fun c => c.tid = t.tid && c.handle = h with
  | none => 0
  | some c => if !c.granted then 3 else if c.write then 2 else 1

/-- THINFO (R182). -/
def execThinfo (d a : BitVec 7) (s : State) : Result :=
  writeOp s [a] d 1 fun t =>
    match checkHandle s t.tenant (t.g a) with
    | .error _ => 0
    | .ok k => mineOf s t (t.g a) ++ (0 : BitVec 6) ++ k.desc.fmt ++ k.desc.rlen16 ++ BitVec.ofNat 32 k.desc.rows

/-! ### Accumulator ownership (R28, R29, R183, R184) -/

/-- Stores a pre-empted owner's tile in its image and zeroes the tile (R29, R183). -/
def saveTile (s : State) (owner : Thread) (key : Nat) : State :=
  let base := tileImage owner (key % 2)
  let cells := Sparse.range s.acc (key * 262144) 262144
  let s1 := s.zeroRange base 262144
  let bad := (List.range 128).filter fun r => s.accPoison.mem (key * 128 + r)
  { s1 with
    mem := cells.foldl (fun m c => Memory.write m (base + (c.1 - key * 262144)) c.2) s1.mem
    poison := (bad.flatMap fun r => (List.range 128).map fun j => (base + r * 2048) / 16 + j).foldl NatSet.insert s1.poison
    acc := Sparse.clear s.acc (key * 262144) 262144
    accPoison := s.accPoison.clear (key * 128) 128
    accSaved := s.accSaved ++ [(owner.tid, key)] }

/-- The first thread in a tile's FIFO that runs on the core. One that has left its wait by a trap keeps its place; R183 and R285 speak of neither
(log 42). -/
def firstWaiter (s : State) (key : Nat) : Option (BitVec 32) :=
  ((s.macqWait.filter fun w => w.1 = key).map (·.2)).find? fun tid => (s.thread? tid).any fun u => !u.parked

/-- The issuer becomes the owner and leaves the FIFO. -/
def takeTile (s : State) (t : Thread) (key : Nat) : State :=
  { s with
    accOwner := Sparse.set 0 s.accOwner key (t.tid.toNat + 1)
    macqWait := s.macqWait.filter fun w => !(w.1 = key && w.2 = t.tid) }.setThread (t.advance 1)

/-- Joins a tile's FIFO, once. -/
def joinTile (s : State) (t : Thread) (key : Nat) : State :=
  if s.macqWait.any fun w => w.1 = key && w.2 = t.tid then s else { s with macqWait := s.macqWait ++ [(key, t.tid)] }

/-- MACQ (R183). -/
def execMacq (d : BitVec 7) (s : State) : Result :=
  scalarOp s [] fun t =>
    let z := d.extractLsb' 0 1
    let key := t.tileKey z
    let s := restoreTile s t z
    let owner := Sparse.get 0 s.accOwner key
    if owner = t.tid.toNat + 1 then s.setThread (t.advance 1)
    else if tileDisplaced s t z then s
    else if owner = 0 then
      (if (firstWaiter s key).all fun w => w = t.tid then takeTile s t key else joinTile s t key)
    else
      match s.threads.find? fun u => u.tid.toNat + 1 = owner with
      | none => joinTile s t key
      | some u =>
        if u.parked && (firstWaiter s key).all (fun w => w = t.tid) && !rangeHeld s true (tileImage u (key % 2)) 0x40000 then
          takeTile (saveTile s u key) t key
        else joinTile s t key

/-- Whether a queued instruction of the thread names tile za(z). In a handler the entries that the snapshot holds, and the matrix entries that
R374 sets apart, do not count: the manual does not say that MRELZ waits for them (log 29). -/
def namesTile (s : State) (t : Thread) (z : BitVec 1) : Bool :=
  (t.vq.any fun e => e.op.tile = some z) || (pendingMatrix s t).any fun m => m.z = z

/-- MRELZ (R184): after every older instruction on the tile. -/
def execMrelz (d : BitVec 7) (s : State) : Result :=
  scalarOp s [] fun t =>
    let z := d.extractLsb' 0 1
    if !ownsTile s t z then scalarTrap s t (mkFault 0x0A 0 0 accLoad)
    else
      match drainVector s t with
      | (s1, .trapped) => s1
      | (s1, _) =>
        let s2 := drainMatrix s1 t.tid
        match s2.thread? t.tid with
        | none => s2
        | some u =>
          let s3 := restoreTile s2 u z
          if namesTile s3 u z || tileDisplaced s3 u z then s3
          else (freeTile s3 (u.tileKey z)).update t.tid fun u => u.advance 1

end Sys2Proof.Machine
end

