-- ==== Sys2Proof/Machine/Csr.lean ====
section
/-! DEFINITION. Control and status registers, the vector length, windows and the lane table (R8 to R16, R22, R23, R30 to R32, R121 to
R124, R287, R329). -/

namespace Sys2Proof.Machine

/-! ### The registers as doublewords -/

/-- CYC of a core (R31). -/
def cycOf (s : State) (core : Nat) : Dword := BitVec.ofNat 64 (s.cyc.getD core 0)

/-- THREAD (R8). -/
def Thread.threadCsr (t : Thread) : Dword := (t.tid.extractLsb' 0 11).setWidth 64

/-- CREW (R8). -/
def Thread.crewCsr (t : Thread) : Dword := (t.crewIndex ++ t.sizeM1 ++ t.member).setWidth 64

/-- GANG (R8). -/
def Thread.gangCsr (t : Thread) : Dword := (t.gang ++ (0 : BitVec 9) ++ t.tgpos ++ BitVec.ofBool t.tileg ++ t.ncrewM1).setWidth 64

/-- TASK (R8). -/
def Thread.taskCsr (t : Thread) : Dword := t.taskSeq ++ t.gangIdx ++ (0 : BitVec 6) ++ t.queue

/-- TENANT (R8). -/
def Thread.tenantCsr (t : Thread) : Dword := (BitVec.ofBool t.sup ++ t.prio ++ t.tenant).setWidth 64

/-- VCP: the number of uncommitted instructions, those that a handler's snapshot holds included, and the address of the oldest, or of the
last committed one (R18, R19); the number is at most 64 (log 79). -/
def Thread.vcp (t : Thread) : Dword :=
  let queued := (match t.snapshot with | some c => c.vq | none => []) ++ t.vq
  BitVec.ofNat 7 (min queued.length 64) ++ (match queued with | e :: _ => e.addr | [] => t.vcpAddr)

/-- MROW: the program-order value, or the row at which a stopped entry resumes (R30). -/
def mrowOf (s : State) (t : Thread) : BitVec 8 :=
  match matrixOf s t.tid with
  | m :: _ => if m.stopped.isSome then m.row else t.mrow
  | [] => t.mrow

/-- The value of a CSR, or none for a number that no CSR has at the thread's level (R11, R323). -/
def csrValue (s : State) (t : Thread) (csr : BitVec 14) : Option Dword :=
  match csr.toNat with
  | 0x00 => some (t.vl.setWidth 64)
  | 0x01 => some (t.vtype.setWidth 64)
  | 0x02 => some (t.vstart.setWidth 64)
  | 0x03 => some t.vcp
  | 0x04 => some (t.grant.setWidth 64)
  | 0x05 => some (t.fcsr.setWidth 64)
  | 0x06 => some (t.xcls.setWidth 64)
  | 0x10 => some (t.mshape.setWidth 64)
  | 0x11 => some ((mrowOf s t).setWidth 64)
  | 0x12 => some (t.mkoff.setWidth 64)
  | 0x20 => some (t.swb.setWidth 64)
  | 0x21 => some (t.vwb.setWidth 64)
  | 0x30 => some t.threadCsr
  | 0x31 => some t.crewCsr
  | 0x32 => some t.gangCsr
  | 0x33 => some t.taskCsr
  | 0x34 => some t.tenantCsr
  | 0x40 => some (cycOf s t.core)
  | 0x50 => some t.trap.cause
  | 0x51 => some (t.trap.pc.setWidth 64)
  | 0x52 => some t.trap.addr
  | 0x53 => some (t.trap.elem.setWidth 64)
  | 0x54 => some (t.trapVec.setWidth 64)
  | 0x55 => some (t.trap.save.setWidth 64)
  | 0x100 => if t.sup then some t.atp else none
  | 0x101 => if t.sup then some (s.mreg 0 (offTq t.tenant)) else none
  | _ => none

/-- The RW bits of a CSR that a CSR instruction may write at the thread's level, or none (R10, R11, R32, R323). -/
def csrMask (t : Thread) (csr : BitVec 14) : Option Dword :=
  match csr.toNat with
  | 0x01 => some 0x3FFF
  | 0x02 => some 0xFFFF
  | 0x05 => some 0x7F
  | 0x06 => some 0xF
  | 0x10 => some 0x3FF00FF
  | 0x11 => some 0xFF
  | 0x12 => some 0xFFFFFFC0
  | 0x20 => some 0x1FF
  | 0x21 => some 0xFF
  | 0x54 => some 0x01FFFFFFFFFFFF80
  | 0x55 => some 0x01FFFFFFFFFFFFFF
  | 0x101 => if t.sup then some 0x01FFFFFFFFFFF00F else none
  | _ => none

/-- Whether a new value lies within the limits of a CSR's fields (R11, R13, R21 to R23, R30, R329). -/
def csrLegal (s : State) (t : Thread) (csr : BitVec 14) (v : Dword) : Bool :=
  match csr.toNat with
  | 0x01 => vtLegal (v.extractLsb' 0 14)
  | 0x06 => field v 0 3 != 7
  | 0x10 => 1 ≤ field v 0 8 && field v 0 8 ≤ 128 && 1 ≤ field v 16 10 && field v 16 10 ≤ 512 && (mrowOf s t).toNat < field v 0 8
  | 0x11 => field v 0 8 < shapeM t.mshape
  | 0x20 => field v 0 9 % 8 = 0 && field v 0 9 ≤ 384
  | 0x21 => field v 0 8 % 8 = 0 && field v 0 8 ≤ 128
  | 0x101 => 2 ≤ field v 0 4 && field v 0 4 ≤ 12
  | _ => true

/-- Whether an access of a tenant is in replay-wait. -/
def tenantReplays (s : State) (tenant : BitVec 4) : Bool :=
  (s.threads.any fun t => t.tenant = tenant && t.replay.isSome) || (s.commands.any fun c => c.tenant = tenant && c.replay.isSome)

/-- A write to TQCFG: refused while records or replay-waits are outstanding, and for LOGN outside 2 to 12 (R329). -/
def writeTqcfg (s : State) (tenant : BitVec 4) (v : Dword) : State :=
  if tqUsed s tenant != 0 || tenantReplays s tenant || field v 0 4 < 2 || 12 < field v 0 4 then s
  else s.setMreg 0 (offTq tenant) (v &&& 0x01FFFFFFFFFFF00F)

/-- A VTYPE write also shortens VL to a smaller VLMAX; instructions pushed later capture a new VL (R14, R149). -/
def Thread.setVtype (t : Thread) (vt : BitVec 14) : Thread :=
  { t with
    vtype := vt
    vl := if vlMax t.grant.toNat vt < t.vl.toNat then BitVec.ofNat 17 (vlMax t.grant.toNat vt) else t.vl
    epoch := t.epoch + 1 }

/-- Stores a legal value in a CSR of the thread. -/
def Thread.setCsr (t : Thread) (csr : BitVec 14) (v : Dword) : Thread :=
  match csr.toNat with
  | 0x01 => t.setVtype (v.extractLsb' 0 14)
  | 0x02 => { t with vstart := v.extractLsb' 0 16 }
  | 0x05 => { t with fcsr := v.extractLsb' 0 7 }
  | 0x06 => { t with xcls := v.extractLsb' 0 4 }
  | 0x10 => { t with mshape := v.extractLsb' 0 26 }
  | 0x11 => { t with mrow := v.extractLsb' 0 8 }
  | 0x12 => { t with mkoff := v.extractLsb' 0 32 }
  | 0x20 => { t with swb := v.extractLsb' 0 9 }
  | 0x21 => { t with vwb := v.extractLsb' 0 8 }
  | 0x54 => { t with trapVec := v.extractLsb' 0 57 }
  | 0x55 => { t with trap := { t.trap with save := v.extractLsb' 0 57 } }
  | _ => t

/-- Stores a legal value: MROW of a stopped matrix entry changes that entry's row (R30). -/
def writeCsr (s : State) (t : Thread) (csr : BitVec 14) (v : Dword) : State :=
  if csr.toNat = 0x101 then writeTqcfg s t.tenant v
  else if csr.toNat = 0x11 && ((matrixOf s t.tid).head?.any fun m => m.stopped.isSome) then
    setMatrixHead s t.tid fun m => some { m with row := v.extractLsb' 0 8 }
  else s.update t.tid fun u => u.setCsr csr v

/-! ### Access (R122) -/

/-- After every older matrix instruction of the thread has completed or stopped (R122). -/
def afterMatrixStopped (s : State) (t : Thread) (k : State → Thread → State) : State :=
  let s1 := drainMatrix s t.tid
  match s1.thread? t.tid with
  | none => s1
  | some u => if ((matrixOf s1 t.tid).takeWhile fun m => m.stopped.isNone).isEmpty then k s1 u else s1

/-- What a read of a CSR waits for (R19, R122). -/
def beforeCsrRead (s : State) (t : Thread) (csr : BitVec 14) (k : State → Thread → State) : State :=
  match csr.toNat with
  | 0x00 | 0x02 | 0x05 => afterVector s t k
  | 0x10 | 0x11 | 0x12 => afterMatrixStopped s t k
  | _ => k s t

/-- What a write of a CSR waits for (R122). -/
def beforeCsrWrite (s : State) (t : Thread) (csr : BitVec 14) (k : State → Thread → State) : State :=
  match csr.toNat with
  | 0x02 | 0x05 => afterVector s t k
  | _ => k s t

/-- CSRR (R122): the register's value in g(d); refused with subcause 0x06. -/
def execCsrr (d : BitVec 7) (csr : BitVec 14) (s : State) : Result :=
  scalarOp s [] fun t =>
    match csrValue s t csr with
    | none => illegal s t 0x06
    | some _ => beforeCsrRead s t csr fun s t =>
        s.setThread ((t.setG d ((csrValue s t csr).getD 0)).advance 1)

/-- A CSR write instruction (R122): `f` makes the new RW bits of the old value and the operand. -/
def csrWriteOp (csr : BitVec 14) (b : Src) (s : State) (f : Dword → Dword → Dword) : Result :=
  scalarOp s b.reads fun t =>
    match csrMask t csr with
    | none => illegal s t 0x06
    | some mask =>
      beforeCsrWrite s t csr fun s t =>
        let old := (csrValue s t csr).getD 0
        let new := (old &&& ~~~mask) ||| (f old (t.src b) &&& mask)
        if csrLegal s t csr new then (writeCsr s t csr new).update t.tid fun u => u.advance b.slots
        else illegal s t 0x04

/-- CSRW (R122). -/
def execCsrw (csr : BitVec 14) (b : Src) (s : State) : Result := csrWriteOp csr b s fun _ v => v

/-- CSRS (R122). -/
def execCsrs (csr : BitVec 14) (b : Src) (s : State) : Result := csrWriteOp csr b s fun old v => old ||| v

/-- CSRC (R122). -/
def execCsrc (csr : BitVec 14) (b : Src) (s : State) : Result := csrWriteOp csr b s fun old v => old &&& ~~~v

/-! ### Lane allocation and the vector length (R121, R287) -/

/-- The threads that hold slots of a core. -/
def coreThreads (s : State) (core : Nat) : List Thread := s.threads.filter fun t => t.core = core && !t.parked

/-- Lane groups of a core that are not disabled (R335). -/
def enabledLanes (s : State) (core : Nat) : BitVec 64 := ~~~ s.mreg (coreDie core) (offLane (core % 64))

/-- The members of a set of lane groups. -/
def lanesOf (m : BitVec 64) : List Nat := (List.range 64).filter fun i => m.getLsbD i

def enabledGroups (s : State) (core : Nat) : Nat := (lanesOf (enabledLanes s core)).length

/-- The groups that a list of threads hold. -/
def heldLanes (ts : List Thread) : BitVec 64 := ts.foldl (fun m t => m ||| t.lanes) 0

/-- The lowest n groups of a set; which of the free ones a thread gets the manual leaves open (log 78). -/
def pickLanes (free : BitVec 64) (n : Nat) : BitVec 64 :=
  ((lanesOf free).take n).foldl (fun m i => m ||| (1 : BitVec 64) <<< i) 0

/-- Lane groups of a core that no thread holds. -/
def freeGroups (s : State) (core : Nat) : Nat := (lanesOf (~~~ heldLanes (coreThreads s core))).length

/-- The groups that a thread may be granted: the enabled ones that no other thread of its core holds (R335). -/
def grantableLanes (s : State) (t : Thread) : BitVec 64 :=
  enabledLanes s t.core &&& ~~~ heldLanes ((coreThreads s t.core).filter fun u => u.tid != t.tid)

/-- The entitlements of R287: each round serves the requests that fit their equal share; when none does, the shares are final.
Entries are slot and request in ascending slot order. -/
def entitle (pool : Nat) : Nat → List (Nat × Nat) → List (Nat × Nat)
  | 0, _ => []
  | _, [] => []
  | fuel + 1, open_ =>
    let n := open_.length
    let q := pool / n
    let extra := pool - q * n
    let shared := (open_.zip (List.range n)).map fun (u, k) => (u, if k < extra then q + 1 else q)
    let small := shared.filter fun x => x.1.2 ≤ x.2
    if small.isEmpty then shared.map fun x => (x.1.1, x.2)
    else
      small.map (·.1) ++
        entitle (pool - (small.map fun x => x.1.2).sum) fuel ((shared.filter fun x => x.2 < x.1.2).map (·.1))

/-- Inserts a request in ascending slot order. -/
def insertReq (x : Nat × Nat) : List (Nat × Nat) → List (Nat × Nat)
  | [] => [x]
  | y :: r => if x.1 < y.1 then x :: y :: r else y :: insertReq x r

/-- Allocate (R287): what a thread is granted when it wants some lane groups. -/
def allocate (s : State) (t : Thread) (want : Nat) : Nat :=
  let others := (coreThreads s t.core).filter fun u => u.tid != t.tid
  let reqs := (others.filterMap fun u => if 0 < u.latReq.toNat then some (u.slot.toNat, u.latReq.toNat) else none)
  let open_ := (if 0 < want then [(t.slot.toNat, want)] else []) ++ reqs
  let sorted := open_.foldr insertReq []
  let pool := enabledGroups s t.core
  let ents := if (sorted.map (·.2)).sum ≤ pool then sorted else entitle pool 9 sorted
  let ent := match ents.find? fun x => x.1 = t.slot.toNat with
    | some x => x.2
    | none => 0
  min ent (lanesOf (grantableLanes s t)).length

/-- Sets grant, VTYPE, VL and VSTART (R121). While older vector instructions are queued VSTART is the oldest one's; the last to
commit leaves it 0 (R16). -/
def Thread.setLength (t : Thread) (vt : BitVec 14) (free : BitVec 64) (granted req : Nat) : Thread :=
  { t with
    grant := BitVec.ofNat 7 granted
    lanes := pickLanes free granted
    vtype := vt
    vl := BitVec.ofNat 17 (min req (vlMax granted vt))
    vstart := if t.vq.isEmpty then 0 else t.vstart
    epoch := t.epoch + 1 }

/-- SETVL and SETVLMAX (R121): a changed grant waits for older vector instructions; a wanted grant of 0 waits for a free group. -/
def setLengthOp (s : State) (t : Thread) (d : BitVec 7) (vt : Dword) (req slots : Nat) : State :=
  let v := vt.extractLsb' 0 14
  if field vt 14 50 != 0 || !vtLegal v then illegal s t 0x05
  else
    let want := min 64 (ceilDiv req (vlMax 1 v))
    let s1 := s.update t.tid fun u => { u with latReq := BitVec.ofNat 7 want }
    let granted := allocate s1 t want
    if 0 < want && granted = 0 then s1
    else
      let finish := fun (s : State) (u : Thread) =>
        let w := u.setLength v (grantableLanes s u) granted req
        s.setThread ((w.setG d (w.vl.setWidth 64)).advance slots)
      if granted != t.grant.toNat then
        match s1.thread? t.tid with
        | none => s1
        | some u => afterVector s1 u finish
      else
        match s1.thread? t.tid with
        | none => s1
        | some u => finish s1 u

/-- SETVL (R121). -/
def execSetvl (d a : BitVec 7) (b : Src) (s : State) : Result :=
  scalarOp s (a :: b.reads) fun t => setLengthOp s t d (t.src b) (t.g a).toNat b.slots

/-- SETVLMAX (R121): a request of 65,536 elements. -/
def execSetvlmax (d : BitVec 7) (b : Src) (s : State) : Result :=
  scalarOp s b.reads fun t => setLengthOp s t d (t.src b) 65536 b.slots

/-! ### Windows and the lane table (R123, R124) -/

/-- Whether a window base is legal: a multiple of 8 from 0 to a limit. -/
def baseLegal (base : Int) (limit : Int) : Bool := decide (0 ≤ base) && decide (base ≤ limit) && base % 8 = 0

/-- WINSG (R123): moves the scalar window; the displacement is read through the old one. -/
def execWinsg (b : Src) (s : State) : Result :=
  scalarOp s b.reads fun t =>
    let base : Int := t.swb.toNat + (t.src b).toInt
    if baseLegal base 384 then s.setThread ({ t with swb := BitVec.ofInt 9 base }.advance b.slots) else illegal s t 0x12

/-- WINSV (R123): moves the vector window for instructions pushed later. -/
def execWinsv (b : Src) (s : State) : Result :=
  scalarOp s b.reads fun t =>
    let base : Int := t.vwb.toNat + (t.src b).toInt
    if baseLegal base 128 then s.setThread ({ t with vwb := BitVec.ofInt 8 base }.advance b.slots) else illegal s t 0x12

/-- The lane table as LAT reports it for a slot (R124). -/
def laneTable (s : State) (t : Thread) (slot : BitVec 3) : Dword :=
  let free := BitVec.ofNat 7 (freeGroups s t.core)
  match (coreThreads s t.core).find? fun u => u.slot = slot && u.tenant = t.tenant with
  | none => (free ++ (0 : BitVec 16)).setWidth 64
  | some u => (free ++ (1 : BitVec 1) ++ u.latReq ++ (0 : BitVec 1) ++ u.grant).setWidth 64

/-- LAT (R124). -/
def execLat (d a : BitVec 7) (s : State) : Result :=
  writeOp s [a] d 1 fun t => laneTable s t ((t.g a).extractLsb' 0 3)

end Sys2Proof.Machine
end

