-- ==== Sys2Proof/Machine/VectorOps.lean ====
section
/-! DEFINITION. The operation of a queued vector instruction and its M bit, as its push gives them: by it a saved queue entry is read back from its
instruction words (R20, R33, R34). -/

namespace Sys2Proof.Machine

/-- What a vector instruction does once it is queued; none of any other instruction, and of a VBFLYC, whose pair is not saved whole (log 85). -/
def vectorPart (i : Instr) : Option (VOp × Bool) :=
  match i with
  | .vaddVV d a b m => some (.int .add d a (.vec b), m)
  | .vaddVG d a _ m => some (.int .add d a .scalar, m)
  | .vsubVV d a b m => some (.int .sub d a (.vec b), m)
  | .vsubVG d a _ m => some (.int .sub d a .scalar, m)
  | .vmulVV d a b m => some (.int .mul d a (.vec b), m)
  | .vmulVG d a _ m => some (.int .mul d a .scalar, m)
  | .vmulhVV d a b m => some (.int .mulh d a (.vec b), m)
  | .vmulhVG d a _ m => some (.int .mulh d a .scalar, m)
  | .vmaccVV d a b m => some (.int .macc d a (.vec b), m)
  | .vmaccVG d a _ m => some (.int .macc d a .scalar, m)
  | .vandVV d a b m => some (.int .and d a (.vec b), m)
  | .vandVG d a _ m => some (.int .and d a .scalar, m)
  | .vorVV d a b m => some (.int .or d a (.vec b), m)
  | .vorVG d a _ m => some (.int .or d a .scalar, m)
  | .vxorVV d a b m => some (.int .xor d a (.vec b), m)
  | .vxorVG d a _ m => some (.int .xor d a .scalar, m)
  | .vsllVV d a b m => some (.int .sll d a (.vec b), m)
  | .vsllVG d a _ m => some (.int .sll d a .scalar, m)
  | .vsrlVV d a b m => some (.int .srl d a (.vec b), m)
  | .vsrlVG d a _ m => some (.int .srl d a .scalar, m)
  | .vsraVV d a b m => some (.int .sra d a (.vec b), m)
  | .vsraVG d a _ m => some (.int .sra d a .scalar, m)
  | .vminVV d a b m => some (.int .min d a (.vec b), m)
  | .vminVG d a _ m => some (.int .min d a .scalar, m)
  | .vmaxVV d a b m => some (.int .max d a (.vec b), m)
  | .vmaxVG d a _ m => some (.int .max d a .scalar, m)
  | .vminnVV d a b m => some (.int .minn d a (.vec b), m)
  | .vminnVG d a _ m => some (.int .minn d a .scalar, m)
  | .vmaxnVV d a b m => some (.int .maxn d a (.vec b), m)
  | .vmaxnVG d a _ m => some (.int .maxn d a .scalar, m)
  | .vsaddVV d a b m => some (.int .sadd d a (.vec b), m)
  | .vsaddVG d a _ m => some (.int .sadd d a .scalar, m)
  | .vssubVV d a b m => some (.int .ssub d a (.vec b), m)
  | .vssubVG d a _ m => some (.int .ssub d a .scalar, m)
  | .vseqVV d a b m => some (.intCmp .eq d a (.vec b), m)
  | .vseqVG d a _ m => some (.intCmp .eq d a .scalar, m)
  | .vsneVV d a b m => some (.intCmp .ne d a (.vec b), m)
  | .vsneVG d a _ m => some (.intCmp .ne d a .scalar, m)
  | .vsltVV d a b m => some (.intCmp .lt d a (.vec b), m)
  | .vsltVG d a _ m => some (.intCmp .lt d a .scalar, m)
  | .vsltnVV d a b m => some (.intCmp .ltn d a (.vec b), m)
  | .vsltnVG d a _ m => some (.intCmp .ltn d a .scalar, m)
  | .vmergeVV d a b m => some (.merge d a (.vec b), m)
  | .vmergeVG d a _ m => some (.merge d a .scalar, m)
  | .vmvVV d b m => some (.move d (.vec b) false, m)
  | .vmvVG d _ m => some (.move d .scalar false, m)
  | .vmvVVInverted d b => some (.move d (.vec b) true, true)
  | .vmvVGInverted d _ => some (.move d .scalar true, true)
  | .vfaddVV d a b m => some (.fp .add d a (.vec b), m)
  | .vfaddVG d a _ m => some (.fp .add d a .scalar, m)
  | .vfsubVV d a b m => some (.fp .sub d a (.vec b), m)
  | .vfsubVG d a _ m => some (.fp .sub d a .scalar, m)
  | .vfmulVV d a b m => some (.fp .mul d a (.vec b), m)
  | .vfmulVG d a _ m => some (.fp .mul d a .scalar, m)
  | .vfmaVV d a b m => some (.fp .fma d a (.vec b), m)
  | .vfmaVG d a _ m => some (.fp .fma d a .scalar, m)
  | .vfnmsVV d a b m => some (.fp .fnms d a (.vec b), m)
  | .vfnmsVG d a _ m => some (.fp .fnms d a .scalar, m)
  | .vfminVV d a b m => some (.fp .min d a (.vec b), m)
  | .vfminVG d a _ m => some (.fp .min d a .scalar, m)
  | .vfmaxVV d a b m => some (.fp .max d a (.vec b), m)
  | .vfmaxVG d a _ m => some (.fp .max d a .scalar, m)
  | .vfdivVV d a b m => some (.fp .div d a (.vec b), m)
  | .vfdivVG d a _ m => some (.fp .div d a .scalar, m)
  | .vfsgnjVV d a b m => some (.fp .sgnj d a (.vec b), m)
  | .vfsgnjVG d a _ m => some (.fp .sgnj d a .scalar, m)
  | .vfsgnnVV d a b m => some (.fp .sgnn d a (.vec b), m)
  | .vfsgnnVG d a _ m => some (.fp .sgnn d a .scalar, m)
  | .vfsgnxVV d a b m => some (.fp .sgnx d a (.vec b), m)
  | .vfsgnxVG d a _ m => some (.fp .sgnx d a .scalar, m)
  | .vfeqVV d a b m => some (.fpCmp .eq d a (.vec b), m)
  | .vfeqVG d a _ m => some (.fpCmp .eq d a .scalar, m)
  | .vfltVV d a b m => some (.fpCmp .lt d a (.vec b), m)
  | .vfltVG d a _ m => some (.fpCmp .lt d a .scalar, m)
  | .vfleVV d a b m => some (.fpCmp .le d a (.vec b), m)
  | .vfleVG d a _ m => some (.fpCmp .le d a .scalar, m)
  | .vfsqrt d a m => some (.fpUn .sqrt d a, m)
  | .vfrsqrte d a m => some (.fpUn .rsqrte d a, m)
  | .vfrece d a m => some (.fpUn .rece d a, m)
  | .vfclass d a m => some (.fpUn .cls d a, m)
  | .vfcvtif d a m => some (.fpUn .cvtif d a, m)
  | .vfcvtfi d a m => some (.fpUn .cvtfi d a, m)
  | .vfcvtw d a m => some (.fpUn .cvtw d a, m)
  | .vcvtb d a m => some (.toBlocks d a, m)
  | .vcvtx d a m => some (.widen d a, m)
  | .vbfly d a _ m => some (.butterfly d a, m)
  | .vperm d a b m => some (.perm .perm d a b, m)
  | .vslup d a _ m => some (.perm .slup d a 0, m)
  | .vsldn d a _ m => some (.perm .sldn d a 0, m)
  | .vcomp d a m => some (.perm .comp d a 0, m)
  | .vexpd d a m => some (.perm .expd d a 0, m)
  | .viota d a m => some (.perm .iota d a 0, m)
  | .vid d m => some (.perm .id d 0 0, m)
  | .vredsum d a m => some (.reduce .sum d a, m)
  | .vredmax d a m => some (.reduce .max d a, m)
  | .vredmin d a m => some (.reduce .min d a, m)
  | .vfredsum d a m => some (.reduce .fsum d a, m)
  | .vfredmax d a m => some (.reduce .fmax d a, m)
  | .vsegsum d a b m => some (.segment false d a b, m)
  | .vsegscan d a b m => some (.segment true d a b, m)
  | .vcswi d a b m => some (.swap d a b, m)
  | .mand d a b => some (.maskLogic .and d a b, false)
  | .mor d a b => some (.maskLogic .or d a b, false)
  | .mxor d a b => some (.maskLogic .xor d a b, false)
  | .mandn d a b => some (.maskLogic .andn d a b, false)
  | .mnot d a => some (.maskLogic .not d a a, false)
  | .mtov d a m => some (.maskToVec d a, m)
  | .mfrv d a m => some (.vecToMask d a, m)
  | .mpopc d a => some (.count false d a, false)
  | .mfirst d a => some (.count true d a, false)
  | .vld d _ m => some (.mem .ld d 0, m)
  | .vlds d _ _ m => some (.mem .lds d 0, m)
  | .vldx d _ b m => some (.mem .ldx d b, m)
  | .vst d _ m => some (.mem .st d 0, m)
  | .vsts d _ _ m => some (.mem .sts d 0, m)
  | .vstx d _ b m => some (.mem .stx d b, m)
  | .vldff d _ m => some (.mem .ldff d 0, m)
  | .vldnr d _ m => some (.mem .ldnr d 0, m)
  | .vldfe d _ m => some (.mem .ldfe d 0, m)
  | .vldfec d _ m => some (.mem .ldfec d 0, m)
  | .vgl d _ b m => some (.mem .gl d b, m)
  | .vsc d _ b m => some (.mem .sc d b, m)
  | .vldt d _ _ m => some (.mem .ldt d 0, m)
  | .vpf _ m => some (.mem .pf 0 0, m)
  | .matv d a _ => some (.matv d (a.extractLsb' 0 1), false)
  | .mvta d a _ => some (.mvta (d.extractLsb' 0 1) a, false)
  | _ => none

end Sys2Proof.Machine
end

