-- ==== Sys2Proof/Machine/Image.lean ====
section
/-! DEFINITION. The context image of a thread: what parking saves in it and what restoring reads back (R33, R34). -/

namespace Sys2Proof.Machine

/-! ### Saving (R33) -/

/-- The instruction word and the prefix word of a saved entry (R33, R60). Of a fused pair the entry has room for the first instruction's word
only (log 85). -/
def savedWords (e : VEntry) : Word × Word :=
  let ws := (encode e.instr).map (·.word)
  let own := match e.op with
    | .chain _ _ _ => 2
    | _ => 1
  if ws.length = own + 1 then (ws.getD 1 0, ws.getD 0 0) else (ws.getD 0 0, 0)

/-- One saved entry of a vector queue: 32 bytes. Of two captured scalars it has room for the first (log 85). -/
def savedEntry (e : VEntry) : List Byte :=
  let w := savedWords e
  leBytes 4 w.1.toNat ++ leBytes 4 w.2.toNat ++ leBytes 8 e.addr.toNat ++ leBytes 8 e.scalar.toNat ++
    leBytes 8 (e.vtype.toNat + 2 ^ 14 * e.vl.toNat + 2 ^ 31 * e.vwb.toNat + 2 ^ 39 * e.rm.toNat + 2 ^ 41 * e.xcls.toNat)

/-- The bytes of masks as a memory: bit i of m(n) at byte n × 8 KiB + i / 8. -/
def maskMemory (masks : NatSet) : Memory :=
  masks.foldl (fun m k => Memory.write m (k / 8) (m.read (k / 8) ||| BitVec.ofNat 8 (2 ^ (k % 8)))) []

/-- What the image of a thread holds, by offset. Of a thread parked in its handler the queue is the handler's own (log 85). -/
def imageCells (s : State) (t : Thread) : List (Nat × Byte) :=
  let put := fun (off : Nat) (bs : List Byte) => (List.range bs.length).zip bs |>.map fun p => (off + p.1, p.2)
  let csrs := (List.range 0x80).flatMap fun n => put (8 * n) (leBytes 8 ((csrValue s t (BitVec.ofNat 14 n)).getD 0).toNat)
  let queue := ((List.range t.vq.length).zip t.vq).flatMap fun p => put (0x400 + 32 * p.1) (savedEntry p.2)
  let scalars := t.scal.flatMap fun p => put (0x2000 + 8 * p.1) (leBytes 8 p.2.toNat)
  csrs ++ queue ++ scalars ++ (maskMemory t.masks).map (fun c => (0x4000 + c.1, c.2)) ++ t.vregs.map fun c => (0x40000 + c.1, c.2)

/-- The bytes of a context image in front of its accumulator save (R33). -/
abbrev imageBytes : Nat := 0x240000

/-- The offsets of the image at which a thread saves poisoned data: scalars, words of masks and of vector registers, and captured scalars. -/
def badOffsets (t : Thread) : List Nat :=
  t.badScal.map (0x2000 + 8 * ·) ++ t.badMasks.map (0x4000 + 8 * ·) ++ t.badVregs.map (0x40000 + 8 * ·) ++
    ((List.range t.vq.length).zip t.vq).filterMap fun p => if p.2.badScalar then some (0x400 + 32 * p.1 + 0x10) else none

/-- Writes a thread's image; the accumulator save stays as R29 directs. Poison goes with the data: its granules of the image are poisoned (R242). -/
def writeImage (s : State) (t : Thread) : State :=
  let s1 := s.zeroRange t.image imageBytes
  { s1 with
    mem := (imageCells s t).foldl (fun m c => Memory.write m (t.image + c.1) c.2) s1.mem
    poison := (badOffsets t).foldl (fun p off => poisonAt p (t.image + off)) s1.poison }

/-! ### Reading back (R34) -/

/-- A doubleword of a CSR in a thread's image. -/
def imageCsr (s : State) (t : Thread) (n : Nat) : Dword := s.mem64 (t.image + 8 * n)

/-- The bits of a byte string by cells, as a set. -/
def maskSet (cells : Memory) : NatSet :=
  cells.flatMap fun c => (List.range 8).filterMap fun j => if c.2.getLsbD j then some (8 * c.1 + j) else none

/-- The cells of a range, keyed from its first byte. -/
def cellsFrom (m : Memory) (base n : Nat) : Memory := (Sparse.range m base n).map fun c => (c.1 - base, c.2)

/-- The vector instruction of saved words: of one with a prefix word the bits of the prefix are those of an L word (R33, R60). -/
def savedInstr (w p : Word) : Option Instr :=
  let f := Fields.ofWord w
  let x := if p = 0 then none else some (p.extractLsb' 0 28)
  let i := match f.major.toNat with
    | 7 => decodeValu f x
    | 8 => decodeVfp f x
    | 9 => decodeVmiscPlain f x
    | 10 => decodeVmem f x
    | 11 => decodeMtx f x
    | _ => .error .unassigned
  if p = 0 || p.extractLsb' 28 4 = 0xF then i.toOption else none

/-- An entry that holds nothing yet. -/
def VEntry.blank : VEntry :=
  { instr := .nop, addr := 0, op := .mem .pf 0 0, masked := false, scalar := 0, scalar2 := 0, vl := 0, vtype := 0, vwb := 0, rm := 0, xcls := 0,
    epoch := 0, order := 0, start := none, began := none, badBlock := none, badScalar := false, flags := 0, gov := none, owed := [], early := [],
    waitStores := 0 }

/-- An entry with the instruction that saved words hold: those it was saved with leave it as it is, and words that are no queued vector
instruction are not taken (log 55). None where there is neither. -/
def restoredOp (old : Option VEntry) (w p : Word) : Option VEntry :=
  if old.any fun e => savedWords e = (w, p) then old
  else
    match (savedInstr w p).bind fun i => (vectorPart i).map fun x => (i, x) with
    | some x => some { old.getD VEntry.blank with instr := x.1, op := x.2.1, masked := x.2.2 }
    | none => old

/-- A queue entry as the image holds it. -/
def restoredEntry (s : State) (image k : Nat) (old : Option VEntry) : Option VEntry :=
  let d := fun off => s.mem64 (image + 0x400 + 32 * k + off)
  (restoredOp old ((d 0).extractLsb' 0 32) ((d 0).extractLsb' 32 32)).map fun e => { e with
    badScalar := s.poison.meets ((image + 0x400 + 32 * k + 0x10) / 16) 1
    addr := (d 8).extractLsb' 0 57, scalar := d 16, vtype := (d 24).extractLsb' 0 14, vl := (d 24).extractLsb' 14 17,
    vwb := (d 24).extractLsb' 31 8, rm := (d 24).extractLsb' 39 2, xcls := (d 24).extractLsb' 41 4 }

/-- The 8-byte words of a part of an image that poisoned granules cover, counted from the part's first byte. -/
def badWords (s : State) (base n : Nat) : NatSet :=
  (s.poison.filter fun k => base / 16 ≤ k && k < (base + n) / 16).flatMap fun k => [(16 * k - base) / 8, (16 * k - base) / 8 + 1]

/-- How many entries of the queue the image holds: VCP.DEPTH less the entries of the handler snapshot (log 79). A DEPTH that stands as it was
saved leaves the number. -/
def imageDepth (t : Thread) (vcp : Dword) : Nat :=
  let held := match t.snapshot with
    | some c => c.vq.length
    | none => 0
  if field vcp 57 7 = field t.vcp 57 7 then t.vq.length else min 64 (field vcp 57 7) - held

/-- A parked thread as its image gives it: the image is its architectural state while it does not run (R34). A field outside its limits keeps
the thread's value (log 55). What poisoned granules of the image hold is poisoned (R242). -/
def readImage (s : State) (t : Thread) : Thread :=
  let v := imageCsr s t
  let legal := fun n => csrLegal s t (BitVec.ofNat 14 n) (v n)
  { t with
    vl := (v 0x00).extractLsb' 0 17
    vtype := if legal 0x01 then (v 0x01).extractLsb' 0 14 else t.vtype
    vstart := (v 0x02).extractLsb' 0 16
    grant := BitVec.ofNat 7 (min 64 (field (v 0x04) 0 7))
    fcsr := (v 0x05).extractLsb' 0 7
    xcls := if legal 0x06 then (v 0x06).extractLsb' 0 4 else t.xcls
    vcpAddr := if imageDepth t (v 0x03) = 0 then (v 0x03).extractLsb' 0 57 else t.vcpAddr
    mshape := if legal 0x10 then (v 0x10).extractLsb' 0 26 &&& 0x3FF00FF else t.mshape
    mrow := if mrowOf s t = t.mrow && legal 0x11 then (v 0x11).extractLsb' 0 8 else t.mrow
    mkoff := (v 0x12).extractLsb' 0 32 &&& 0xFFFFFFC0
    swb := if legal 0x20 then (v 0x20).extractLsb' 0 9 else t.swb
    vwb := if legal 0x21 then (v 0x21).extractLsb' 0 8 else t.vwb
    trap := { cause := v 0x50 &&& 0x80000000FFFFFFFF, pc := (v 0x51).extractLsb' 0 57, addr := v 0x52, elem := (v 0x53).extractLsb' 0 17,
              save := (v 0x55).extractLsb' 0 57 }
    trapVec := (v 0x54).extractLsb' 7 50 ++ (0 : BitVec 7)
    scal := (List.range 512).filterMap fun e => if s.mem64 (t.image + 0x2000 + 8 * e) = 0 then none else some (e, s.mem64 (t.image + 0x2000 + 8 * e))
    masks := maskSet (cellsFrom s.mem (t.image + 0x4000) 0x20000)
    vregs := cellsFrom s.mem (t.image + 0x40000) 0x200000
    badScal := badWords s (t.image + 0x2000) 0x1000
    badMasks := badWords s (t.image + 0x4000) 0x20000
    badVregs := badWords s (t.image + 0x40000) 0x200000
    vq := (List.range (imageDepth t (v 0x03))).filterMap fun k => restoredEntry s t.image k t.vq[k]? }

/-- A thread as it stands: a parked one as its image gives it, unless the image has still to follow. -/
def State.current (s : State) (t : Thread) : Thread := if t.parked && !t.stale then readImage s t else t

/-- Brings the image of a parked thread that the device has changed up to date, at once or, while something holds the write back, later (R34,
R241, R262). -/
def syncImage (s : State) (tid : BitVec 32) : State :=
  match s.thread? tid with
  | none => s
  | some u =>
    if !u.parked then s
    else if rangeHeld s true u.image imageBytes then s.setThread { u with stale := true }
    else (writeImage s u).setThread { u with stale := false }

/-- A change that the device makes to a thread, which may be parked: its image follows (R34). -/
def State.changeThread (s : State) (t : Thread) (f : Thread → Thread) : State := syncImage (s.setThread (f (s.current t))) t.tid

/-- The first image that has still to follow its thread and that nothing holds back any more is written. -/
def imageWork (s : State) : Option State :=
  (s.threads.find? fun t => t.parked && t.stale && !rangeHeld s true t.image imageBytes).map fun t => syncImage s t.tid

end Sys2Proof.Machine
end

