-- ==== Sys2Proof/Machine/Experts.lean ====
section
/-! DEFINITION. Expert residency: slots, fetches, evictions, pins and the token wait queue (R307 to R317). -/

namespace Sys2Proof.Machine

/-! ### The table (R308) -/

/-- Experts of a tenant's table with the addresses of their entries. -/
def ertEntries (s : State) (tenant : BitVec 4) : List (Nat × Nat) :=
  let cfg := s.mreg 0 (offErtcfg tenant)
  let base := field cfg 12 45 * 4096
  if base = 0 then [] else (List.range (field cfg 0 12 + 1)).map fun x => (x, base + 32 * x)

/-- Writes a field of the first doubleword of an entry. -/
def setErt (s : State) (e lo n x : Nat) : State := s.store64 e (setField (s.mem64 e) lo n x)

/-- Dispatch rounds of die 0 so far. -/
def dieRound (s : State) (die : BitVec 2) : Nat := s.rounds.getD die.toNat 0

/-- Stamps LAST with die 0's round. -/
def stampLast (s : State) (e : Nat) : State := s.store64 (e + 16) (setField (s.mem64 (e + 16)) 32 32 (dieRound s 0))

/-- Adds a pin (R316). -/
def addPin (s : State) (e : Nat) : State := setErt s e 32 16 (ertPins s e + 1)

/-- Removes a pin; LAST is stamped when the last one goes (R308). -/
def dropPin (s : State) (e : Nat) : State :=
  let s1 := setErt s e 32 16 (ertPins s e - 1)
  if ertPins s e = 1 then stampLast s1 e else s1

/-- Bytes of a slot of a tenant's pool (R307). -/
def slotBytes (s : State) (tenant : BitVec 4) : Nat := 2 ^ field (s.mreg 0 (offExppool tenant)) 11 5

/-! ### Commands and threads that wait for an expert -/

/-- Whether two commands are one. -/
def Command.same (c d : Command) : Bool := c.tid = d.tid && c.slot = d.slot && c.seq = d.seq

/-- Replaces a command. -/
def State.setCommand (s : State) (c : Command) : State :=
  { s with commands := s.commands.map fun x => if x.same c then c else x }

/-- What tells accesses of a command at one address apart for their repeat counts: the unit of work. A stream's element is told by its
address. -/
def Command.place (c : Command) : Nat := if c.op = .vstrm then 0 else c.next

/-- A command leaves replay-wait to make its access again (R331, R332). -/
def Command.replayed (c : Command) : Command :=
  match c.replay with
  | none => c
  | some r => { c with
      replay := none
      repeats := (c.place, r.1.va, if r.2.2.1 then r.2.1 + 1 else r.2.1) :: c.repeats.filter fun x => !(x.1 = c.place && x.2.1 = r.1.va) }

/-- The commands that wait for an expert end with a status; EXPPARK writes the expert to RESULT (R213, R311). -/
def endExpertWaits (s : State) (tenant : BitVec 4) (x : BitVec 16) (status : Dword) : State :=
  { s with commands := s.commands.map fun c : Command =>
      if c.tenant = tenant && c.phase = .waiting && c.expert = some x then { c with phase := .finishing status (x.setWidth 64) } else c }

/-- Accesses that wait for the expert are made again (R331: D delivery). -/
def replayExpert (s : State) (tenant : BitVec 4) (x : BitVec 16) : State :=
  let s1 := (s.threads.filter fun t => t.tenant = tenant && t.replay.any fun r => r.expert = some x).foldl
    (fun s t => s.changeThread t Thread.replayed) s
  { s1 with
    commands := s1.commands.map fun c : Command =>
      if c.tenant = tenant && c.replay.any (fun r => r.2.2.2 = some x) then c.replayed else c }

/-! ### Fetching (R310, R313 to R315) -/

/-- Whether two fetches are one. -/
def Fetch.same (f g : Fetch) : Bool := f.tenant = g.tenant && f.expert = g.expert

/-- Replaces a fetch. -/
def State.setFetch (s : State) (f : Fetch) : State := { s with fetches := s.fetches.map fun x => if x.same f then f else x }

/-- Drops a fetch. -/
def State.dropFetch (s : State) (f : Fetch) : State := { s with fetches := s.fetches.filter fun x => !x.same f }

/-- Whether an expert's entry holds its slot. -/
def holdsSlot (s : State) (tenant : BitVec 4) (x e : Nat) : Bool :=
  let st := ertState s e
  st = 2 || st = 3 || (st = 1 && s.fetches.any fun f => f.tenant = tenant && f.expert.toNat = x && f.placed)

/-- The lowest free slot of a tenant's pool (R313). -/
def freeSlot (s : State) (tenant : BitVec 4) : Option Nat :=
  let held := ((ertEntries s tenant).filter fun p => holdsSlot s tenant p.1 p.2).map fun p => ertSlot s p.2
  (List.range (field (s.mreg 0 (offExppool tenant)) 0 11)).find? fun k => !held.elem k

/-- Rounds since an entry's LAST, which counts modulo 2^32. -/
def lastAge (s : State) (e : Nat) : Nat := (dieRound s 0 + 2 ^ 32 - field (s.mem64 (e + 16)) 32 32) % 2 ^ 32

/-- The victim (R313): resident, unpinned, oldest LAST, lowest number. -/
def victimOf (s : State) (tenant : BitVec 4) : Option (Nat × Nat) :=
  ((ertEntries s tenant).filter fun p => ertState s p.2 = 2 && ertPins s p.2 = 0).foldl
    (fun best p => match best with
      | none => some p
      | some b => if lastAge s b.2 < lastAge s p.2 then some p else some b) none

/-- An eviction begins. -/
def beginEviction (s : State) (tenant : BitVec 4) (p : Nat × Nat) : State :=
  { setErtState s p.2 3 with evicting := s.evicting ++ [(tenant, BitVec.ofNat 16 p.1, false)] }

/-- A fetch fails (R310): STATE 4, LASTERR, FAILS; waiting entries go with status 0x11, and waiting accesses are made again. -/
def fetchFails (s : State) (f : Fetch) (e lasterr : Nat) : State :=
  let w := s.mem64 e
  let s1 := s.store64 e (setField (setField (setField w 61 3 4) 8 8 lasterr) 0 8 (min 255 (field w 0 8 + 1)))
  let s2 := { s1 with tokens := s1.tokens.filter fun k : Token => !(k.tenant = f.tenant && k.expert = f.expert && !k.ready) }
  replayExpert (endExpertWaits (s2.dropFetch f) f.tenant f.expert 0x11) f.tenant f.expert

/-- A fetch makes its expert resident (R310): every waiting entry becomes ready with a pin of its own, in the same step. -/
def fetchSucceeds (s : State) (f : Fetch) (e : Nat) : State :=
  let mine := fun k : Token => k.tenant = f.tenant && k.expert = f.expert && !k.ready
  let pins := ertPins s e + (s.tokens.filter mine).length
  let s1 := stampLast (s.store64 e (setField (setField (s.mem64 e) 61 3 2) 32 16 pins)) e
  let s2 := { s1 with tokens := s1.tokens.map fun k : Token => if mine k then { k with ready := true } else k }
  replayExpert (endExpertWaits (s2.dropFetch f) f.tenant f.expert 0) f.tenant f.expert

/-- Whether a hardware fetch's source lies wholly in CXL memory admitted by the tenant's windows (R314). -/
def sourceAdmitted (s : State) (f : Fetch) : Bool :=
  let src := f.src.toNat
  let n := f.pages * 4096
  src % 4096 = 0 && Config.cxlBase ≤ src && src + n ≤ Config.cxlEnd &&
    (List.range (n / 2 ^ 28 + 2)).all fun k => (cxlPort s f.tenant (min (src + k * 2 ^ 28) (src + n - 1))).isSome

/-- Copies a range of clean bytes. -/
def copyRange (s : State) (src dst n : Nat) : State :=
  let cells := Sparse.range s.mem src n
  let s1 := s.zeroRange dst n
  { s1 with mem := cells.foldl (fun m c => Memory.write m (dst + (c.1 - src)) c.2) s1.mem }

/-- The packets of sectors that a hardware fetch moves, a read and a write for each, as far as the engines' port sends them (R233, R234); answers
how many bytes have packets. -/
def sendSectors (tenant : BitVec 4) : Nat → Nat → Nat → State → State × Nat
  | 0, _, _, s => (s, 0)
  | fuel + 1, src, dst, s =>
    match (sendOne s (enginePort 0) tenant (.read 32) (placeTrans src) 32).bind fun s1 =>
        sendOne s1 (enginePort 0) tenant (.write (s.loadBytes src 32)) (placeTrans dst) 32 with
    | none => (s, 0)
    | some s1 =>
      let r := sendSectors tenant fuel (src + 32) (dst + 32) s1
      (r.1, r.2 + 32)

/-- How many bytes from a place of a fetch's image on can move: whole sectors up to the first that is held back (R262). -/
def freeBytes (s : State) (src slot lo n : Nat) : Nat :=
  32 * ((List.range ((n - lo) / 32)).takeWhile fun k =>
    !(heldBack s deviceTid false (src + lo + 32 * k) 32 || heldBack s deviceTid true (slot + lo + 32 * k) 32)).length

/-- The next step of a hardware fetch (R314): it moves the sectors that nothing holds back, and ends with the last; none while none can move, or
while die 0, whose engine fetches, stands still (R351). -/
def finishHardware (s : State) (f : Fetch) (e : Nat) : Option State :=
  let n := f.pages * 4096
  let src := f.src.toNat + f.moved
  let slot := poolSlot s f.tenant (ertSlot s e)
  let sent := sendSectors f.tenant (freeBytes s f.src.toNat slot f.moved n / 32) src (slot + f.moved) s
  let k := sent.2
  if s.stoppedDies.mem 0 then none
  else if !sourceAdmitted s f then some (fetchFails s f e 2)
  else if k = 0 && f.moved < n then none
  else if (poisonSub s src k).isSome then some (fetchFails sent.1 f e 3)
  else
    let s1 := copyRange (sent.1.noteRead src k) src (slot + f.moved) k
    some (if f.moved + k < n then s1.setFetch { f with moved := f.moved + k } else fetchSucceeds s1 f e)

/-- Whether the host-assisted request ring of a tenant has room (R345). -/
def harRoom (s : State) (tenant : BitVec 4) : Bool :=
  let p := s.mreg 0 (offHar tenant + 8)
  decide ((field p 32 32 + 2 ^ 32 - field p 0 32) % 2 ^ 32 < 2 ^ field (s.mreg 0 (offHar tenant)) 0 4)

/-- Where a tenant's next host-assisted request lies (R345). -/
def harAt (s : State) (tenant : BitVec 4) : Nat :=
  let cfg := s.mreg 0 (offHar tenant)
  field cfg 12 45 * 4096 + 32 * (field (s.mreg 0 (offHar tenant + 8)) 32 32 % 2 ^ field cfg 0 4)

/-- Places a fetch's record in the ring, advances TAIL, and signals vector 63 (R315, R338, R345). -/
def postRequest (s : State) (f : Fetch) (e : Nat) : State :=
  let p := s.mreg 0 (offHar f.tenant + 8)
  let k := field p 32 32
  let bytes := leBytes 8 (2 ^ 56 + f.expert.toNat) ++ leBytes 8 (poolSlot s f.tenant (ertSlot s e)) ++ leBytes 8 f.src.toNat ++
    leBytes 8 f.pages
  let s1 := s.storeBytes (harAt s f.tenant) bytes
  ((s1.setMreg 0 (offHar f.tenant + 8) (setField p 32 32 (k + 1))).raiseVector f.tenant 63).setFetch { f with posted := true }

/-- Whether a write of the host to a slot has not performed yet (R315): one in a port's buffer, or a packet. -/
def hostWrites (s : State) (slot n : Nat) : Bool :=
  let covers := fun a : MemAccess => memOpWrites a.op && overlap a.pa.toNat (memOpBytes a.op) slot n
  (s.portBuffer.any fun b => covers b.2) || s.packets.any fun p => covers p.access

/-- The end of a host-assisted fetch, once EXPDONE has been written (R315). -/
def finishHosted (s : State) (f : Fetch) (e : Nat) : Option State :=
  if hostWrites s (poolSlot s f.tenant (ertSlot s e)) (slotBytes s f.tenant) then none
  else f.ended.map fun status => if status = 0 then fetchSucceeds s f e else fetchFails s f e 4

/-- Whether something holds back the reads of a tenant's table entries by which a slot is found (R262, R308, R313). -/
def tableHeld (s : State) (tenant : BitVec 4) : Bool :=
  let cfg := s.mreg 0 (offErtcfg tenant)
  rangeHeld s false (field cfg 12 45 * 4096) (32 * (field cfg 0 12 + 1))

/-- A fetch takes its slot (R313). -/
def placeFetch (s : State) (f : Fetch) (e : Nat) : Option State :=
  if f.pages = 0 || slotBytes s f.tenant < f.pages * 4096 then some (fetchFails s f e 1)
  else if tableHeld s f.tenant then none
  else
    match freeSlot s f.tenant with
    | some k => some ((setErt s e 16 16 k).setFetch { f with placed := true, victim := none })
    | none =>
      if f.victim.any fun v => s.evicting.any fun x => x.1 = f.tenant && x.2.1 = v then none
      else
        match victimOf s f.tenant with
        | none => none
        | some p =>
          if ertHeld s deviceTid f.tenant true p.1 then none
          else some ((beginEviction s f.tenant p).setFetch { f with victim := some (BitVec.ofNat 16 p.1) })

/-- The next step of a fetch, or none while it waits, as where its table entry is held back (R262, R308). -/
def fetchStep (s : State) (f : Fetch) : Option State :=
  match ertEntry s f.tenant f.expert.toNat with
  | none => some (s.dropFetch f)
  | some e =>
    if ertHeld s deviceTid f.tenant true f.expert.toNat then none
    else if !f.placed then placeFetch s f e
    else if !f.host then finishHardware s f e
    else if !f.posted then
      (if harRoom s f.tenant && !heldBack s deviceTid true (harAt s f.tenant) 32 then some (postRequest s f e) else none)
    else finishHosted s f e

/-! ### The end of an eviction (R310, R311) -/

/-- Whether a row command has still to access rows of a range that it has translated. -/
def Command.rowsIn (c : Command) (l n : Nat) : Bool :=
  (List.range c.pairs.length).any fun k =>
    let p := c.pairs.getD k (0, 0)
    c.next ≤ 32 * k + 31 && (overlap p.1 1024 l n || overlap p.2 1024 l n)

/-- Whether an access through an expert's pages is still to perform: a held store, an element of a row of MLDA or MSTA that has begun, a row or the
list of an accord, a row of a command, the read of a command's block. -/
def slotInUse (s : State) (slot n : Nat) : Bool :=
  (s.threads.any fun t => t.sbuf.any fun p => overlap p.loc p.bytes.length slot n) ||
    (s.matq.any fun m => m.move.trans.any fun tr => overlap tr.loc 4 slot n) ||
    (s.accords.any fun a => (a.rows.any fun r => overlap r.pa 1024 slot n) || a.list.any fun p => overlap p.1 p.2.1 slot n) ||
    s.commands.any fun c => c.rowsIn slot n || (c.phase = .issued && overlap c.blockAt 64 slot n)

/-- A BARW that waits on a counter in a slot that is given up reads it again, through the page (R111, R310). -/
def rereadCounter (slot n : Nat) (t : Thread) : Thread :=
  match t.wait with
  | .barw l _ => if overlap l 8 slot n then { t with wait := .none } else t
  | _ => t

/-- An eviction ends: the cached translations of the expert's pages and the lines fetched from its slot are dropped, STATE becomes 0, and a recorded request begins a
fetch in the same step. -/
def endEviction (s : State) (tenant : BitVec 4) (x : BitVec 16) (recorded : Bool) : Option State :=
  match ertEntry s tenant x.toNat with
  | none => some { s with evicting := s.evicting.filter fun v => !(v.1 = tenant && v.2.1 = x) }
  | some e =>
    if slotInUse s (poolSlot s tenant (ertSlot s e)) (slotBytes s tenant) || ertHeld s deviceTid tenant true x.toNat then none
    else
      let s1 := setErtState s e 0
      let s2 := { s1 with
        threads := s1.threads.map (rereadCounter (poolSlot s tenant (ertSlot s e)) (slotBytes s tenant))
        evicting := s1.evicting.filter fun v => !(v.1 = tenant && v.2.1 = x)
        fetchCopies := s1.fetchCopies.filter fun c : FetchCopy => !overlap c.pa 128 (poolSlot s tenant (ertSlot s e)) (slotBytes s tenant)
        leaves := s1.leaves.filter fun c : CachedLeaf => !(c.leaf.getLsbD 57 && c.leaf.extractLsb' 38 16 = x) }
      some (if recorded then requestExpert s2 tenant x else s2)

/-- The first result of a way of working over a list. -/
def firstSome {α : Type} (f : α → Option State) : List α → Option State
  | [] => none
  | x :: r => match f x with
    | some s => some s
    | none => firstSome f r

/-- The first waiting request whose table entry nothing holds back any more begins. -/
def requestWork (s : State) : Option State :=
  (s.requests.find? fun r => !ertHeld s deviceTid r.1 true r.2.toNat).map fun r =>
    beginRequest { s with requests := s.requests.erase r } r.1 r.2

/-- The next step among requests, evictions and fetches, oldest first. -/
def expertWork (s : State) : Option State :=
  match requestWork s with
  | some s1 => some s1
  | none =>
  match firstSome (fun v : BitVec 4 × BitVec 16 × Bool => endEviction s v.1 v.2.1 v.2.2) s.evicting with
  | some s1 => some s1
  | none => firstSome (fetchStep s) s.fetches

/-! ### Events of the opcode table -/

/-- The fetch of a tenant's expert. -/
def State.fetch? (s : State) (tenant : BitVec 4) (x : BitVec 16) : Option Fetch :=
  s.fetches.find? fun f => f.tenant = tenant && f.expert = x

/-- EXPERT_FETCH_DONE (R310): a fetch that holds its slot finishes. -/
def execExpertFetchDone (tenant : BitVec 4) (expert : BitVec 16) (s : State) : Result :=
  match s.fetch? tenant expert, ertEntry s tenant expert.toNat with
  | some f, some e =>
    if !f.placed || ertHeld s deviceTid tenant true expert.toNat then .next s
    else .next ((if f.host then finishHosted s f e else finishHardware s f e).getD s)
  | _, _ => .next s

/-- EXPERT_FETCH_FAILURE (R310, R314): a read of a hardware fetch fails. -/
def execExpertFetchFailure (tenant : BitVec 4) (expert : BitVec 16) (s : State) : Result :=
  match s.fetch? tenant expert, ertEntry s tenant expert.toNat with
  | some f, some e =>
    .next (if f.placed && !f.host && !ertHeld s deviceTid tenant true expert.toNat then fetchFails s f e 3 else s)
  | _, _ => .next s

/-- EVICTION_END (R310). -/
def execEvictionEnd (tenant : BitVec 4) (expert : BitVec 16) (s : State) : Result :=
  match s.evicting.find? fun v => v.1 = tenant && v.2.1 = expert with
  | none => .next s
  | some v => .next ((endEviction s tenant expert v.2.2).getD s)

/-- EXPDONE (R315): ends the host-assisted fetch of an expert in STATE 1; a write that names any other is ignored. -/
def writeExpdone (s : State) (tenant : BitVec 4) (value : Dword) : State :=
  match s.fetch? tenant (value.extractLsb' 0 16) with
  | none => s
  | some f =>
    let s1 := s.setMreg 0 (offExpdone tenant) (value &&& 0xFFFFFF)
    if f.host then s1.setFetch { f with ended := some (field value 16 8) } else s1

end Sys2Proof.Machine
end

