-- ==== Sys2Proof/Machine/EngineAccess.lean ====
section
/-! DEFINITION. The accesses of engine commands: their faults, replay-waits, ends, and the ranges they read and write (R204, R205,
R236, R242, R327, R331, R332). -/

namespace Sys2Proof.Machine

/-- A final status (R205). -/
def statusOf (code sub : Nat) : Dword := BitVec.ofNat 64 (code + 256 * sub)

/-- Commands without a parameter block: they write no RESULT (R204). -/
def EngOp.bare (op : EngOp) : Bool := op = .expq || op = .exprel || op = .pgreq || op = .tlaunch

/-- The stack whose base die carries a command out, one of its die's four (log 84). -/
def Command.stream (c : Command) : Nat := 4 * c.die.toNat + Config.freePlace (c.tid.toNat * 32 + c.slot.toNat) 7 % 4

/-- A command as the maker of its accesses: they count as the issuing thread's, through the stream translator of a base die (R205, R327). -/
def Command.agent (c : Command) : Agent :=
  { tid := c.tid, tenant := c.tenant, sup := c.sup, atp := c.atp, unit := 256 + c.stream, core := c.core, spadLo := c.spadLo,
    spadLen := c.spadLen }

/-- A parameter of a command's block: P0 to P5. -/
def Command.param (c : Command) (k : Nat) : Nat := (c.params.getD (k + 2) 0).toNat

/-! ### Ends -/

/-- A command leaves the machine: its ticket, when its thread still holds it, has the final status (R202, R205). -/
def closeCommand (s : State) (c : Command) (status : Dword) : State :=
  { s with commands := s.commands.filter fun x => !x.same c }.update c.tid fun t =>
    { t with tickets := t.tickets.map fun k : Ticket =>
        if k.slot = c.slot && k.seq = c.seq then { k with status := some status } else k }

/-- The operation ends; RESULT and NOTIFY follow (R204). -/
def finishWith (s : State) (c : Command) (status result : Dword) : State :=
  s.setCommand { c with phase := .finishing status result, replay := none, pages := [] }

/-- A failure: of the operation, or of its last writes, where the status replaces the operation's own (R205). A NOTIFY increment that fails leaves
the RESULT that the operation has written (log 100). -/
def failAt (s : State) (c : Command) (status result : Dword) : State :=
  match c.phase with
  | .finishing _ _ | .notifying _ => closeCommand s c status
  | _ => finishWith s c status result

/-- The status after sixteen repeats (R205, R211). -/
def repeatStatus (c : Command) (f : Flt) : Dword :=
  if c.op = .pgreq then statusOf 0x11 0 else if f.cause = 0x04 then statusOf 2 2 else statusOf 2 1

/-- The repeat count of a command's fault: it continues that of the same access, replayed (R332). -/
def Command.repeatOf (c : Command) (f : Flt) : Nat := ((c.repeats.find? fun r => r.1 = c.place && r.2.1 = f.va).map (·.2.2)).getD 0

/-- An engine access in replay-wait: a record, for an absent expert also a request (R205, R331); an access whose expert has come in the
meantime is replayed at once. A fault whose record the queue could not hold does not raise the count (R332, log 27). The sixteenth repeat ends
the command (R332). None while the fatal record has no room (R333). -/
def waitEngine (s0 : State) (c : Command) (f0 : Flt) (result : Dword) : Option State :=
  let s := s0.noteFault f0
  let f := f0.noted
  let n := c.repeatOf f
  if 16 ≤ n then
    if fatalRoom s c.tenant then
      some (failAt (writeRecord s c.tenant f 16 true true c.slot c.tid 0) c (repeatStatus c f) result)
    else none
  else
    let device := delivery f = .device
    let x := if device then f.expert else none
    let s1 := match x with
      | some x => requestExpert s c.tenant x
      | none => s
    let r := queueRecord s1 c.tenant f n true c.slot c.tid 0
    let d := { c with replay := some (f, n, r.2, x) }
    some (r.1.setCommand (if device && !x.any (expertComes r.1 c.tenant) then d.replayed else d))

/-- A fault of an engine access (R205). Poison that a command consumes has no code among the statuses (log 16). A scratchpad address outside the
crew's range, or past the scratchpad, ends the command at once with CODE 2, SUB 2: R205 lists it on neither side (log 100). -/
def engineFault (s : State) (c : Command) (f : Flt) (result : Dword) : Option State :=
  match delivery f with
  | .queue | .device => waitEngine s c f result
  | _ => some (failAt (s.noteFault f) c
      (if f.cause = 0x04 then statusOf 2 2
       else if f.cause = 0x15 then (Config.freeStatus s.steps).setWidth 64
       else statusOf 2 4) result)

/-- Whether a fault ends a command: it has no replay, or has repeated sixteen times (R205, R332). -/
def Command.endsBy (c : Command) (f : Flt) : Bool :=
  match delivery f with
  | .queue | .device => 16 ≤ c.repeatOf f
  | _ => true

/-! ### Ranges -/

/-- The location of an engine access. -/
def engineLoc (s : State) (c : Command) (acc : BitVec 2) (va n : Nat) : Res Trans :=
  locateScalar s c.agent acc (BitVec.ofNat 64 va) n

/-- The poisoned-data subcause of an engine access: copies carry poison on (R334), but a lost line takes its fault (R336). -/
def enginePoison (s : State) (consumes : Bool) (l : Loc) (n : Nat) : Option (BitVec 8) :=
  match poisonSub s l n with
  | none => none
  | some sub => if consumes || sub = 0x05 then some sub else none

/-- One piece of an engine access inside a page: it waits at what holds it back, and while the engines' port sends nothing (R234, R343). -/
def enginePiece (s : State) (c : Command) (acc : BitVec 2) (consumes : Bool) (va n : Nat) : Res Trans :=
  (engineLoc s c acc va n).bind fun tr =>
    if heldBack s c.tid (acc != accLoad) tr.loc n || leafHeld s c.tid acc tr.entry || portHeld s (enginePort c.die) c.tenant tr then .wait
    else
      match enginePoison s consumes tr.loc n with
      | some sub => .fault { mkFault 0x15 sub (BitVec.ofNat 64 va) acc with reads := tr.reads }
      | none => .ok tr

/-- The translated pieces of a range. -/
def enginePieces (s : State) (c : Command) (acc : BitVec 2) (va n : Nat) : List (Trans × Nat) :=
  (pagePieces (n / 4096 + 2) va n).filterMap fun p =>
    match engineLoc s c acc p.1 p.2 with
    | .ok tr => some (tr, p.2)
    | _ => none

/-- A piece of an engine access that is made: its leaf's marks, and its packet, when it leaves the die (R233, R326). `enginePiece` has found that
its port sends. -/
def sendPiece (s : State) (c : Command) (acc : BitVec 2) (op : MemOp) (tr : Trans) (n : Nat) : State :=
  ((sendOne s (enginePort c.die) c.tenant op tr n).getD s).markLeaf acc tr.entry

/-- A piece that may be read is read. -/
def readPiece (s : State) (c : Command) (tr : Trans) (n : Nat) : State :=
  (sendPiece s c accLoad (.read (BitVec.ofNat 8 n)) tr n).noteRead tr.loc n

/-- Sets full the scratchpad granules of bytes that an engine has written (R158). -/
def setFull (s : State) (l : Loc) (n : Nat) : State :=
  if isSpad l && n != 0 then
    { s with full := ((List.range ((l + n - 1) / 16 - l / 16 + 1)).map (l / 16 + ·)).foldl NatSet.insert s.full }
  else s

/-- A piece that may be written is written; an engine's write sets the granules of the scratchpad full (R158, R231). -/
def writePiece (s : State) (c : Command) (tr : Trans) (bs : List Byte) : State :=
  setFull (storeVia (sendPiece s c accStore (.write bs) tr bs.length) tr.streaming tr.loc bs) tr.loc bs.length

/-- Whether a byte of a location is carried as poison. -/
def badByte (s : State) (l : Loc) : Bool := (poisonSub s l 1).isSome

/-- The positions of the bytes of a range that are carried as poison. -/
def badBytes (s : State) (l : Loc) (n : Nat) : List Nat := (List.range n).filter fun j => badByte s (l + j)

/-- Poisons the granules of bytes at some positions from a location on: what an engine carries stays marked (R237, R242, R334). -/
def carryPoison (s : State) (l : Loc) (bad : List Nat) : State := { s with poison := bad.foldl (fun p j => poisonAt p (l + j)) s.poison }

/-- A piece of carried bytes that may be written is written. -/
def putCarried (s : State) (c : Command) (tr : Trans) (bs : List Byte) (bad : List Nat) : State := carryPoison (writePiece s c tr bs) tr.loc bad

/-! ### Sectors (R205) -/

/-- The part of a sector, by address / 32, that lies in a range. -/
def sectorPart (base n line : Nat) : Nat × Nat :=
  let lo := max base (32 * line)
  (lo, min (base + n) (32 * line + 32) - lo)

/-- A range that an engine reads sector by sector: its number among the command's, which tells its sectors from others, its first byte and its
size, and whether sectors on strongly ordered pages are read by the command's reads in address order only (R247). -/
structure SectorRange where
  number  : Nat
  base    : Nat
  size    : Nat
  ordered : Bool

/-- The key of a range's sector. -/
def SectorRange.key (r : SectorRange) (va : Nat) : Nat := 2 ^ 59 * r.number + va / 32

/-- The sector of a range that holds an address: as it was read for another unit, or read now. A fault names the address. `inOrder` tells that
the read's turn in address order has come. -/
def readSector (s : State) (c : Command) (r : SectorRange) (inOrder : Bool) (va : Nat) : Res (State × Command × Sector) :=
  match c.sectors.find? fun x => x.line = r.key va with
  | some x => .ok (s, c, x)
  | none =>
    let p := sectorPart r.base r.size (va / 32)
    match enginePiece s c accLoad false p.1 p.2 with
    | .fault f => .fault { f with va := BitVec.ofNat 64 va, addr := BitVec.ofNat 64 va }
    | .wait => .wait
    | .ok tr =>
      if r.ordered && !inOrder && tr.kind = 1 then .wait
      else
        let x := { line := r.key va, bytes := s.loadBytes tr.loc p.2, bad := badBytes s tr.loc p.2 }
        .ok (readPiece s c tr p.2, { c with sectors := c.sectors ++ [x] }, x)

/-- Bytes of a sector of a range from an address on, and which of them are poisoned. -/
def Sector.part (x : Sector) (base va n : Nat) : List Byte × List Nat :=
  let off := va - max base (va / 32 * 32)
  ((x.bytes.drop off).take n, (x.bad.filter fun j => off ≤ j && j < off + n).map (· - off))

/-- Up to 32 bytes of a range from an address on, by its sectors. -/
def readCarried (s : State) (c : Command) (r : SectorRange) (va n : Nat) : Res (State × Command × List Byte × List Nat) :=
  let k := min n (32 - va % 32)
  (readSector s c r false va).bind fun x =>
    let a := x.2.2.part r.base va k
    if k = n then .ok (x.1, x.2.1, a.1, a.2)
    else
      (readSector x.1 x.2.1 r false (va + k)).bind fun y =>
        let b := y.2.2.part r.base (va + k) (n - k)
        .ok (y.1, y.2.1, a.1 ++ b.1, a.2 ++ b.2.map (· + k))

/-! ### Reads in address order (R247) -/

/-- A pass over reads whose turn in address order has come: the machine, the command, whether something was read, and the fault that stops
it. -/
structure OrderedReads where
  s     : State
  c     : Command
  moved : Bool
  flt   : Option Flt

/-- Does reads in order up to one that waits or whose fault is replayed; one whose fault ends the command is left to the unit that needs it, so
that the units before it are done. -/
def readInOrder {α : Type} (read : State → Command → α → Res (State × Command)) : List α → OrderedReads → OrderedReads
  | [], r => r
  | x :: rest, r =>
    match read r.s r.c x with
    | .ok y => readInOrder read rest { s := y.1, c := y.2, moved := true, flt := none }
    | .wait => r
    | .fault f => if r.c.endsBy f then readInOrder read rest r else { r with flt := some f }

/-- The keys and addresses of the sectors that hold some bytes. -/
def sectorsOf (r : SectorRange) (va n : Nat) : List (Nat × Nat) :=
  if n = 0 then []
  else (List.range ((va + n - 1) / 32 - va / 32 + 1)).map fun k => let a := max va ((va / 32 + k) * 32); (r.key a, a)

/-- Puts an entry among others by its address. -/
def insertByVa {α : Type} (x : Nat × α) : List (Nat × α) → List (Nat × α)
  | [] => [x]
  | y :: r => if x.1 < y.1 then x :: y :: r else y :: insertByVa x r

/-- Whether an engine's access to bytes in a page goes to a strongly ordered page (R248). -/
def strongAt (s : State) (c : Command) (acc : BitVec 2) (va n : Nat) : Bool := (enginePieces s c acc va n).any fun p => p.1.kind = 1

/-- Reads sectors (range, address), those on strongly ordered pages only, in ascending address order as far as they go. -/
def readStrong (s : State) (c : Command) (xs : List (SectorRange × Nat)) : OrderedReads :=
  let strong := xs.foldl (fun ys x =>
    let p := sectorPart x.1.base x.1.size (x.2 / 32)
    if strongAt s c accLoad p.1 p.2 then insertByVa (x.2, x.1) ys else ys) []
  readInOrder (fun s c (x : Nat × SectorRange) => (readSector s c x.2 true x.1).bind fun y => .ok (y.1, y.2.1)) strong
    { s := s, c := c, moved := false, flt := none }

/-- Reads sectors, each as soon as its own bytes are free (R262), up to a fault; `skip` leaves one that ends the command to the unit that needs
it. -/
def readFree (skip : Bool) : List (SectorRange × Nat) → OrderedReads → OrderedReads
  | [], r => r
  | x :: rest, r =>
    match readSector r.s r.c x.1 false x.2 with
    | .ok y => readFree skip rest { s := y.1, c := y.2.1, moved := true, flt := none }
    | .wait => readFree skip rest r
    | .fault f => if skip && r.c.endsBy f then readFree skip rest r else { r with flt := some f }

/-- The sectors of whole ranges that a command has not read. -/
def missing (c : Command) (rs : List SectorRange) : List (SectorRange × Nat) :=
  rs.flatMap fun r => ((sectorsOf r r.base r.size).filter fun k => !c.sectors.any fun x => x.line = k.1).map fun k => (r, k.2)

/-- Reads what is left of whole ranges, sector by sector. -/
def gather (s : State) (c : Command) (skip : Bool) (rs : List SectorRange) : OrderedReads :=
  let a := readStrong s c (missing c rs)
  if a.flt.isSome then a else readFree skip (missing a.c rs) a

/-- The bytes of a range whose sectors have all been read. -/
def gathered (c : Command) (r : SectorRange) : List Byte :=
  (sectorsOf r r.base r.size).flatMap fun k => ((c.sectors.find? fun x => x.line = k.1).map (·.bytes)).getD []

/-- The address of the first poisoned byte of a range whose sectors have all been read. -/
def firstPoison (c : Command) (r : SectorRange) : Option Nat :=
  (sectorsOf r r.base r.size).findSome? fun k => (c.sectors.find? fun x => x.line = k.1).bind fun x => x.bad.head?.map (k.2 + ·)

end Sys2Proof.Machine
end

