-- ==== Sys2Proof/Machine/Rows.lean ====
section
/-! DEFINITION. Row, copy and stream commands, in units: a destination sector, or a whole row inside the DRAM (R206 to R209, R227, R237). -/

namespace Sys2Proof.Machine

/-- How a unit of work ends. A fault or a failure says what RESULT gets, and the machine in case the command ends here. -/
inductive UnitEnd where
  | done (s : State) (c : Command)
  | wait
  | fault (f : Flt) (result : Dword) (ended : State)
  | fail (status result : Dword) (ended : State)

/-! ### Rows (R207, R227, R237) -/

/-- The subarray test (R227). -/
def sameSubarray (a b : Nat) : Bool := bits a 10 14 = bits b 10 14 && bits a 33 7 = bits b 33 7

/-- The address of a row of a range. -/
def rowVaOf (base r : Nat) : Nat := base + 1024 * r

/-- What the check of R207 finds: the translations of the rows, source and destination, or what stops it, with the reads that it has taken. -/
inductive RowCheck where
  | ok (rows : List (Trans × Trans))
  | wait
  | fault (f : Flt)
  | fail (status result : Dword) (reads : List (Nat × Nat))

/-- The reads that the translations of rows have taken, each page once. -/
def rowReads (rows : List (Trans × Trans)) : List (Nat × Nat) := leafReads (rows.flatMap fun r => [r.1, r.2])

/-- Translates every row, source before destination, in row order. RZERO has destinations only. -/
def translateRows (s : State) (c : Command) : Nat → Nat → List (Trans × Trans) → RowCheck
  | 0, _, done => .ok done.reverse
  | fuel + 1, r, done =>
    let dst := engineLoc s c accStore (rowVaOf (c.param 1) r) 1024
    let src := if c.op = .rzero then dst else engineLoc s c accLoad (rowVaOf (c.param 0) r) 1024
    match src, dst with
    | .fault f, _ => .fault { f with reads := rowReads done ++ f.reads }
    | .wait, _ => .wait
    | .ok a, .fault f => .fault { f with reads := rowReads ((a, a) :: done) ++ f.reads }
    | .ok _, .wait => .wait
    | .ok a, .ok b =>
      if Config.hbmEnd ≤ a.loc || Config.hbmEnd ≤ b.loc then .fail (statusOf 4 0) (BitVec.ofNat 64 r) (rowReads ((a, b) :: done))
      else translateRows s c fuel (r + 1) ((a, b) :: done)

/-- The index of the first pair that does not share a subarray. -/
def firstSplit : Nat → List (Trans × Trans) → Option Nat
  | _, [] => none
  | r, p :: rest => if sameSubarray p.1.loc p.2.loc then firstSplit (r + 1) rest else some r

/-- Why a row command is refused without an access: the lowest SUB (R205, R207). Overlap is that of the virtual ranges (log 100). -/
def rowLimit (c : Command) : Option Nat :=
  let b := c.arg.toNat
  if b = 0 || 65536 < b then some 4
  else if c.op != .rzero && overlap (c.param 0) (1024 * b) (c.param 1) (1024 * b) then some 5
  else none

/-- The checks of R207 before any row moves. -/
def checkRows (s : State) (c : Command) : RowCheck :=
  match rowLimit c with
  | some sub => .fail (statusOf 1 sub) (Config.freeResult s.steps) []
  | none =>
    match translateRows s c c.arg.toNat 0 [] with
    | .ok rows =>
      match if c.op = .rcopys then firstSplit 0 rows else none with
      | some r => .fail (statusOf 3 0) (BitVec.ofNat 64 r) (rowReads rows)
      | none => .ok rows
    | x => x

/-- Copies a whole row inside the DRAM, once modified copies of its lines are written back: data, poison and correctable errors move together,
nothing is checked, and no cache keeps the destination (R207, R237). -/
def copyRow (s0 : State) (src dst : Nat) : State :=
  let s := s0.cleanL1 fun c => c.meets src 1024
  let s1 := copyRange s src dst 1024
  let moved := fun (p q : NatSet) => (p.filter fun k => src / 16 ≤ k && k < src / 16 + 64).foldl (fun q k => q.insert (k - src / 16 + dst / 16)) q
  { s1 with poison := moved s.poison s1.poison, softErrors := moved s.softErrors s1.softErrors }

/-- The key under which a row command keeps that the row buffer has lost the sector of a unit (R242). -/
def bufferKey (k : Nat) : Nat := 2 ^ 60 + k

/-- Copies a sector through the row buffer; poison goes with the data, and no cache keeps the destination (R207, R237). -/
def copySectorBytes (s : State) (src dst : Nat) (lostInBuffer : Bool) : State :=
  carryPoison (storeVia (s.noteRead src 32) true dst (s.loadBytes src 32)) dst (if lostInBuffer then List.range 32 else badBytes s src 32)

/-- Whether a row of a command changes whole, inside the DRAM. -/
def Command.rowInside (c : Command) (r : Nat) : Bool :=
  let p := c.pairs.getD r (0, 0)
  c.op = .rzero || sameSubarray p.1 p.2

/-- Unit k of a row command: sector k mod 32 of row k / 32; a row that moves inside the DRAM changes whole with its first sector. -/
def rowUnit (s : State) (c : Command) (k : Nat) : UnitEnd :=
  let p := c.pairs.getD (k / 32) (0, 0)
  let whole := c.rowInside (k / 32)
  let off := if whole then 0 else 32 * (k % 32)
  let n := if whole then 1024 else 32
  let lost := fun (acc : BitVec 2) (base : Nat) =>
    let va := BitVec.ofNat 64 (rowVaOf base (k / 32) + off)
    UnitEnd.fault (mkFault 0x15 0x05 va acc) va s
  if whole && k % 32 != 0 then .done s c
  else if heldBack s c.tid false (p.1 + off) n || heldBack s c.tid true (p.2 + off) n then .wait
  else if lineLost s (p.1 + off) n then lost accLoad (c.param 0)
  else if lineLost s (p.2 + off) n then lost accStore (c.param 1)
  else
    match sendOp s (enginePort c.die) c.tenant .row (.write []) (placeTrans (p.2 + off)) n with
    | none => .wait
    | some s =>
      if c.op = .rzero then .done (s.zeroRange p.2 1024) c
      else if whole then .done (copyRow s p.1 p.2) c
      else .done (copySectorBytes s (p.1 + off) (p.2 + off) (c.sectors.any fun x => x.line = bufferKey k)) c

/-- Sets the A and D bits of the pages of the rows, each translated once. -/
def markRows (s : State) (c : Command) (rows : List (Trans × Trans)) : State :=
  (if c.op = .rzero then s else s.markLeaves accLoad (rows.map (·.1))).markLeaves accStore (rows.map (·.2))

/-- The pages whose translations a row command keeps while its rows move (R120). -/
def rowPages (s : State) (c : Command) : List (Nat × Nat) :=
  let pages := fun (acc : BitVec 2) (k : Nat) => heldPages s c.agent acc (c.param k) (1024 * c.arg.toNat)
  (if c.op = .rzero then [] else pages accLoad 0) ++ pages accStore 1

/-- RESULT of a row command (R206): rows moved in the DRAM, and rows moved through a buffer. -/
def rowResult (c : Command) : Dword :=
  let inside := ((List.range c.pairs.length).filter c.rowInside).length
  BitVec.ofNat 64 (inside + 2 ^ 32 * (c.pairs.length - inside))

/-! ### CPY (R208) -/

/-- Bytes of a copy's sector k: where it starts from the range's first byte, and how many. -/
def copySector (dst b k : Nat) : Nat × Nat :=
  let lo := max dst (dst / 32 * 32 + 32 * k)
  let hi := min (dst / 32 * 32 + 32 * k + 32) (dst + b)
  (lo - dst, hi - lo)

/-- Whether CPY supports a location (R208): not a peer's. -/
def copies (l : Loc) : Bool := !isPeer l

/-- Why a copy is refused without an access: the lowest SUB (R205, R208). Overlap is that of the virtual ranges (log 100). -/
def copyLimit (c : Command) : Option Nat :=
  if 2 ^ 40 < c.arg.toNat then some 4
  else if c.arg != 0 && overlap (c.param 0) c.arg.toNat (c.param 1) c.arg.toNat then some 5
  else none

/-- The source of a copy, as its engine reads it. -/
def copySource (c : Command) : SectorRange := { number := 0, base := c.param 0, size := c.arg.toNat, ordered := false }

/-- Unit k of CPY: one naturally aligned sector of the destination. A source sector that two units share is read once (R205). -/
def copyUnit (s : State) (c : Command) (k : Nat) : UnitEnd :=
  let x := copySector (c.param 1) c.arg.toNat k
  let src := c.param 0 + x.1
  let dst := c.param 1 + x.1
  match readCarried s c (copySource c) src x.2 with
  | .fault f => .fault f f.va s
  | .wait => .wait
  | .ok r =>
    match enginePiece r.1 c accStore false dst x.2 with
    | .fault f => .fault f f.va s
    | .wait => .wait
    | .ok tr =>
      if !copies tr.loc || (enginePieces s c accLoad src x.2).any fun p => !copies p.1.loc then .fail (statusOf 4 0) (Config.freeResult s.steps) s
      else .done (putCarried r.1 c tr r.2.2.1 r.2.2.2) r.2.1

/-! ### VSTRM (R209) -/

/-- The element size of a stream. -/
def streamSize (c : Command) : Nat := 2 ^ bits (c.param 3) 0 4

/-- The checks of R209 before the first access: a status and what RESULT gets. -/
def checkStream (s : State) (c : Command) : Option (Dword × Dword) :=
  let off := c.param 2 - Config.spadBase
  let n := c.arg.toNat * streamSize c
  let free := Config.freeResult s.steps
  if bits (c.param 3) 0 4 < 2 || 8 < bits (c.param 3) 0 4 then some (statusOf 1 4, free)
  else if c.param 2 < Config.spadBase || Config.spadBytes ≤ off then some (statusOf 4 0, free)
  else if Config.spadBytes < off + n then some (statusOf 1 4, free)
  else if n != 0 && (off < c.spadLo || c.spadLo + c.spadLen < off + n) then
    some (statusOf 2 2, BitVec.ofNat 64 (Config.spadBase + (if off < c.spadLo then off else max off (c.spadLo + c.spadLen))))
  else none

/-- A number out of reach of a stream's checks: the lowest SUB (R205, R209). -/
def streamLimit (c : Command) : Option Nat :=
  let off := c.param 2 - Config.spadBase
  if bits (c.param 3) 0 4 < 2 || 8 < bits (c.param 3) 0 4 ||
    (Config.spadBase ≤ c.param 2 && off < Config.spadBytes && Config.spadBytes < off + c.arg.toNat * streamSize c) then some 4
  else none

/-- The index list of a stream, as its engine reads it. -/
def streamList (c : Command) : SectorRange := { number := 0, base := c.param 0, size := 4 * c.arg.toNat, ordered := true }

/-- The source of a stream, as its engine reads it: sectors anywhere, each whole and once, whatever elements lie in it (R205, log 45). -/
def streamData : SectorRange := { number := 1, base := 0, size := 2 ^ 64, ordered := true }

/-- Element i of a stream: its source address, from its index; none where the index is poisoned. -/
def streamSource (s : State) (c : Command) (i : Nat) : Res (State × Command × Option Nat) :=
  (readCarried s c (streamList c) (c.param 0 + 4 * i) 4).bind fun r =>
    .ok (r.1, r.2.1, if r.2.2.2.isEmpty then some ((c.param 1 + leNat r.2.2.1 * 2 ^ bits (c.param 3) 8 4) % 2 ^ 64) else none)

/-- The bytes of a chunk of a stream: an element, or 32 bytes of one that is larger. A chunk lies in one sector of the source. -/
def chunkSize (c : Command) : Nat := min (streamSize c) 32

/-- What reading a chunk of a stream gives: its bytes and the positions of poisoned ones, or what stops it. -/
inductive ChunkEnd where
  | ok (s : State) (c : Command) (bytes : List Byte) (bad : List Nat)
  | wait
  | fault (f : Flt)
  | fail (status : Dword)

/-- Chunk m of a stream, from its sector of the source. -/
def readChunk (s : State) (c : Command) (m : Nat) : ChunkEnd :=
  let n := chunkSize c
  let i := m * n / streamSize c
  match streamSource s c i with
  | .fault f => .fault f
  | .wait => .wait
  | .ok (_, _, none) => .fault (mkFault 0x15 0x01 (BitVec.ofNat 64 (c.param 0 + 4 * i)) accLoad)
  | .ok (s1, d, some src) =>
    if src % streamSize c != 0 then .fail (statusOf 1 3)
    else
      match readCarried s1 d streamData (src + m * n % streamSize c) n with
      | .fault f => .fault f
      | .wait => .wait
      | .ok x => .ok x.1 x.2.1 x.2.2.1 x.2.2.2

/-- The bytes of a stream, counted from its first, that unit k writes: those of one aligned sector of the destination. -/
def streamPart (c : Command) (k : Nat) : Nat × Nat :=
  let p := c.param 2 % 32
  (32 * k - p, min (32 * (k + 1) - p) (c.arg.toNat * streamSize c))

/-- What a unit of a stream has gathered: the machine, the command, the bytes and the positions of poisoned ones, and how the chunk that stops it
ends, with the index of its element. -/
structure Gather where
  s     : State
  c     : Command
  bytes : List Byte
  bad   : List Nat
  stop  : Option (ChunkEnd × Nat)

/-- Gathers chunks of a unit whose bytes go from `lo` to `hi`. -/
def gatherChunks (lo hi : Nat) : List Nat → Gather → Gather
  | [], g => g
  | m :: r, g =>
    let n := chunkSize g.c
    match readChunk g.s g.c m with
    | .ok s c bytes bads =>
      let from_ := max lo (m * n)
      let k := min hi (m * n + n) - from_
      let part := (bytes.drop (from_ - m * n)).take k
      let bad := (bads.filter fun j => from_ - m * n ≤ j && j < from_ - m * n + k).map fun j => m * n + j - lo
      gatherChunks lo hi r { s := s, c := c, bytes := g.bytes ++ part, bad := g.bad ++ bad, stop := none }
    | e => { g with stop := some (e, m * n / streamSize g.c) }

/-- The granules of a stream's bytes become full (R158): those that end at or below `hi`, or all of them where the unit is whole. A granule that a
failing unit has written in part stays empty, which R158 and R209 leave open (log 93). -/
def fillStream (s : State) (c : Command) (lo hi : Nat) (whole : Bool) : State :=
  let first := (spadLoc c.core (c.param 2 - Config.spadBase) + lo) / 16
  let count := (if whole then ceilDiv hi 16 else hi / 16) - lo / 16
  { s with full := ((List.range count).map (first + ·)).foldl NatSet.insert s.full }

/-- Writes the first bytes of a unit of a stream, which start at `lo`. -/
def writeStream (s : State) (c : Command) (lo : Nat) (bytes : List Byte) (bad : List Nat) (whole : Bool) : State :=
  if bytes.isEmpty then s
  else
    let l := spadLoc c.core (c.param 2 - Config.spadBase + lo)
    fillStream (carryPoison (s.storeBytes l bytes) l bad) c lo (lo + bytes.length) whole

/-- The bytes of unit k of a stream that come before a byte counted from the stream's first, gathered and written as one access. `whole` tells
that they are all of the unit. Where an element ends the command, those before it are written (R209). -/
def streamTo (s : State) (c : Command) (k hi : Nat) (whole : Bool) : UnitEnd :=
  let lo := (streamPart c k).1
  let n := chunkSize c
  let ms := (List.range (ceilDiv hi n)).drop (lo / n)
  let g := gatherChunks lo hi ms { s := s, c := c, bytes := [], bad := [], stop := none }
  let ended := writeStream g.s c lo g.bytes g.bad false
  match g.stop with
  | some (.fault f, i) => .fault f (BitVec.ofNat 64 i) ended
  | some (.fail status, i) => .fail status (BitVec.ofNat 64 i) ended
  | some _ => .wait
  | none => .done (writeStream g.s c lo g.bytes g.bad whole) g.c

/-- Unit k of VSTRM: one aligned sector of the destination, written as one access (R205, R244). -/
def streamUnit (s : State) (c : Command) (k : Nat) : UnitEnd := streamTo s c k (streamPart c k).2 true

/-- The element of a stream whose access has an address: the lowest whose index, or a chunk of which, lies in the sector there. -/
def streamElement (s : State) (c : Command) (va : Dword) : Option Nat :=
  let n := chunkSize c
  ((List.range (c.arg.toNat * streamSize c / n)).find? fun m =>
    let i := m * n / streamSize c
    (c.param 0 + 4 * i) / 32 = va.toNat / 32 || match streamSource s c i with
      | .ok (_, _, some src) => decide ((src + m * n % streamSize c) / 32 = va.toNat / 32)
      | _ => false).map fun m => m * n / streamSize c

/-- Whether a unit is done. -/
def Command.unitDone (c : Command) (k : Nat) : Bool := k < c.next || c.early.mem k

/-! ### Units -/

/-- Whether a command works in units. -/
def EngOp.inUnits (op : EngOp) : Bool := op = .rcopy || op = .rcopys || op = .rzero || op = .cpy || op = .vstrm

/-- How many units a command has. -/
def unitCount (c : Command) : Nat :=
  match c.op with
  | .cpy => if c.arg = 0 then 0 else ceilDiv (c.param 1 % 32 + c.arg.toNat) 32
  | .vstrm => if c.arg = 0 then 0 else ceilDiv (c.param 2 % 32 + c.arg.toNat * streamSize c) 32
  | _ => 32 * c.pairs.length

/-- One unit. -/
def doUnit (s : State) (c : Command) (k : Nat) : UnitEnd :=
  match c.op with
  | .cpy => copyUnit s c k
  | .vstrm => streamUnit s c k
  | _ => rowUnit s c k

/-- Removes from the early units those that follow the next one without a gap. -/
def settleUnits : Nat → Command → Command
  | 0, c => c
  | fuel + 1, c => if c.early.mem c.next then settleUnits fuel { c with next := c.next + 1, early := c.early.remove c.next } else c

/-- A command with one more unit done. -/
def Command.markUnit (c : Command) (k : Nat) : Command :=
  if k = c.next then settleUnits c.early.length { c with next := c.next + 1 } else { c with early := c.early.insert k }

/-- The unit of a stream that writes a byte counted from its first. -/
def streamUnitOf (c : Command) (off : Nat) : Nat := (c.param 2 % 32 + off) / 32

/-- The units, first and last, that take bytes of what a command keeps: a sector of a copy's source, or a sector that the row buffer has lost. -/
def sectorUnits (c : Command) (x : Sector) : Nat × Nat :=
  if c.op = .cpy then
    let p := sectorPart (c.param 0) c.arg.toNat x.line
    let unit := fun off : Nat => (c.param 1 + off) / 32 - c.param 1 / 32
    (unit (p.1 - c.param 0), unit (p.1 - c.param 0 + p.2 - 1))
  else (x.line - bufferKey 0, x.line - bufferKey 0)

/-- The command without the sectors whose units are all done. A stream, whose later elements may lie in any sector, keeps all. -/
def Command.dropSectors (c : Command) : Command :=
  { c with sectors := c.sectors.filter fun x =>
      let u := sectorUnits c x
      c.op = .vstrm || (List.range (u.2 - u.1 + 1)).any fun j => !c.unitDone (u.1 + j) }

/-- RESULT of a command that has done all its units (R206). -/
def unitResult (c : Command) : Dword :=
  match c.op with
  | .cpy | .vstrm => c.arg
  | _ => rowResult c

/-- Runs units in ascending order until one cannot go on; none when nothing moves. -/
def runUnits : Nat → State → Command → Bool → Option State
  | 0, s, c, _ => some (finishWith s c 0 (unitResult c))
  | fuel + 1, s, c, moved =>
    if unitCount c ≤ c.next then some (finishWith s c 0 (unitResult c))
    else
      match doUnit s c c.next with
      | .done s1 c1 => runUnits fuel s1 (c1.markUnit c.next).dropSectors true
      | .wait => if moved then some (s.setCommand c) else none
      | .fault f result ended => engineFault ((if c.endsBy f then ended else s).setCommand c) c f result
      | .fail status result ended => some (failAt (ended.setCommand c) c status result)

/-- The end of a stream at an element that has failed: the elements below it are written first (R209). -/
def endStream (status : Dword) (i : Nat) : Nat → State → Command → Option State
  | 0, s, c => some (finishWith s c status (BitVec.ofNat 64 i))
  | fuel + 1, s, c =>
    let hi := i * streamSize c
    let p := streamPart c c.next
    let last := hi ≤ p.2
    if hi ≤ p.1 then some (finishWith s c status (BitVec.ofNat 64 i))
    else
      match if last then streamTo s c c.next hi false else streamUnit s c c.next with
      | .done s1 c1 =>
        if last then some (finishWith s1 c1 status (BitVec.ofNat 64 i)) else endStream status i fuel s1 (c1.markUnit c.next).dropSectors
      | .wait => none
      | .fault f result ended => engineFault ((if c.endsBy f then ended else s).setCommand c) c f result
      | .fail status result ended => some (failAt (ended.setCommand c) c status result)

/-- Whether a page of a unit is strongly ordered, so that it waits for the units before it (R247, R248). The sectors of a stream are read in address
order by themselves. -/
def unitOrdered (s : State) (c : Command) (k : Nat) : Bool :=
  match c.op with
  | .cpy =>
    let x := copySector (c.param 1) c.arg.toNat k
    strongAt s c accLoad (c.param 0 + x.1) x.2 || strongAt s c accStore (c.param 1 + x.1) x.2
  | .vstrm => false
  | _ => strongAt s c accLoad (rowVaOf (c.param 0) (k / 32)) 1024 || strongAt s c accStore (rowVaOf (c.param 1) (k / 32)) 1024

/-- The sectors of a stream's source that its elements lie in and that are still to be read. -/
def streamSectors (s : State) (c : Command) : List (SectorRange × Nat) :=
  let n := chunkSize c
  let sectors := (List.range (c.arg.toNat * streamSize c / n)).filterMap fun m =>
    match streamSource s c (m * n / streamSize c) with
    | .ok (_, _, some src) => if src % streamSize c = 0 then some ((src + m * n % streamSize c) / 32 * 32) else none
    | _ => none
  (sectors.eraseDups.filter fun va => !c.sectors.any fun x => x.line = streamData.key va).map fun va => (streamData, va)

/-- What a stream reads ahead of its units: its index list, each sector as soon as its bytes are free; then, once no index is left to read, the
sectors of the source on strongly ordered pages, in ascending address order (R247, log 45). An access whose fault ends the command is left to the
unit that needs it. -/
def readStream (s : State) (c : Command) : OrderedReads :=
  let a := gather s c true [streamList c]
  if a.flt.isSome || !(missing a.c [streamList c]).isEmpty then a
  else
    let b := readStrong a.s a.c (streamSectors a.s a.c)
    { b with moved := a.moved || b.moved }

/-- Whether a row waits for an earlier row of its bank (R237: in row order). -/
def bankOrdered (c : Command) (k : Nat) : Bool :=
  !(c.op = .cpy || c.op = .vstrm) &&
    (List.range (k / 32)).any fun r => ((List.range 32).any fun j => !c.unitDone (32 * r + j)) &&
      bits (c.pairs.getD r (0, 0)).2 10 14 = bits (c.pairs.getD (k / 32) (0, 0)).2 10 14

/-- A unit that the engine takes out of order (R205, R209: in any order). -/
def earlyUnit (s : State) (c : Command) (k : Nat) : State :=
  if c.unitDone k || unitCount c ≤ k || unitOrdered s c k || bankOrdered c k then s
  else
    match doUnit s c k with
    | .done s1 c1 => s1.setCommand (c1.markUnit k).dropSectors
    | _ => s

/-- The work of a command in units, from its checks on. -/
def unitWork (s : State) (c : Command) : Option State :=
  match c.op with
  | .cpy =>
    match copyLimit c with
    | some sub => some (failAt s c (statusOf 1 sub) (Config.freeResult s.steps))
    | none => runUnits (unitCount c + 1 - c.next) s c false
  | .vstrm =>
    match checkStream s c with
    | some x => some (failAt s c x.1 x.2)
    | none =>
      let r := readStream s c
      match r.flt with
      | some f => engineFault (r.s.setCommand r.c) r.c f (BitVec.ofNat 64 0)
      | none => runUnits (unitCount c + 1 - c.next) r.s r.c r.moved
  | _ =>
    if c.pairs.isEmpty then
      match checkRows s c with
      | .wait => none
      | .fault f => engineFault s c f f.va
      | .fail st result reads => some (failAt (s.noteReads reads) c st result)
      | .ok rows =>
        some ((markRows s c rows).setCommand { c with pairs := rows.map fun r => (r.1.loc, r.2.loc), pages := rowPages s c })
    else runUnits (unitCount c + 1 - c.next) s c false

end Sys2Proof.Machine
end

