-- ==== Sys2Proof/Machine/Routing.lean ====
section
/-! DEFINITION. The routing commands (R210, R305, R306): RHIST, RSCAN, RSORT, RCOMB. Each reads its lists, and then copies, combines and writes,
sector by sector, each as soon as its own bytes are free (R262, log 45). -/

namespace Sys2Proof.Machine

/-! ### The shape and the lists (R210) -/

def routeE (c : Command) : Nat := bits (c.param 5) 0 16
def routeK (c : Command) : Nat := bits (c.param 5) 16 4
def routeRow (c : Command) : Nat := bits (c.param 5) 32 16 * 64
def routeCap (c : Command) : Nat := bits (c.param 5) 48 16

/-- Whether the shape's counts lie in their ranges. -/
def shapeOk (c : Command) : Bool :=
  1 ≤ routeE c && routeE c ≤ 4096 && 1 ≤ routeK c && routeK c ≤ 8 && routeRow c != 0

/-- The numbers of w bytes that a byte string holds. -/
def natsOf (w n : Nat) (bs : List Byte) : List Nat := (List.range n).map fun k => leNat ((bs.drop (w * k)).take w)

/-- The bytes of numbers of w bytes. -/
def bytesOf (w : Nat) (xs : List Nat) : List Byte := xs.flatMap (leBytes w)

/-- EXPERT and GATE of a route entry. -/
def routeExpert (x : Nat) : Nat := bits x 32 16
def routeGate (x : Nat) : Nat := bits x 0 32

/-- A route entry with another gate. -/
def withGate (x g : Nat) : Nat := x - routeGate x + g

/-- A merged route entry: EXPERT 0xFFFF, GATE 0. -/
def mergedEntry (x : Nat) : Nat := x / 2 ^ 48 * 2 ^ 48 + 0xFFFF * 2 ^ 32

/-- The index of the first entry whose EXPERT is E or more and not 0xFFFF. -/
def badRoute (e : Nat) (xs : List Nat) : Option Nat := xs.findIdx? fun x => e ≤ routeExpert x && routeExpert x != 0xFFFF

/-- RoundFP32 of a sum (RNE). -/
def addFp32 (a b : Nat) : Nat := (encodeFp fp32 0 (addFp 0 (decodeIeee fp32 a) (decodeIeee fp32 b)).1).1

/-- RoundFP32(acc + g × y) with one rounding (RNE). -/
def fmaFp32 (acc g y : Nat) : Nat :=
  (encodeFp fp32 0 (addFp 0 (decodeIeee fp32 acc) (mulFp (decodeIeee fp32 g) (decodeIeee fp32 y)).1).1).1

/-- The route list's length in entries. -/
def routeCount (c : Command) : Nat := c.arg.toNat * routeK c

/-- The routes of token t. -/
def routesOf (c : Command) (xs : List Nat) (t : Nat) : List Nat := (xs.drop (t * routeK c)).take (routeK c)

/-! ### What is left to do -/

/-- How many aligned sectors n bytes from an address on touch. -/
def sectorCount (va n : Nat) : Nat := if n = 0 then 0 else ceilDiv (va % 32 + n) 32

/-- The sectors of a copy of n bytes. -/
def sectorCopies (src dst n : Nat) : List RouteItem :=
  (List.range (sectorCount dst n)).map fun k =>
    let x := copySector dst n k
    .copy (src + x.1) (dst + x.1) x.2

/-- The sectors of bytes to be written at an address. -/
def sectorWrites (va : Nat) (bs : List Byte) : List RouteItem :=
  (List.range (sectorCount va bs.length)).map fun k =>
    let x := copySector va bs.length k
    .write (va + x.1) ((bs.drop x.1).take x.2)

/-- The bytes of RCOMB's output rows. -/
def outSize (c : Command) : Nat := c.arg.toNat * routeRow c

/-- The output rows of RCOMB, as its engine reads them. -/
def outRows (c : Command) : SectorRange := { number := 1, base := c.param 3, size := outSize c, ordered := false }

/-- The rows that a routing command copies or combines, as its engine reads them: the token rows of RSORT, the slot rows of RCOMB. -/
def sourceRows (c : Command) (p : RoutePlan) : SectorRange :=
  { number := 0, base := c.param 2
    size := if c.op = .rcomb then (p.live.foldl (fun m r => r.foldl (fun m x => max m (x.1 + 1)) m) 0) * routeRow c else outSize c
    ordered := true }

/-- The bytes that an item writes: first address and count. -/
def RouteItem.target (c : Command) : RouteItem → Nat × Nat
  | .copy _ dst n => (dst, n)
  | .combine line => sectorPart (c.param 3) (outSize c) line
  | .write va bs => (va, bs.length)

/-- The elements of the output rows that share a byte with a sector, counted from the first of all. -/
def outElements (c : Command) (line : Nat) : List Nat :=
  let p := sectorPart (c.param 3) (outSize c) line
  (List.range ((p.1 + p.2 - 1 - c.param 3) / 4 + 1)).drop ((p.1 - c.param 3) / 4)

/-- The places of the slot rows that an element of the output rows takes: address and gate (R210). -/
def elementRoutes (c : Command) (p : RoutePlan) (e : Nat) : List (Nat × Nat) :=
  let n := routeRow c / 4
  (p.live.getD (e / n) []).map fun x => (c.param 2 + x.1 * routeRow c + 4 * (e % n), x.2)

/-- The bytes that an item reads, each as a range, an address and a count. -/
def RouteItem.sources (c : Command) (p : RoutePlan) : RouteItem → List (SectorRange × Nat × Nat)
  | .copy src _ n => [(sourceRows c p, src, n)]
  | .combine line => (outElements c line).flatMap fun e =>
      (outRows c, c.param 3 + 4 * e, 4) :: (elementRoutes c p e).map fun x => (sourceRows c p, x.1, 4)
  | .write _ _ => []

/-- Reads an FP32 element of a range; a poisoned one is consumed. -/
def readElement (s : State) (c : Command) (r : SectorRange) (va : Nat) : Res (State × Command × Nat) :=
  (readCarried s c r va 4).bind fun x =>
    if x.2.2.2.isEmpty then .ok (x.1, x.2.1, leNat x.2.2.1) else .fault (mkFault 0x15 0x01 (BitVec.ofNat 64 va) accLoad)

/-- One element of the output rows with its routes added, best first (R210). -/
def combineElement (s : State) (c : Command) (p : RoutePlan) (e : Nat) : Res (State × Command × Nat) :=
  (elementRoutes c p e).foldl (fun (r : Res (State × Command × Nat)) x => r.bind fun a =>
      (readElement a.1 a.2.1 (sourceRows c p) x.1).bind fun y => .ok (y.1, y.2.1, fmaFp32 a.2.2 x.2 y.2.2))
    (readElement s c (outRows c) (c.param 3 + 4 * e))

/-- Elements of the output rows with their routes added, as bytes. -/
def combineElements (p : RoutePlan) : List Nat → State → Command → Res (State × Command × List Byte)
  | [], s, c => .ok (s, c, [])
  | e :: r, s, c => (combineElement s c p e).bind fun a =>
      (combineElements p r a.1 a.2.1).bind fun b => .ok (b.1, b.2.1, leBytes 4 a.2.2 ++ b.2.2)

/-- One item. The sectors that several items read are kept (R205). -/
def doItem (p : RoutePlan) (s : State) (c : Command) (x : RouteItem) : Res (State × Command) :=
  let at_ := x.target c
  let put := fun (s : State) (bytes : List Byte) (bad : List Nat) =>
    (enginePiece s c accStore false at_.1 at_.2).bind fun tr => .ok (putCarried s c tr bytes bad)
  match x with
  | .copy src _ n => (readCarried s c (sourceRows c p) src n).bind fun r => (put r.1 r.2.2.1 r.2.2.2).bind fun s1 => .ok (s1, r.2.1)
  | .combine line =>
    let es := outElements c line
    let off := at_.1 - (c.param 3 + 4 * es.headD 0)
    (combineElements p es s c).bind fun r => (put r.1 ((r.2.2.drop off).take at_.2) []).bind fun s1 => .ok (s1, r.2.1)
  | .write _ bs => (put s bs []).bind fun s1 => .ok (s1, c)

/-- A plan under way: the machine, the command, whether something has moved, and the fault that stops it. -/
abbrev PlanRun := OrderedReads

/-- Whether an item waits for others of a plan that write strongly ordered pages at lower addresses (R247). -/
def itemOrdered (s : State) (c : Command) (x : RouteItem) (others : List RouteItem) : Bool :=
  let strong := fun y : RouteItem => strongAt s c accStore (y.target c).1 (y.target c).2
  strong x && others.any fun y => (y.target c).1 < (x.target c).1 && strong y

/-- Does the items of a list that may go, up to a fault; answers those left. `before` are those left that stand before them. -/
def runItems (p : RoutePlan) : List RouteItem → List RouteItem → PlanRun → PlanRun × List RouteItem
  | before, [], r => (r, before)
  | before, x :: rest, r =>
    if r.flt.isSome then (r, before ++ x :: rest)
    else if itemOrdered r.s r.c x (before ++ rest) then runItems p (before ++ [x]) rest r
    else
      match doItem p r.s r.c x with
      | .ok y => runItems p before rest { s := y.1, c := y.2, moved := true, flt := none }
      | .wait => runItems p (before ++ [x]) rest r
      | .fault e => ({ r with flt := some e }, before ++ x :: rest)

/-- The sectors of a plan's source rows that are still to be read. -/
def sourceSectors (c : Command) (p : RoutePlan) : List (SectorRange × Nat) :=
  let keys := p.items.flatMap fun x => ((x.sources c p).filter fun y => y.1.ordered).flatMap fun y => sectorsOf y.1 y.2.1 y.2.2
  (keys.eraseDups.filter fun k => !c.sectors.any fun x => x.line = k.1).map fun k => (sourceRows c p, k.2)

/-- Counts dropped tokens in the EXPOVF register of the engine's die (R306). -/
def countDropped (s : State) (c : Command) (n : Nat) : State :=
  let v := field (s.mreg c.die (offExpovf c.tenant)) 0 48
  if n = 0 then s else s.setMreg c.die (offExpovf c.tenant) (BitVec.ofNat 64 (min (v + n) (2 ^ 48 - 1)))

/-- The sectors that items to come still use. -/
def neededSectors (c : Command) (p : RoutePlan) (items : List RouteItem) : List Sector :=
  let keys := items.flatMap fun x => (x.sources c p).flatMap fun y => (sectorsOf y.1 y.2.1 y.2.2).map (·.1)
  c.sectors.filter fun x => keys.elem x.line

/-- A routing command goes on with its plan, or none when nothing moves. -/
def runPlan (s : State) (c : Command) (p : RoutePlan) : Option State :=
  let a := readStrong s c (sourceSectors c p)
  let w := runItems p [] p.items a
  let d := { w.1.c with plan := some { p with items := w.2 }, sectors := neededSectors w.1.c p w.2 }
  let moved := if w.1.moved then some (w.1.s.setCommand d) else none
  match w.1.flt with
  | some f => (engineFault (w.1.s.setCommand d) d f f.va).orElse fun _ => moved
  | none => if w.2.isEmpty then some (finishWith (countDropped w.1.s d p.dropped) d 0 p.result) else moved

/-- The first list of a routing command, as its engine reads it: the route list, or RSCAN's histogram. -/
def firstList (c : Command) : SectorRange :=
  { number := 2, base := c.param 0, size := if c.op = .rscan then 4 * routeE c else 8 * routeCount c, ordered := true }

/-- The second list of RSORT and RCOMB: the offsets, or the inverse table. -/
def secondList (c : Command) : SectorRange :=
  { number := 3, base := c.param 1, size := if c.op = .rsort then 4 * (routeE c + 1) else 4 * routeCount c, ordered := true }

/-- The lists that a routing command reads before it has its plan. -/
def routeLists (c : Command) : List SectorRange :=
  if c.op = .rsort || c.op = .rcomb then [firstList c, secondList c] else [firstList c]

/-- The route list that a command has read. -/
def routeList (c : Command) : List Nat := natsOf 8 (routeCount c) (gathered c (firstList c))

/-- A command has its plan. -/
def plan (s : State) (c : Command) (p : RoutePlan) : Option State := some (s.setCommand { c with plan := some p, sectors := [] })

/-! ### RHIST and RSCAN -/

/-- hist(e): tokens that have expert e in some entry. -/
def histogram (c : Command) (xs : List Nat) : List Nat :=
  (List.range (routeE c)).map fun e =>
    ((List.range c.arg.toNat).filter fun t => (routesOf c xs t).any fun x => routeExpert x = e).length

/-- RHIST, with its list read. -/
def routeHist (s : State) (c : Command) : Option State :=
  let xs := routeList c
  match badRoute (routeE c) xs with
  | some i => some (failAt s c (statusOf 1 4) (BitVec.ofNat 64 i))
  | none =>
    let h := histogram c xs
    plan s c { items := sectorWrites (c.param 1) (bytesOf 4 h), live := [], result := BitVec.ofNat 64 h.sum, dropped := 0 }

/-- off(0) … off(E) from a count on. -/
def offsets (cap : Nat) : Nat → List Nat → List Nat
  | o, [] => [o]
  | o, h :: r => o :: offsets cap (o + if cap = 0 then h else min h cap) r

/-- RSCAN, with its histogram read. -/
def routeScan (s : State) (c : Command) : Option State :=
  let offs := offsets (routeCap c) 0 (natsOf 4 (routeE c) (gathered c (firstList c)))
  plan s c { items := sectorWrites (c.param 1) (bytesOf 4 offs), live := [],
             result := BitVec.ofNat 64 (offs.getLastD 0 % 2 ^ 32), dropped := 0 }

/-! ### RSORT -/

/-- What RSORT has worked out: entries, inverse table and mask bits in reverse order, fill counts, copies (token row, slot row), and
the counts of RESULT. -/
structure SortPass where
  entries : List Nat
  inv     : List Nat
  mask    : List Bool
  fill    : Sparse Nat
  copies  : List (Nat × Nat)
  dropped : Nat
  merged  : Nat

/-- The entries of one token so far: its entries with merged gates, its inverses, whether a slot was got and whether a route was
found. -/
structure TokenPass where
  pass : SortPass
  row  : List Nat
  inv  : List Nat
  got  : Bool
  any  : Bool

/-- Entry j of token t (R210). `asRead` are the token's entries as read. -/
def sortEntry (off : List Nat) (asRead : List Nat) (t : Nat) (p : TokenPass) (j : Nat) : TokenPass :=
  let x := p.row.getD j 0
  let e := routeExpert (asRead.getD j 0)
  if e = 0xFFFF then { p with inv := p.inv ++ [0xFFFFFFFF] }
  else
    match (asRead.take j).findIdx? fun y => routeExpert y = e with
    | some f =>
      let y := p.row.getD f 0
      { p with
        pass := { p.pass with merged := p.pass.merged + 1 }
        row := (p.row.set f (withGate y (addFp32 (routeGate y) (routeGate x)))).set j (mergedEntry x)
        inv := p.inv ++ [0xFFFFFFFE]
        any := true }
    | none =>
      let n := Sparse.get 0 p.pass.fill e
      let s := off.getD e 0 + n
      if s < off.getD (e + 1) 0 then
        { p with
          pass := { p.pass with fill := Sparse.set 0 p.pass.fill e (n + 1), copies := p.pass.copies ++ [(t, s)] }
          inv := p.inv ++ [s]
          got := true
          any := true }
      else { p with inv := p.inv ++ [0xFFFFFFFF], any := true }

/-- Token t. -/
def sortToken (c : Command) (off xs : List Nat) (p : SortPass) (t : Nat) : SortPass :=
  let row := routesOf c xs t
  let q := (List.range (routeK c)).foldl (sortEntry off row t) { pass := p, row := row, inv := [], got := false, any := false }
  let dropped := q.any && !q.got
  { q.pass with
    entries := q.pass.entries ++ q.row
    inv := q.pass.inv ++ q.inv
    mask := q.pass.mask ++ [dropped]
    dropped := q.pass.dropped + if dropped then 1 else 0 }

/-- The doublewords of the overflow mask. -/
def maskBytes (bs : List Bool) : List Byte :=
  let n := bs.foldr (fun b acc => 2 * acc + if b then 1 else 0) 0
  leBytes (8 * ceilDiv bs.length 64) n

/-- Where the overflow mask lies (R210). -/
def maskVa (c : Command) : Nat := ceilDiv (c.param 4 + 4 * routeCount c) 8 * 8

/-- What RSORT has to do. -/
def sortPlan (c : Command) (q : SortPass) : RoutePlan :=
  let n := routeRow c
  { items := (q.copies.flatMap fun p => sectorCopies (c.param 2 + p.1 * n) (c.param 3 + p.2 * n) n) ++
      sectorWrites (c.param 0) (bytesOf 8 q.entries) ++ sectorWrites (c.param 4) (bytesOf 4 q.inv) ++
      sectorWrites (maskVa c) (maskBytes q.mask)
    live := []
    result := BitVec.ofNat 64 (q.dropped % 2 ^ 32 + q.merged % 2 ^ 32 * 2 ^ 32)
    dropped := q.dropped }

/-- RSORT, with its lists read. -/
def routeSort (s : State) (c : Command) : Option State :=
  let xs := routeList c
  match badRoute (routeE c) xs with
  | some i => some (failAt s c (statusOf 1 4) (BitVec.ofNat 64 i))
  | none =>
    let q := (List.range c.arg.toNat).foldl (sortToken c (natsOf 4 (routeE c + 1) (gathered c (secondList c))) xs)
      { entries := [], inv := [], mask := [], fill := [], copies := [], dropped := 0, merged := 0 }
    plan s c (sortPlan c q)

/-! ### RCOMB -/

/-- The live routes of token t: slot row and gate. -/
def liveRoutes (c : Command) (xs inv : List Nat) (t : Nat) : List (Nat × Nat) :=
  ((routesOf c inv t).zip (routesOf c xs t)).filterMap fun p => if p.1 < 0xFFFFFFFE then some (p.1, routeGate p.2) else none

/-- RCOMB, with its lists read. -/
def routeComb (s : State) (c : Command) : Option State :=
  let inv := natsOf 4 (routeCount c) (gathered c (secondList c))
  plan s c { items := (List.range (sectorCount (c.param 3) (outSize c))).map fun k => .combine (c.param 3 / 32 + k),
             live := (List.range c.arg.toNat).map (liveRoutes c (routeList c) inv), result := c.arg, dropped := 0 }

/-- Whether a command is a routing command. -/
def EngOp.routes (op : EngOp) : Bool := op = .rhist || op = .rscan || op = .rsort || op = .rcomb

/-- A routing command works out its plan from its lists. -/
def planRoutes (s : State) (c : Command) : Option State :=
  match c.op with
  | .rhist => routeHist s c
  | .rscan => routeScan s c
  | .rsort => routeSort s c
  | _ => routeComb s c

/-- A routing command goes on reading its lists, each sector as soon as its bytes are free (R262); with all of them read it works out its plan.
Poison in a list is consumed (R334). -/
def readLists (s : State) (c : Command) : Option State :=
  let r := gather s c false (routeLists c)
  let moved := if r.moved then some (r.s.setCommand r.c) else none
  match r.flt with
  | some f => (engineFault (r.s.setCommand r.c) r.c f f.va).orElse fun _ => moved
  | none =>
    if !(missing r.c (routeLists c)).isEmpty then moved
    else
      match (routeLists c).findSome? (firstPoison r.c) with
      | some va => engineFault r.s r.c (mkFault 0x15 0x01 (BitVec.ofNat 64 va) accLoad) (BitVec.ofNat 64 va)
      | none => planRoutes r.s r.c

/-- The work of a routing command. -/
def routeWork (s : State) (c : Command) : Option State :=
  if !shapeOk c then some (failAt s c (statusOf 1 4) (Config.freeResult s.steps))
  else
    match c.plan with
    | some p => runPlan s c p
    | none => readLists s c

end Sys2Proof.Machine
end

