-- ==== Sys2Proof/Machine/Commands.lean ====
section
/-! DEFINITION. Engine commands from issue to collection (R201 to R206, R211 to R214, R276, R316, R317). -/

namespace Sys2Proof.Machine

/-! ### The parameter block (R204 to R206) -/

/-- The expert that a command names, an n16: b[15:0] (R211, R213, log 48). -/
def Command.expertId (c : Command) : BitVec 16 := c.arg.extractLsb' 0 16

/-- Whether an EXPPOLL takes any expert's entry: the tenant has a table, and b is 0xFFFF (R213, R316). -/
def Command.polls (s : State) (c : Command) : Bool := field (s.mreg 0 (offErtcfg c.tenant)) 12 45 != 0 && c.expertId = 0xFFFF

/-- The op of a command's block. -/
def EngOp.code : EngOp → Nat
  | .rcopy => 0 | .rcopys => 1 | .rzero => 2 | .cpy => 3 | .vstrm => 4 | .rhist => 5 | .rscan => 6 | .rsort => 7 | .rcomb => 8
  | .expq => 9 | .exppark => 10 | .exppoll => 11 | .exprel => 12 | .pgreq => 13 | .tlaunch => 14

/-- Parameters that must be 0 (R206, R213). -/
def EngOp.reserved : EngOp → List Nat
  | .rcopy | .rcopys | .cpy | .rhist | .rscan => [2, 3, 4]
  | .rzero => [0, 2, 3, 4]
  | .vstrm | .rcomb => [4]
  | .exppark => [3, 4]
  | _ => []

/-- Parameters that must be multiples (R207, R209, R210). -/
def EngOp.aligned : EngOp → List (Nat × Nat)
  | .rcopy | .rcopys => [(0, 1024), (1, 1024)]
  | .rzero => [(1, 1024)]
  | .vstrm => [(0, 4), (2, 16)]
  | .rhist | .rcomb => [(0, 8), (1, 4)]
  | .rscan => [(0, 4), (1, 4)]
  | .rsort => [(0, 8), (1, 4), (4, 4)]
  | _ => []

/-- Bits of the block that must be 0 beyond the reserved parameters (R204, R206, R209, R210). -/
def reservedBits (c : Command) : Bool :=
  let w := c.params.getD 0 0
  let notify := c.params.getD 1 0
  field w 14 50 != 0 || field w 5 3 != 0 || (!w.getLsbD 13 && notify != 0) ||
    (c.op = .vstrm && (bits (c.param 3) 12 52 != 0 || bits (c.param 3) 4 4 != 0)) ||
    (c.op.routes && bits (c.param 5) 20 12 != 0) || (c.op = .rscan && c.arg != 0)

/-- A count, a limit or an overlap that refuses a command without an access: SUB 0x04 or 0x05 (R205 to R210, R316). -/
def limitFault (s : State) (c : Command) : Option Nat :=
  match c.op with
  | .rcopy | .rcopys | .rzero => rowLimit c
  | .cpy => copyLimit c
  | .vstrm => streamLimit c
  | .rhist | .rscan | .rsort | .rcomb => if shapeOk c then none else some 4
  | .exppark => if (ertEntry s c.tenant c.expertId.toNat).isNone then some 4 else none
  | .exppoll => if c.polls s || (ertEntry s c.tenant c.expertId.toNat).isSome then none else some 4
  | _ => none

/-- The parameter error of a block, the lowest SUB that applies, where one of those that make no access does (R205). -/
def paramFault (s : State) (c : Command) : Option Nat :=
  let w := c.params.getD 0 0
  if field w 0 5 != c.op.code then some 1
  else if reservedBits c || c.op.reserved.any fun k => c.param k != 0 then some 2
  else if (c.params.getD 1 0).toNat % 8 != 0 || c.op.aligned.any fun p => c.param p.1 % p.2 != 0 then some 3
  else if 4 < field w 10 3 then some ((limitFault s c).getD 6)
  else none

/-! ### Issue (R201 to R203) -/

/-- The lowest free ticket slot (R202, R361). -/
def freeTicket (t : Thread) : Option Nat := (List.range 32).find? fun k => !t.tickets.any fun x => x.slot.toNat = k

/-- A ticket (R202). -/
def ticketWord (slot : BitVec 5) (seq : BitVec 16) : Dword := (1 : BitVec 1) ++ (0 : BitVec 42) ++ slot ++ seq

/-- The commands of a thread that are still in flight. -/
def commandsOf (s : State) (tid : BitVec 32) : List Command := s.commands.filter fun c => c.tid = tid

/-- A thread takes a ticket slot and its command enters the machine; the ticket goes to g(d) (R201 step 3). `pages` is that of its block, whose
translation it keeps (R120). -/
def issueCommand (s : State) (t : Thread) (op : EngOp) (d : BitVec 7) (block : Dword) (blockAt : Nat) (pages : List (Nat × Nat))
    (arg : Dword) (acq : Bool) (slots : Nat) : State :=
  match freeTicket t with
  | none => scalarTrap s t (mkFault 0x13 0x01 0 accLoad)
  | some k =>
    let slot := BitVec.ofNat 5 k
    let seq := BitVec.ofNat 16 t.issued
    let c : Command :=
      { tid := t.tid, slot := slot, seq := seq, op := op, tenant := t.tenant, sup := t.sup, atp := t.atp, die := t.die, core := t.core,
        spadLo := t.spadLo, spadLen := t.spadLen, acq := acq, before := (commandsOf s t.tid).map fun c => (c.slot, c.seq),
        block := block, blockAt := blockAt, arg := arg, params := [], phase := .issued, pages := pages, pairs := [], next := 0, early := [],
        sectors := [], plan := none, expert := none, launch := none, replay := none, repeats := [] }
    let u : Thread := { t.setG d (ticketWord slot seq) with
      tickets := t.tickets ++ [{ slot := slot, seq := seq, status := none }], issued := t.issued + 1 }
    { s with commands := s.commands ++ [c] }.setThread (u.advance slots)

/-- Whether an order modifier acquires. -/
def acquires (o : Order) : Bool := o = .acq || o = .acqrel

/-- Work that a release waits for (R203). -/
def beforeIssue (s : State) (t : Thread) (o : Order) (k : State → Thread → State) : State :=
  if releases o then afterAll s t k else k s t

/-- A command with a parameter or launch block at g(a): alignment and translation are checked first (R201). -/
def blockOp (op : EngOp) (d a : BitVec 7) (b : Src) (o : Order) (s : State) : Result :=
  scalarOp s (a :: b.reads) fun t =>
    let va := t.g a
    if va.toNat % 64 != 0 then scalarTrap s t (mkFault 0x03 0 va accLoad)
    else
      onAccess s t (locateScalar s t.agent accLoad va 64) fun tr =>
        if leafHeld s t.tid accLoad tr.entry then s
        else
          beforeIssue s t o fun s t =>
            let s1 := s.markLeaf accLoad tr.entry
            issueCommand s1 ((s1.thread? t.tid).getD t) op d va tr.loc (heldPages s t.agent accLoad va.toNat 64) (t.src b) (acquires o) b.slots

/-- A command without a block. -/
def bareOp (op : EngOp) (d : BitVec 7) (b : Src) (o : Order) (s : State) : Result :=
  scalarOp s b.reads fun t =>
    beforeIssue s t o fun s t => issueCommand s t op d 0 0 [] (t.src b) (acquires o) b.slots

/-- RCOPY (R207). -/
def execRcopy (d a : BitVec 7) (b : Src) (o : Order) (s : State) : Result := blockOp .rcopy d a b o s

/-- RCOPYS (R207). -/
def execRcopys (d a : BitVec 7) (b : Src) (o : Order) (s : State) : Result := blockOp .rcopys d a b o s

/-- RZERO (R207). -/
def execRzero (d a : BitVec 7) (b : Src) (o : Order) (s : State) : Result := blockOp .rzero d a b o s

/-- CPY (R208). -/
def execCpy (d a : BitVec 7) (b : Src) (o : Order) (s : State) : Result := blockOp .cpy d a b o s

/-- VSTRM (R209). -/
def execVstrm (d a : BitVec 7) (b : Src) (o : Order) (s : State) : Result := blockOp .vstrm d a b o s

/-- RHIST (R210). -/
def execRhist (d a : BitVec 7) (b : Src) (o : Order) (s : State) : Result := blockOp .rhist d a b o s

/-- RSCAN (R210). -/
def execRscan (d a : BitVec 7) (b : Src) (o : Order) (s : State) : Result := blockOp .rscan d a b o s

/-- RSORT (R210). -/
def execRsort (d a : BitVec 7) (b : Src) (o : Order) (s : State) : Result := blockOp .rsort d a b o s

/-- RCOMB (R210). -/
def execRcomb (d a : BitVec 7) (b : Src) (o : Order) (s : State) : Result := blockOp .rcomb d a b o s

/-- EXPQ (R211). -/
def execExpq (d : BitVec 7) (b : Src) (o : Order) (s : State) : Result := bareOp .expq d b o s

/-- EXPPARK (R213). -/
def execExppark (d a : BitVec 7) (b : Src) (o : Order) (s : State) : Result := blockOp .exppark d a b o s

/-- EXPPOLL (R213). -/
def execExppoll (d a : BitVec 7) (b : Src) (o : Order) (s : State) : Result := blockOp .exppoll d a b o s

/-- EXPREL (R211). -/
def execExprel (d : BitVec 7) (b : Src) (o : Order) (s : State) : Result := bareOp .exprel d b o s

/-- PGREQ (R211). -/
def execPgreq (d : BitVec 7) (b : Src) (o : Order) (s : State) : Result := bareOp .pgreq d b o s

/-- TLAUNCH (R212, R276). -/
def execTlaunch (d a : BitVec 7) (b : Src) (o : Order) (s : State) : Result := blockOp .tlaunch d a b o s

/-! ### Experts and pages (R211, R213, R316, R317) -/

/-- EXPQ's work. -/
def expqWork (s : State) (c : Command) : State :=
  match ertEntry s c.tenant c.expertId.toNat with
  | none => finishWith s c (statusOf 1 4) 0
  | some e =>
    if ertState s e = 2 then finishWith (addPin s e) c 0 0
    else finishWith (requestExpert s c.tenant c.expertId) c (statusOf 0x10 0) 0

/-- Pins of an expert that belong to ready entries of the token wait queue: the tenant holds them only once they are polled (R213, R316). -/
def queuePins (s : State) (tenant : BitVec 4) (x : BitVec 16) : Nat :=
  (s.tokens.filter fun k => k.tenant = tenant && k.expert = x && k.ready).length

/-- EXPREL's work. -/
def exprelWork (s : State) (c : Command) : State :=
  match ertEntry s c.tenant c.expertId.toNat with
  | none => finishWith s c (statusOf 1 4) 0
  | some e => if ertPins s e ≤ queuePins s c.tenant c.expertId then finishWith s c (statusOf 0x13 0) 0 else finishWith (dropPin s e) c 0 0

/-- EXPPARK's work: its entry joins the tenant's queue, ready with a pin when the expert is resident. -/
def parkWork (s : State) (c : Command) : State :=
  let x := c.expertId
  let result := x.setWidth 64
  match ertEntry s c.tenant x.toNat with
  | none => finishWith s c (statusOf 1 4) result
  | some e =>
    let ready := ertState s e = 2
    let k : Token :=
      { tenant := c.tenant, expert := x, p0 := BitVec.ofNat 64 (c.param 0), p1 := BitVec.ofNat 64 (c.param 1),
        p2 := BitVec.ofNat 64 (c.param 2), ready := ready, tid := c.tid, slot := c.slot, seq := c.seq }
    if Config.tokenQueueSize ≤ (s.tokens.filter fun k => k.tenant = c.tenant).length then finishWith s c (statusOf 0x14 0) result
    else
      let s1 := { s with tokens := s.tokens ++ [k] }
      if ready then finishWith (addPin s1 e) c 0 result
      else (requestExpert s1 c.tenant x).setCommand { c with phase := .waiting, expert := some x }

/-- Removes the first token that a test holds of. -/
def dropToken (p : Token → Bool) : List Token → List Token
  | [] => []
  | k :: r => if p k then r else k :: dropToken p r

/-- EXPPOLL's work: the oldest ready entry that matches, with its pin. -/
def pollWork (s : State) (c : Command) : Option State :=
  let x := c.expertId
  let free := Config.freeResult s.steps
  if !(c.polls s || (ertEntry s c.tenant x.toNat).isSome) then
    some (finishWith s c (statusOf 1 4) free)
  else
    let takes := fun k : Token => k.tenant = c.tenant && k.ready && (x = 0xFFFF || k.expert = x)
    match s.tokens.find? takes with
    | none => some (finishWith s c (statusOf 0x12 0) free)
    | some k =>
      let va := c.block.toNat + 0x10
      match enginePiece s c accStore false va 24 with
      | .wait => none
      | .fault f => engineFault s c f f.va
      | .ok tr =>
        let s1 := writePiece s c tr (leBytes 8 k.p0.toNat ++ leBytes 8 k.p1.toNat ++ leBytes 8 k.p2.toNat)
        some (finishWith { s1 with tokens := dropToken takes s1.tokens } c 0 (k.expert.setWidth 64))

/-- What PGREQ's walk finds (R211): it tests no permission. -/
inductive PageState where
  | valid
  | absent (f : Flt)
  | expert (x : BitVec 16)
  | unmapped
  | wait

/-- The walk of PGREQ. -/
def pageState (s : State) (c : Command) (va : Dword) : PageState :=
  match window va with
  | .inside _ | .beyond => .valid
  | .outside =>
    if !canonical va then .unmapped
    else
      match findLeaf s c.agent accLoad va with
      | .fault f => if f.cause = 0x06 then .absent f else .unmapped
      | .wait => .wait
      | .ok (e, level, _) =>
        if (e.getLsbD 57 && expertTest s c.tenant e level) || field e 59 2 = 3 || field e 54 2 != 0 then .unmapped
        else
          if e.getLsbD 57 && ertHeld s deviceTid c.tenant false (field e 38 16) then .wait
          else
          match leafAddress s c.tenant e level va.toNat with
          | .error p => if p.1 = 0x06 then .expert (e.extractLsb' 38 16) else .unmapped
          | .ok pa => if (locOf s c.tenant pa).isNone then .unmapped else .valid

/-- The reads that PGREQ's walk takes (R242, R347). -/
def pageReads (s : State) (c : Command) (va : Dword) : List (Nat × Nat) :=
  if window va != .outside || !canonical va then []
  else
    match findLeaf s c.agent accLoad va with
    | .ok l => l.2.2.reads
    | .fault f => f.reads
    | .wait => []

/-- PGREQ's work. -/
def pgreqWork (s : State) (c : Command) : Option State :=
  let read := s.noteReads (pageReads s c c.arg)
  match pageState s c c.arg with
  | .valid => some (finishWith read c 0 0)
  | .unmapped => some (finishWith read c (statusOf 0x20 0) 0)
  | .wait => none
  | .absent f => waitEngine s c f 0
  | .expert x => some ((requestExpert read c.tenant x).setCommand { c with phase := .waiting, expert := some x })

/-! ### Acceptance (R201, R204, R276) -/

/-- TLAUNCH reads its block, writes it to the ring and advances TAIL in one step (R276). -/
def launchWork (s : State) (c : Command) : Option State :=
  match launchRefusal s c.tenant c.sup c.arg c.params with
  | some sub => some (closeCommand s c (statusOf 0x30 sub))
  | none =>
    let q := c.arg.extractLsb' 0 10
    let k := qTail s q
    let at_ := qBlock (qcfg s q) k
    if heldBack s c.tid true at_ 64 then none
    else some ((setQTail (s.storeBytes at_ (c.params.flatMap fun w => leBytes 8 w.toNat)) q (k + 1)).setCommand
      { c with phase := .waiting, launch := some (q, k) })

/-- A TLAUNCH that its queue refuses whatever the block holds (R276). -/
def queueRefusal (s : State) (c : Command) : Option Nat :=
  if c.op = .tlaunch then (launchRefusal s c.tenant c.sup c.arg []).filter (· < 3) else none

/-- The engine's read of a block: after the issuer's own earlier stores to it (log 44), and at once or not at all. -/
def readBlock (s0 : State) (c : Command) : Option State :=
  match settle s0 c.tid c.blockAt 64 with
  | (_, false) => none
  | (s, true) =>
    if heldBack s c.tid false c.blockAt 64 then none
    else (sendOne s (enginePort c.die) c.tenant (.read 64) (placeTrans c.blockAt) 64).map fun s => s.noteRead c.blockAt 64

/-- Acceptance of a command whose thread's earlier commands are accepted: the engine reads the whole block once. One refused with SUB 1, 2, 3 or 6
writes no RESULT: it completes with no access (R205, log 100). -/
def acceptNow (s : State) (c : Command) : Option State :=
  if c.op.bare && c.op != .tlaunch then some (s.setCommand { c with phase := .accepted })
  else
    (readBlock s c).bind fun s =>
    match queueRefusal s c with
    | some sub => some (closeCommand s c (statusOf 0x30 sub))
    | none =>
    if (poisonSub s c.blockAt 64).isSome then some (closeCommand s c ((Config.freeStatus s.steps).setWidth 64))
    else
    let d := { c with params := dwordsOf (s.loadBytes c.blockAt 64), pages := [] }
    if c.op = .tlaunch then launchWork s d
    else
      match paramFault s d with
      | some sub => some (closeCommand s c (statusOf 1 sub))
      | none => some (s.setCommand { d with phase := .accepted })

/-- Whether an earlier command of the thread is not yet accepted. -/
def earlierIssued (s : State) (c : Command) : Bool :=
  ((commandsOf s c.tid).takeWhile fun x => !x.same c).any fun x => x.phase = .issued

/-- Acceptance in program order, or none while it waits. -/
def acceptCommand (s : State) (c : Command) : Option State := if earlierIssued s c then none else acceptNow s c

/-! ### Work and ends (R204, R205) -/

/-- Whether the ACQ flag holds a command back: an earlier command of the thread has not completed. -/
def acqHolds (s : State) (c : Command) : Bool :=
  !c.op.bare && (c.params.getD 0 0).getLsbD 8 && (commandsOf s c.tid).any fun x => c.before.elem (x.slot, x.seq)

/-- The work of a command on its expert's table entry, which waits while the entry is held back at its home slice (R262, R308). -/
def onEntry (s : State) (c : Command) (work : State → Command → State) : Option State :=
  if ertHeld s deviceTid c.tenant true c.expertId.toNat then none else some (work s c)

/-- The work of an accepted command. -/
def operate (s : State) (c : Command) : Option State :=
  match c.op with
  | .expq => onEntry s c expqWork
  | .exprel => onEntry s c exprelWork
  | .exppark => onEntry s c parkWork
  | .exppoll => pollWork s c
  | .pgreq => pgreqWork s c
  | .rhist | .rscan | .rsort | .rcomb => routeWork s c
  | .tlaunch => none
  | .rcopy | .rcopys | .rzero | .cpy | .vstrm => unitWork s c

/-- RESULT, the engine's last write; then NOTIFY when NTF is set. -/
def writeResult (s : State) (c : Command) (status result : Dword) : Option State :=
  if c.op.bare then some (closeCommand s c status)
  else
    match enginePiece s c accStore false (c.block.toNat + 0x38) 8 with
    | .wait => none
    | .fault f => engineFault s c f f.va
    | .ok tr =>
      let s1 := writePiece s c tr (leBytes 8 result.toNat)
      if (c.params.getD 0 0).getLsbD 13 then some (s1.setCommand { c with phase := .notifying status })
      else some (closeCommand s1 c status)

/-- Whether a command's writes are to be visible to the device or the system before it completes (R204). -/
def Command.releases (c : Command) : Bool := (c.params.getD 0 0).getLsbD 9 && 3 ≤ field (c.params.getD 0 0) 10 3

/-- The NOTIFY increment, as an AMOADD at the home slice; of a command that releases, across the Bruron Link, after every write sent over it
has been acknowledged (R257). -/
def notify (s : State) (c : Command) (status : Dword) : Option State :=
  match enginePiece s c accAmo true (c.params.getD 1 0).toNat 8 with
  | .wait => none
  | .fault f => engineFault s c f f.va
  | .ok tr =>
    if awaitsAcks s c.releases tr.loc then none
    else some (closeCommand (rmw (sendPiece s c accAmo (.amo .add 1 0) tr 8) tr .add 1 0 c.releases).1 c status)

/-- The next step of a command, or none while it waits; the engines of a die that has stopped stand still (R351). -/
def commandStep (s : State) (c : Command) : Option State :=
  if c.replay.isSome || s.stoppedDies.mem c.die.toNat then none
  else
    match c.phase with
    | .issued => acceptCommand s c
    | .accepted => if acqHolds s c then none else operate s c
    | .waiting => none
    | .ending i => endStream (statusOf 2 1) i (unitCount c + 1) s c
    | .finishing status result => writeResult s c status result
    | .notifying status => notify s c status

/-- The next step among the commands, oldest first. -/
def commandWork (s : State) : Option State := firstSome (commandStep s) s.commands

/-! ### Events of the opcode table -/

/-- The command of a thread's ticket slot. -/
def State.command? (s : State) (tid : BitVec 32) (slot : BitVec 5) : Option Command :=
  s.commands.find? fun c => c.tid = tid && c.slot = slot

/-- COMMAND_ACCEPT (R201, R204). -/
def execCommandAccept (tid : BitVec 32) (slot : BitVec 5) (s : State) : Result :=
  match s.command? tid slot with
  | none => .next s
  | some c => .next (if c.phase = .issued then (commandStep s c).getD s else s)

/-- Steps of a command until it waits or is closed. -/
def commandSteps (tid : BitVec 32) (slot : BitVec 5) : Nat → State → State
  | 0, s => s
  | fuel + 1, s =>
    match s.command? tid slot with
    | none => s
    | some c =>
      match commandStep s c with
      | none => s
      | some s1 => commandSteps tid slot fuel s1

/-- COMMAND_COMPLETION (R204, R205): the rest of an accepted command's work, RESULT, NOTIFY and the status, as far as nothing holds it
back. -/
def execCommandCompletion (tid : BitVec 32) (slot : BitVec 5) (s : State) : Result :=
  match s.command? tid slot with
  | none => .next s
  | some c => .next (if c.phase = .issued then s else commandSteps tid slot 6 s)

/-! ### Waiting for tickets (R214) -/

/-- The held slot that a ticket names. -/
def heldTicket (t : Thread) (v : Dword) : Option Ticket :=
  if !v.getLsbD 63 || field v 21 42 != 0 then none
  else t.tickets.find? fun k => k.slot = v.extractLsb' 16 5 && k.seq = v.extractLsb' 0 16

/-- The status of an unknown ticket (R205). -/
abbrev unknownTicket : Dword := 0xFE

/-- Collects a ticket: the slot is free, the status goes to g(d). -/
def collect (t : Thread) (d : BitVec 7) (k : Ticket) (status : Dword) : Thread :=
  { t.setG d status with tickets := t.tickets.filter fun x => x.slot != k.slot }

/-- ENGWAIT (R214). -/
def execEngwait (d a : BitVec 7) (s : State) : Result :=
  scalarOp s [a] fun t =>
    match heldTicket t (t.g a) with
    | none => s.setThread ((t.setG d unknownTicket).advance 1)
    | some k =>
      match k.status with
      | none => s
      | some status => s.setThread ((collect t d k status).advance 1)

/-- ENGTEST (R214): it does not wait. -/
def execEngtest (d a : BitVec 7) (s : State) : Result :=
  scalarOp s [a] fun t =>
    s.setThread ((match heldTicket t (t.g a) with
      | none => t.setG d unknownTicket
      | some k =>
        match k.status with
        | none => t.setG d (BitVec.allOnes 64)
        | some status => collect t d k status).advance 1)

end Sys2Proof.Machine
end

