-- ==== Sys2Proof/Machine/Control.lean ====
section
/-! DEFINITION. Majors BR and JMP: branches, jumps and calls with their arrival checks (R50 to R54, R101). -/

namespace Sys2Proof.Machine

/-- A transfer of control takes effect together with the arrival checks at its target; a fault leaves it without effect (R51,
R54). -/
def transfer (s : State) (t : Thread) (how : How) (reg : Bool) (target : BitVec 57) (k : Thread → Thread) : State :=
  onAccess s t (arrive s t how reg target) fun l =>
    (s.markLeaf accFetch l.2).update t.tid fun u =>
      { k u with pc := target, arrived := some (target, l.1), arrivedPage := pageSizeAt s t.agent accFetch target.toNat, repeats := u.laterRepeats }

/-- A branch: taken it is a jump to its target, else it falls through (R50, R53, R101). -/
def branchOp (s : State) (reads : List (BitVec 7)) (off : Imm11) (taken : Thread → Bool) : Result :=
  scalarOp s reads fun t =>
    if taken t then transfer s t .jump false (branchTarget t.pc off.value) id else s.setThread (t.advance off.slots)

/-- A jump or a call: with d not 0 it links the return point (R50, R54). -/
def jumpOp (s : State) (t : Thread) (d : BitVec 7) (reg : Bool) (target : BitVec 57) (slots : Nat) : State :=
  transfer s t (if d = 0 then .jump else .call) reg target fun u => u.setG d ((slotAfter t.pc slots).setWidth 64)

/-- BEQ (R101). -/
def execBeq (a b : BitVec 7) (off : Imm11) (s : State) : Result := branchOp s [a, b] off fun t => t.g a == t.g b

/-- BNE (R101). -/
def execBne (a b : BitVec 7) (off : Imm11) (s : State) : Result := branchOp s [a, b] off fun t => t.g a != t.g b

/-- BLT (R101). -/
def execBlt (a b : BitVec 7) (off : Imm11) (s : State) : Result := branchOp s [a, b] off fun t => (t.g a).toInt < (t.g b).toInt

/-- BGE (R101). -/
def execBge (a b : BitVec 7) (off : Imm11) (s : State) : Result := branchOp s [a, b] off fun t => (t.g b).toInt ≤ (t.g a).toInt

/-- BLTN (R101). -/
def execBltn (a b : BitVec 7) (off : Imm11) (s : State) : Result := branchOp s [a, b] off fun t => (t.g a).toNat < (t.g b).toNat

/-- BGEN (R101). -/
def execBgen (a b : BitVec 7) (off : Imm11) (s : State) : Result := branchOp s [a, b] off fun t => (t.g b).toNat ≤ (t.g a).toNat

/-- BBS (R101): taken when bit n of g(a) is 1. -/
def execBbs (a n : BitVec 7) (off : Imm11) (s : State) : Result := branchOp s [a] off fun t => (t.g a).getLsbD n.toNat

/-- BBC (R101): taken when bit n of g(a) is 0. -/
def execBbc (a n : BitVec 7) (off : Imm11) (s : State) : Result := branchOp s [a] off fun t => !(t.g a).getLsbD n.toNat

/-- JAL (R53, R54). -/
def execJal (d : BitVec 7) (off : Imm20) (s : State) : Result :=
  scalarOp s [] fun t => jumpOp s t d false (branchTarget t.pc off.value) off.slots

/-- JALR (R54): to the address in g(a)[56:0], read before the link is written. -/
def execJalr (d a : BitVec 7) (s : State) : Result :=
  scalarOp s [a] fun t => jumpOp s t d true ((t.g a).extractLsb' 0 57) 1

end Sys2Proof.Machine
end

