-- ==== Sys2Proof/Machine/System.lean ====
section
/-! DEFINITION. Major SYS but for the memory-count barriers and watermarks, and the encodings that are no instruction (R62, R63, R106
to R109, R114 to R120, R140, R166, R167). -/

namespace Sys2Proof.Machine

/-- NOP (R62). -/
def execNop (s : State) : Result := scalarOp s [] fun t => s.setThread (t.advance 1)

/-- HINT (R62): a NOP whatever its fields hold. -/
def execHint (_n : BitVec 4) (_d _a _b : BitVec 7) (s : State) : Result := scalarOp s [] fun t => s.setThread (t.advance 1)

/-- The end by EXIT once older work has committed and the thread's stores have performed (R114). -/
def exitThread (s : State) (t : Thread) : State := afterAll s t fun s t => endThread s t false

/-- EXIT (R114). -/
def execExit (s : State) : Result := scalarOp s [] fun t => exitThread s t

/-- TRAP (R118): the program trap with subcause n; it completes first. -/
def execTrap (n : BitVec 7) (s : State) : Result :=
  scalarOp s [] fun t => scalarTrapAt s t (mkFault 0x16 (n.setWidth 8) 0 accLoad) (slotAfter t.pc 1)

/-- ECALL (R118): a system call waits for its answer. -/
def execEcall (s : State) : Result :=
  scalarOp s [] fun t => scalarTrapAt s t (mkFault 0x17 0 0 accLoad) (slotAfter t.pc 1)

/-- The thread stopped at a breakpoint for the debugger of its tenant (R118). -/
def enterDebugger (s : State) (t : Thread) : State :=
  let p : TrapPoint := { pc := t.pc, save := slotAfter t.pc 1, elem := 0 }
  s.setThread { t with trap := trapRegs (mkFault 0x18 0 0 accLoad) 0 false p, pc := slotAfter t.pc 1, wait := .debugger }

/-- BRK (R118): the debugger when one is enabled for the tenant, else the thread's handler. -/
def execBrk (s : State) : Result :=
  scalarOp s [] fun t =>
    if s.debuggers.mem t.tenant.toNat then afterVector s t enterDebugger
    else scalarTrapAt s t (mkFault 0x18 0 0 accLoad) (slotAfter t.pc 1)

/-- ERET (R119, R321): waits for the handler's vector instructions, makes the arrival checks, restores the snapshot and resumes at
TRAPSAVE. -/
def execEret (s : State) : Result :=
  scalarOp s [] fun t =>
    if !t.inHandler then illegal s t 0x10
    else
      afterVector s t fun s t =>
        onAccess s t (arrive s t .eret true t.trap.save) fun l =>
          (s.markLeaf accFetch l.2).update t.tid fun u =>
            { u.returned with arrived := some (t.trap.save, l.1), arrivedPage := pageSizeAt s t.agent accFetch t.trap.save.toNat }

/-! ### Fences (R106, R107, R166, R167) -/

/-- What a FENCE waits for: the loads of its before set with lb, the stores with sb, both with sc, and the thread's engine commands with
eng. It completes once they have performed, so that what is pushed later is behind it. The model performs accesses one at a time, so the
scope narrows nothing. -/
def execFence (kinds _scope : BitVec 7) (s : State) : Result :=
  scalarOp s [] fun t =>
    let eng := kinds.getLsbD 4
    let sc := kinds.getLsbD 6
    let before := kinds.getLsbD 0 || kinds.getLsbD 1
    let after := kinds.getLsbD 2 || kinds.getLsbD 3
    let done := fun (s : State) (t : Thread) => s.setThread (t.advance 1)
    let withEngines := fun (s : State) (t : Thread) => if eng then afterEngines s t done else done s t
    if sc || (before && (after || eng)) then afterKinds s t (sc || kinds.getLsbD 0) (sc || kinds.getLsbD 1) withEngines
    else withEngines s t

/-- The fences of a thread with one more FENCESV in force (R166, R167): vector before scalar with DIR 0, scalar before vector with DIR 1,
where earlier scalar loads have performed. -/
def StreamFence.raised (f : StreamFence) (kind : BitVec 7) (order stores : Nat) : StreamFence :=
  let bl := kind.getLsbD 0
  let bs := kind.getLsbD 1
  let al := kind.getLsbD 2
  let as := kind.getLsbD 3
  if kind.getLsbD 4 then
    { f with vlSs := if al && bs then stores else f.vlSs, vsSs := if as && bs then stores else f.vsSs }
  else
    { f with
      slVl := if al && bl then order else f.slVl
      slVs := if al && bs then order else f.slVs
      ssVl := if as && bl then order else f.ssVl
      ssVs := if as && bs then order else f.ssVs }

/-- FENCESV (R166, R167): the fence itself never waits; later scalar accesses of its after kinds wait for the vector accesses before it, or
later vector accesses for the scalar stores before it. A type with no before or no after kind changes nothing. -/
def execFencesv (kind : BitVec 7) (s : State) : Result :=
  scalarOp s [] fun t => s.setThread ({ t with fences := t.fences.raised kind t.order t.stores }.advance 1)

/-! ### Crew and gang barriers (R109) -/

/-- A thread whose barrier instance has completed leaves. -/
def leaveBarrier (s : State) (tid : BitVec 32) (left : Wait) : State :=
  match s.thread? tid with
  | none => s
  | some t => if t.wait = left then s.setThread ({ t with wait := .none }.advance 1) else s

/-- A barrier: the thread arrives once its older work and accesses are done, and leaves when every live member has arrived. -/
def barrierOp (s : State) (here left : Wait) (complete : State → Thread → State) : Result :=
  scalarOp s [] fun t =>
    if t.wait = left then leaveBarrier s t.tid left
    else if t.wait = here then s
    else
      afterAll s t fun s t =>
        leaveBarrier (complete (s.setThread { t with wait := here }) t) t.tid left

/-- BARC (R109). -/
def execBarc (s : State) : Result := barrierOp s (.barc false) (.barc true) completeCrew

/-- BARG (R109). -/
def execBarg (s : State) : Result := barrierOp s (.barg false) (.barg true) completeGang

/-! ### Thread control (R115, R117) -/

/-- YIELD (R117): until the current dispatch round ends the thread stands behind every other ready thread of its core. -/
def execYield (s : State) : Result := scalarOp s [] fun t => s.setThread ({ t with yielded := true }.advance 1)

/-- CYC counts of a thread's core. -/
def cyclesOf (s : State) (t : Thread) : Nat := s.cyc.getD t.core 0

/-- PAUSE (R117): stalls until its 64 counts have passed, which the event PAUSE_EXPIRY tells. -/
def execPause (s : State) : Result :=
  scalarOp s [] fun t =>
    match t.wait with
    | .pause _ true => s.setThread ({ t with wait := .none }.advance 1)
    | .pause _ false => s
    | _ => s.setThread { t with wait := .pause (cyclesOf s t) false }

/-- Whether a held ticket's command has completed and its status is not collected (R117, R202). -/
def ticketReady (t : Thread) : Bool := t.tickets.any fun k => k.status.isSome

/-- IDLE (R117): ends with a completed, uncollected ticket or when 65,536 counts have passed. -/
def execIdle (s : State) : Result :=
  scalarOp s [] fun t =>
    if ticketReady t then s.setThread ({ t with wait := .none }.advance 1)
    else
      match t.wait with
      | .idle _ true => s.setThread ({ t with wait := .none }.advance 1)
      | .idle _ false => s
      | _ => s.setThread { t with wait := .idle (cyclesOf s t) false }

/-- CYC (R115). -/
def execCyc (d : BitVec 7) (s : State) : Result := writeOp s [] d 1 fun t => cycOf s t.core

/-- TID (R115). -/
def execTid (d : BitVec 7) (s : State) : Result := writeOp s [] d 1 fun t => t.tid.setWidth 64

/-! ### Address space (R120) -/

/-- ASW (R120, R324): supervisor only; the new root takes effect once the thread's vector accesses have performed, and the link set
is broken (R161). -/
def execAsw (a : BitVec 7) (s : State) : Result :=
  scalarOp s [a] fun t =>
    if !t.sup then illegal s t 0x11
    else if field (t.g a) 60 4 != 10 then illegal s t 0x16
    else
      afterQueues s t fun s t =>
        s.setThread (({ t with atp := t.g a, links := t.links.map fun k : Link => { k with intact := false } } : Thread).advance 1)

/-- Whether a TLBI covers a leaf or a line: its page holds the address, or all pages; its ASID, or all. A fetch address has only bits
[56:0] (R54), so addresses are compared in those. -/
def tlbiCovers (page : Option Nat) (asid : Option (BitVec 16)) (va size : Nat) (a : BitVec 16) : Bool :=
  (match page with | none => true | some p => p % 2 ^ 57 / size = va % 2 ^ 57 / size) && (match asid with | none => true | some x => x = a)

/-- Whether a TLBI covers the line in which a thread has arrived, by the page that mapped it then. -/
def Thread.arrivedCovered (t : Thread) (page : Option Nat) (asid : Option (BitVec 16)) : Bool :=
  t.arrived.any fun l => tlbiCovers page asid l.1.toNat t.arrivedPage (t.atp.extractLsb' 44 16)

/-- Drops the cached translations that a TLBI covers, everywhere at supervisor level, and what the issuing core has fetched of the lines that it
covers: the kept copies, and the lines in which its threads have arrived (R48). -/
def dropTranslations (s : State) (core : Nat) (everywhere : Bool) (page : Option Nat) (asid : Option (BitVec 16)) : State :=
  { s with
    leaves := s.leaves.filter fun c =>
      !((everywhere || c.unit = core) && tlbiCovers page asid (c.va * leafSize c.level) (leafSize c.level) c.asid)
    fetchCopies := s.fetchCopies.filter fun c => !(c.core = core && tlbiCovers page asid c.va c.page c.asid)
    threads := s.threads.map fun u =>
      if u.core = core && u.arrivedCovered page asid then { u with arrived := none } else u }

/-- Whether an older access of a thread has used a translation that a TLBI covers and has not performed: an executed store, the rest of a row of
MLDA or MSTA, an engine command that keeps the translation of its block or of its rows (R204, R207, R245), or an accord, which any thread's TLBI
waits for (R120, R297). An access that has not been translated uses none. -/
def usesCovered (s : State) (t : Thread) (page : Option Nat) (asid : Option (BitVec 16)) : Bool :=
  (t.sbuf.any fun p => p.page.any fun q => tlbiCovers page asid q.1 q.2.1 q.2.2) ||
    ((matrixOf s t.tid).any fun m => m.move.pages.any fun q => tlbiCovers page asid q.1 q.2 (t.atp.extractLsb' 44 16)) ||
    (s.commands.any fun c => c.tid = t.tid && c.pages.any fun q => tlbiCovers page asid q.1 q.2 (c.atp.extractLsb' 44 16)) ||
    s.accords.any fun x => x.pages.any fun p => tlbiCovers page asid p.1 p.2 x.asid

/-- TLBI (R48, R120, R323). Field b alone tells whether an ASID is named: with a constant beside a field of 0 none is (log 77). It completes when
no older access of the thread still uses a translation that it discards. -/
def execTlbi (a : BitVec 7) (b : Src) (s : State) : Result :=
  scalarOp s (a :: b.reads) fun t =>
    let named := b.field != 0
    if !t.sup && named then illegal s t 0x11
    else
      let page := if a = 0 then none else some ((t.g a).toNat)
      let asid := if t.sup then (if named then some ((t.src b).extractLsb' 0 16) else none) else some (t.atp.extractLsb' 44 16)
      let s1 := flushStores s t
      match s1.thread? t.tid with
      | none => s1
      | some u =>
        if usesCovered s1 u page asid then s1
        else (dropTranslations s1 t.core t.sup page asid).update t.tid fun u => u.advance b.slots

/-! ### Encodings that are no instruction -/

/-- A function code that is not assigned, a reserved field that is not 0, a field out of range (R62, R63). -/
def execUnassignedFunctionCode (sub : BitVec 8) (s : State) : Result := scalarOp s [] fun t => illegal s t sub

/-- A misplaced L prefix (R59): subcause 0x03 at the prefix. -/
def execLPrefixMisplaced (s : State) : Result := scalarOp s [] fun t => illegal s t 0x03

end Sys2Proof.Machine
end

