-- ==== Sys2Proof/Machine/Kill.lean ====
section
/-! DEFINITION. The end of a thread by KILL (R116), and of the commands that wait for a tenure which ends so (R205). -/

namespace Sys2Proof.Machine

/-- The lines of claims. -/
def claimLines (cs : List Claim) : NatSet :=
  cs.foldl (fun xs c => c.ranges.foldl (fun xs r =>
    (List.range (lineOf (r.1 + r.2 - 1) - lineOf r.1 + 1)).foldl (fun xs k => xs.insert (lineOf r.1 + k)) xs) xs) []

/-- RESULT of a command that waits at some claims in a state: the address, for a stream the index, of the access that they hold back. It is
the one that would fault if the claims' lines were lost, or the block that the engine has still to read. None where the command does not wait
at them. -/
def heldAt (s : State) (claims : List Claim) (c : Command) : Option Dword :=
  let free := { s with claims := s.claims.filter fun k => !claims.elem k }
  if (commandStep s c).isSome || (commandStep free c).isNone then none
  else if c.phase = .issued then some c.block
  else
    let lost := { free with lostLines := (claimLines claims).foldl NatSet.insert s.lostLines }
    (commandStep lost c).map fun x =>
      match (x.command? c.tid c.slot).map Command.phase with
      | some (Phase.finishing _ result) => result
      | _ => 0

/-- A thread that holds tenure ends by KILL, and its gang with it: the commands that waited for that tenure end with CODE 0x02, SUB 0x03
(R205, log 82). `s` is the state before the end, `s1` that after it. -/
def endHeld (s : State) (t : Thread) (s1 : State) : State :=
  let claims := s.claims.filter fun k => k.tid = t.tid && k.granted
  if claims.isEmpty || s1.threads.any (sameGang t) then s1
  else
    s.commands.foldl (fun x c =>
      match heldAt s claims c with
      | some result => failAt x c (statusOf 2 3) result
      | none => x) s1

/-- Whether a fatal trap of a thread has been taken and its record has still to enter the queue (R333). -/
def Thread.ending (t : Thread) : Bool :=
  match t.wait with
  | .dying _ _ => true
  | _ => false

/-- Whether the stream of a thread is over: a fatal trap or a KILL has ended it, and the end has still to come about. -/
def Thread.over (t : Thread) : Bool := t.ending || t.wait = .killed

/-- Ends a thread as KILL does (R116): at once, or when its accord in flight and its executed stores are done. One that a fatal trap ends waits for
its record (R333). -/
def killThread (s : State) (t : Thread) : State :=
  let s1 := endStores (s.interrupt t) t.interrupted
  if t.ending then s
  else if storesDone s1 t.tid && !(s1.accords.any fun a => a.tid = t.tid) then endHeld s1 t (endThread s1 t false)
  else s1.update t.tid fun u => { u with wait := .killed, replay := none }

/-- A KILL completes when its target has ended. -/
def killDone (s : State) (tid target : BitVec 32) : State :=
  s.update tid fun x => if (s.thread? target).isSome then { x with wait := .killing target } else ({ x with wait := .none } : Thread).advance 1

/-- KILL (R116): ends the thread of the issuer's tenant that g(a) names; completes when the target has ended. -/
def execKill (a : BitVec 7) (s : State) : Result :=
  scalarOp s [a] fun t =>
    let v := t.g a
    let target := s.thread? (v.extractLsb' 0 32)
    match target with
    | none => killDone s t.tid (v.extractLsb' 0 32)
    | some u =>
      if field v 32 32 != 0 || field v 11 5 != 0 || u.tenant != t.tenant then s.setThread (t.advance 1)
      else if u.tid = t.tid then exitThread s t
      else
        killDone (killThread s u) t.tid u.tid

/-- A KILL that has begun completes before its thread is pre-empted (R285), if its target can end now. -/
def finishKill (s : State) (t : Thread) : State :=
  match t.wait with
  | .killing target =>
    match s.thread? target with
    | none => killDone s t.tid target
    | some u => killDone (killThread s u) t.tid target
  | _ => s

end Sys2Proof.Machine
end

