-- ==== Sys2Proof/Machine/Tags.lean ====
section
/-! DEFINITION. Tags, patterns, windows and accords (R193 to R200, R254, R291 to R303). -/

namespace Sys2Proof.Machine

/-! ### Tags (R193, R194, R291) -/

/-- The tag of the row at a physical address; a quarantined row reads as unowned (R242). -/
def tagOf (s : State) (pa : Nat) : Word :=
  if s.quarantine.mem (pa / 1024) then Config.unownedTag else Sparse.get Config.unownedTag s.tags (pa / 1024)

/-- Replaces the tag of a row. -/
def setTag (s : State) (pa : Nat) (t : Word) : State := { s with tags := Sparse.set Config.unownedTag s.tags (pa / 1024) t }

def tagKind (t : Word) : BitVec 4 := t.extractLsb' 28 4
def tagOwner (t : Word) : BitVec 4 := t.extractLsb' 24 4
def tagValue (t : Word) : BitVec 24 := t.extractLsb' 0 24

/-- A tag of its three fields. -/
def mkTag (kind owner : BitVec 4) (value : BitVec 24) : Word := kind ++ owner ++ value

/-- Whether a row belongs to a tenant (R193). -/
def belongs (t : Word) (tenant : BitVec 4) : Bool := tagKind t != 15 && tagOwner t = tenant

/-- Whether a row matches a pattern (R194). -/
def tagMatches (t : Word) (pattern : Dword) (tenant : BitVec 4) : Bool :=
  tagKind t = pattern.extractLsb' 60 4 && tagOwner t = tenant &&
    (tagValue t ^^^ pattern.extractLsb' 32 24) &&& pattern.extractLsb' 0 24 = 0

/-- Whether a new tag is one that TAGST and TRETAG may write (R197). -/
def legalTag (t : Word) (tenant : BitVec 4) : Bool := (tagKind t).toNat ≤ 4 && tagOwner t = tenant

/-! ### The events of rows (R196 step 4, R254, R299 to R302) -/

/-- Operations that name one row and make no match (R200). -/
def TagOp.single (op : TagOp) : Bool := op = .tagst || op = .tagld

/-- Operations that need write permission on the window (R197). -/
def TagOp.writes (op : TagOp) : Bool := op = .tagst || op = .tclr || op = .tfill || op = .tretag || op = .tinc

/-- The row of lowest index whose data could not be read, with the subcause. -/
def Accord.bad (a : Accord) (row : Nat) (sub : BitVec 8) : Accord :=
  { a with badRow := match a.badRow with
      | some b => if b.1 ≤ row then some b else some (row, sub)
      | none => some (row, sub) }

/-- What a matching row's event does to the machine, and what it adds to the accord. A TAGST whose row has been released or given to
another tenant since its checks changes nothing, so that table and tags agree (R293, log 81). The row's lines are recalled: TSUM leaves clean
copies, TCLR and TFILL none (R301). The row's DRAM traffic counts against the tenant (R304). -/
def actOnRow (s : State) (a : Accord) (r : AccordRow) : State × Accord :=
  let t := tagOf s r.pa
  let hit := { a with count := a.count + 1 }
  let traffic := if a.op = .tclr || a.op = .tfill then 32 else if a.op = .tsum then 1 else 0
  let s := if traffic = 0 then s else s.chargeHbm (stackOf r.pa) a.tenant traffic
  match a.op with
  | .tcnt => (s, hit)
  | .tclr => (setTag (s.zeroRange r.pa 1024) r.pa (mkTag 0 (tagOwner t) 0), hit)
  | .tfill => ((s.zeroRange r.pa 1024).storeBytes r.pa (List.replicate 128 (leBytes 8 a.param.toNat)).flatten, hit)
  | .tretag => (setTag s r.pa (a.param.extractLsb' 0 32), hit)
  | .tinc =>
    let v := (tagValue t).toNat + field a.param 0 24
    (setTag s r.pa (mkTag (tagKind t) (tagOwner t) (if v < 2 ^ 24 then BitVec.ofNat 24 v else BitVec.allOnes 24)), hit)
  | .tcomp => (s, { hit with hits := NatSet.insert a.hits r.index })
  | .tsum =>
    let at_ := r.pa + a.param.toNat / 32 * 32
    let s := s.cleanL1 fun c => c.meets r.pa 1024
    match poisonSub s at_ 32 with
    | some sub => (s, hit.bad r.index sub)
    | none => (s.noteRead at_ 32, { hit with sum := (a.sum + (s.mem64 (r.pa + a.param.toNat)).toNat) % 2 ^ 64 })
  | .tagst => (if belongs t a.tenant then setTag s r.pa (a.param.extractLsb' 0 32) else s, { a with count := 1 })
  | .tagld => (s, { a with sum := if belongs t a.tenant then t.toNat else 0xFFFFFFFF })

/-- One row's match-and-act event, indivisible (R196). A row lost with its die acts no more: the thread takes the poisoned-data trap after
completion (R336, log 81). -/
def rowEvent (s : State) (a : Accord) (r : AccordRow) : State × Accord :=
  if lineLost s r.pa 1024 then (s, a.bad r.index 0x05)
  else if a.op.single || tagMatches (tagOf s r.pa) a.pattern a.tenant then actOnRow s a r else (s, a)

/-- Stack, pseudo-channel and bank of a row (R226). -/
def rowBank (pa : Nat) : Nat := bits pa 10 14

/-- The number with which an accord's packet arrived at a stack, its match point there (R196 step 3, R299). -/
def Accord.arrivedAt (a : Accord) (stack : BitVec 4) : Option Nat := (a.arrivals.find? fun x => x.1 = stack.toNat).map (·.2)

/-- Whether a stack runs an accord now: of those that have arrived and have rows left there, at most four, in order of arrival (R299). A
TAGST or TAGLD, which makes no match, takes no place among them (log 81). -/
def stackRuns (s : State) (a : Accord) (stack : BitVec 4) : Bool :=
  match a.arrivedAt stack with
  | none => false
  | some n => a.op.single || (s.accords.filter fun x => !x.op.single && (x.arrivedAt stack).any (· < n) &&
      x.rows.any fun r => stackOf r.pa = stack).length < 4

/-- Packets that the buffer of a base die holds (R241). -/
abbrev bufferSize : Nat := 4096

/-- Whether the buffer of a base die has room for another packet: those that have not performed and accord packets that have arrived and not begun
are in it (R241, R299). -/
def bufferRoom (s : State) (stack : BitVec 4) : Bool :=
  (s.packets.filter fun p => p.stack = stack).length +
    (s.accords.filter fun a => (a.arrivedAt stack).isSome && (s.selfRefresh.mem stack.toNat || !stackRuns s a stack) &&
      a.rows.any fun r => stackOf r.pa = stack).length < bufferSize

/-- Whether a TAGST stands before a row's event, or a row's event before a TAGST (R300): a TAGST whose packet arrived before the event entered
its bank's queue goes first. One that a claim holds back lets the other pass (R251, R262). -/
def tagstAhead (s : State) (a : Accord) (r : AccordRow) : Bool :=
  if a.op = .tagst then
    s.accords.any fun x => !x.op.single && x.rows.any fun y => y.pa / 1024 = r.pa / 1024 && !claimHolds s x.tid x.op.overwrites y.pa 1024 &&
      y.queued.any fun m => (a.arrivedAt (stackOf r.pa)).any fun n => m < n
  else
    !a.op.single && s.accords.any fun x => x.op = .tagst && x.rows.any fun y => y.pa / 1024 = r.pa / 1024 && !claimHolds s x.tid false y.pa 1024 &&
      (x.arrivedAt (stackOf y.pa)).any fun n => r.queued.all fun m => n < m

/-- Whether a row's event may perform: its stack runs the accord and is in no self-refresh (R241), its die has not stopped, neither its row
engines nor its home slice (R351), no claim holds the row (R262), and neither a packet that arrived before the event entered its bank's queue nor
a TAGST stands before it (R300). -/
def rowReady (s : State) (a : Accord) (r : AccordRow) : Bool :=
  stackRuns s a (stackOf r.pa) && !s.selfRefresh.mem (stackOf r.pa).toNat && !claimHolds s a.tid a.op.overwrites r.pa 1024 &&
    !(a.op.data && r.queued.isNone && packetAhead s r.pa 1024) && !tagstAhead s a r && !homeStopped s r.pa

/-- Performs the events that may perform among rows in ascending order of address, each bank's in its order (R300); answers the rows
left. -/
def actRows : List AccordRow → List Nat → State → Accord → State × Accord × List AccordRow
  | [], _, s, a => (s, a, [])
  | r :: rest, stuck, s, a =>
    if !stuck.elem (rowBank r.pa) && rowReady s a r then
      let x := rowEvent s a r
      actRows rest stuck x.1 x.2
    else
      let x := actRows rest (rowBank r.pa :: stuck) s a
      (x.1, x.2.1, r :: x.2.2)

/-- Replaces the accord of a thread. -/
def State.setAccord (s : State) (a : Accord) : State :=
  { s with accords := s.accords.map fun x => if x.tid = a.tid then a else x }

/-- The accord of a thread. -/
def State.accord? (s : State) (tid : BitVec 32) : Option Accord := s.accords.find? fun a => a.tid = tid

/-! ### Completion (R196, R200, R302, R303) -/

/-- The place of a byte offset of a TCOMP list. -/
def listAt : List (Nat × Trans) → Nat → Option Trans
  | [], _ => none
  | p :: r, off => if off < p.1 then some { p.2 with loc := p.2.loc + off, pa := p.2.pa + off } else listAt r (off - p.1)

/-- Writes entries of a TCOMP list in order, as stores of the thread (R303), up to one that waits. -/
def writeList (t : Thread) : List Nat → State → Accord → State × Accord
  | [], s, a => (s, a)
  | n :: rest, s, a =>
    match listAt a.list (4 * a.listed) with
    | none => (s, a)
    | some tr =>
      if heldBack s a.tid true tr.loc 4 || leafHeld s a.tid accStore tr.entry then (s, a)
      else
        match sendScalar s t (.write (leBytes 4 n)) tr with
        | none => (s, a)
        | some s1 =>
          writeList t rest (storeFrom (s1.markLeaf accStore tr.entry) t.core tr.streaming tr.loc (leBytes 4 n)) { a with listed := a.listed + 1 }

/-- What the instruction writes to g(d). -/
def accordResult (a : Accord) : Dword :=
  BitVec.ofNat 64 (if a.op = .tsum || a.op = .tagld then a.sum else a.count)

/-- The instruction completes: g(d), and the poisoned-data trap of a TSUM (R302), which a KILL discards (R322). -/
def finishAccord (s : State) (a : Accord) : State :=
  let s1 := { s with accords := s.accords.filter fun x => x.tid != a.tid }
  match s1.thread? a.tid with
  | none => s1
  | some t =>
    let u := (t.setG a.d (accordResult a)).advance a.slots
    match a.badRow with
    | none => s1.setThread u
    | some b =>
      if t.wait = .killed then s1.setThread u
      else takeTrap (s1.setThread u) u (mkFault 0x15 b.2 (BitVec.ofNat 64 (a.va + 1024 * b.1)) accLoad)
        { pc := t.pc, save := u.pc, elem := 0 }

/-- An accord without rows left writes its list and completes, on a die that runs (R351). -/
def settleAccord (s : State) (a : Accord) : State :=
  match s.thread? a.tid with
  | none => s.setAccord a
  | some t =>
    if a.rows.isEmpty && !s.stoppedDies.mem t.die.toNat then
      let r := writeList t (a.hits.drop a.listed) s a
      if r.2.listed = r.2.hits.length then finishAccord r.1 r.2 else r.1.setAccord r.2
    else s.setAccord a

/-- The packet of an accord arrives at a stack that it has rows in, once the base die's buffer has room for it (R241, R299). -/
def arriveAt (s : State) (a : Accord) (stack : BitVec 4) : State × Accord :=
  if (a.arrivedAt stack).isSome || !(a.rows.any fun r => stackOf r.pa = stack) || !bufferRoom s stack then (s, a)
  else ({ s with accordSeq := s.accordSeq + 1 }, { a with arrivals := a.arrivals ++ [(stack.toNat, s.accordSeq)] })

/-- The sixteen stacks. -/
def allStacks : List (BitVec 4) := (List.range 16).map fun k => BitVec.ofNat 4 k

/-- The accord of a thread runs as far as it goes: packets arrive, events perform, the instruction completes. -/
def runAccord (s : State) (a : Accord) : State :=
  let r := allStacks.foldl (fun x k => arriveAt x.1 x.2 k) (s, a)
  let x := actRows r.2.rows [] (r.1.setAccord r.2) { r.2 with rows := [] }
  settleAccord x.1 { x.2.1 with rows := x.2.2 }

/-! ### Issue (R195 to R197) -/

/-- Rows of a window. -/
def windowRows (w : Dword) : Nat := 2 ^ field w 0 5

/-- The address of a window's first row. -/
def windowVa (w : Dword) : Nat := field w 10 47 * 1024

/-- The checks of R197 on the operands alone. -/
def operandFaultOf (op : TagOp) (w p param : Dword) : Option (BitVec 8) :=
  if field w 57 7 != 0 || field w 5 5 != 0 || 24 < field w 0 5 || field w 10 47 % windowRows w != 0 then some 0x01
  else if field p 56 4 != 0 || field p 24 8 != 0 || 4 < field p 60 4 || (op.single && p != 0) then some 0x02
  else if op.single && field w 0 5 != 0 then some 0x03
  else if op = .tcomp && param.toNat % 4 != 0 then some 0x04
  else if op = .tsum && (param.toNat % 8 != 0 || 1024 ≤ param.toNat) then some 0x04
  else none

/-- The rows of translated window pages, numbered from a row on. -/
def rowsOf : Nat → List (Nat × Trans) → List AccordRow
  | _, [] => []
  | n, p :: r =>
    ((List.range (p.1 / 1024)).map fun j => { index := n + j, pa := p.2.pa + 1024 * j, queued := none }) ++
      rowsOf (n + p.1 / 1024) r

/-- Inserts a row by address. -/
def insertRow (x : AccordRow) : List AccordRow → List AccordRow
  | [] => [x]
  | y :: r => if x.pa < y.pa then x :: y :: r else y :: insertRow x r

/-- Whether a list's pieces meet a window's on physical bytes (R200). -/
def piecesMeet (as bs : List (Nat × Trans)) : Bool :=
  as.any fun a => bs.any fun b => overlap a.2.loc a.1 b.2.loc b.1

/-- A TAG fault: TRAPADDR names the window's first row (R197). -/
def tagFault (cause sub : BitVec 8) (va : Nat) : Flt := mkFault cause sub (BitVec.ofNat 64 va) accLoad

/-- A piece of a window. The scratchpad window holds no rows: its addresses lie outside the tagged capacity, and past the scratchpad no bytes
lie, so that a piece there shares none with a list. -/
def windowPiece (s : State) (ag : Agent) (op : TagOp) (va _n : Nat) : Res Trans :=
  match window (BitVec.ofNat 64 va) with
  | .outside => translate s ag (if op.writes then accStore else accLoad) (BitVec.ofNat 64 va)
  | .inside off => .ok (spadTrans ag off)
  | .beyond => .ok { spadTrans ag 0 with loc := 2 ^ 62 + va, pa := 2 ^ 62 + va }

/-- A piece of a TCOMP list: it needs write permission (R200). -/
def listPiece (s : State) (ag : Agent) (va n : Nat) : Res Trans := locateScalar s ag accStore (BitVec.ofNat 64 va) n

/-- The page-wise pieces of a window. -/
def windowParts (w : Dword) : List (Nat × Nat) := pagePieces (1024 * windowRows w / 4096 + 1) (windowVa w) (1024 * windowRows w)

/-- The page-wise pieces of a TCOMP list; no other operation has one. -/
def listParts (op : TagOp) (w param : Dword) : List (Nat × Nat) :=
  if op = .tcomp then pagePieces (windowRows w / 1024 + 2) param.toNat (4 * windowRows w) else []

/-- The translations that step 2 of R196 has made, up to the first page that has none. -/
def tagTranslations (s : State) (ag : Agent) (op : TagOp) (w param : Dword) : List Trans :=
  let win := piecesDone (windowPiece s ag op) (windowParts w)
  if win.length < (windowParts w).length then win else win ++ piecesDone (listPiece s ag) (listParts op w param)

/-- A result whose fault names a window's first row (R197). -/
def atWindow {α : Type} (va : Nat) (r : Res α) : Res α :=
  match r with
  | .fault f => .fault { f with addr := BitVec.ofNat 64 va }
  | r => r

/-- Step 2 of R196: the rows of the window, the list's pieces, and every leaf that the checks pass, or the fault. Past the checks of R197 a
window or a list on lines lost with a die takes the poisoned-data fault (R336). -/
def checkTag (s : State) (t : Thread) (op : TagOp) (w p param : Dword) : Res (List (Nat × Trans) × List (Nat × Trans)) :=
  let va := windowVa w
  match operandFaultOf op w p param with
  | some sub => .fault (tagFault 0x11 sub va)
  | none => Res.after (leafReads (tagTranslations s t.agent op w param)) <|
    (atWindow va (piecesOf (windowPiece s t.agent op) (windowParts w))).bind fun win =>
    (atWindow va (piecesOf (listPiece s t.agent) (listParts op w param))).bind fun list =>
      if piecesMeet list win then .fault (tagFault 0x11 0x04 va)
      else if win.any fun x => !x.2.tagged || Config.taggedEnd ≤ x.2.loc then .fault (tagFault 0x11 0x05 va)
      else if op = .tagst && !(win.all fun x => belongs (tagOf s x.2.pa) t.tenant) then .fault (tagFault 0x12 0x01 va)
      else if (op = .tagst || op = .tretag) && !legalTag (param.extractLsb' 0 32) t.tenant then .fault (tagFault 0x12 0x02 va)
      else if (win ++ list).any fun x => !isSpad x.2.loc && lineLost s x.2.loc x.1 then .fault (tagFault 0x15 0x05 va)
      else .ok (win, list)

/-- The stacks of a window's rows, each of which an accord sends one packet (R297). -/
def windowStacks (win : List (Nat × Trans)) : List (BitVec 4) := (win.map fun x => stackOf x.2.pa).eraseDups

/-- The accord that a TAG instruction broadcasts. -/
def accordOf (s : State) (t : Thread) (tags : List (BitVec 8)) (op : TagOp) (d : BitVec 7) (slots : Nat) (w p param : Dword)
    (win list : List (Nat × Trans)) : Accord :=
  let acc := if op.writes then accStore else accLoad
  let pages := heldPages s t.agent acc (windowVa w) (1024 * windowRows w)
  { tid := t.tid, tags := (windowStacks win).zip tags, tenant := t.tenant, op := op, param := param, pattern := p, d := d, slots := slots,
    va := windowVa w, rows := (rowsOf 0 win).foldr insertRow [], arrivals := [], asid := t.atp.extractLsb' 44 16,
    pages := if op = .tcomp then pages ++ heldPages s t.agent accStore param.toNat (4 * windowRows w) else pages,
    list := list, listed := 0, count := 0, sum := 0, hits := [], badRow := none }

/-- Broadcasts an accord, and, unless the device defers its events, runs it. -/
def broadcast (s : State) (a : Accord) : State :=
  let s1 := { s with accords := s.accords ++ [a] }
  if s.deferAccords then s1 else runAccord s1 a

/-- What step 2 of R196 leaves at the pages of a window and of a list, each translated once (R292, R326): the reads, and the marks of the window's
leaves. Those of the list's leaves come with its writes. -/
def markWindow (s : State) (op : TagOp) (win list : List (Nat × Trans)) : State :=
  (s.markLeaves (if op.writes then accStore else accLoad) (win.map (·.2))).noteReads (leafReads (list.map (·.2)))

/-- A TAG instruction (R196). The thread stalls until the core's L1 miss port has a tag for each stack's packet (R234, R297), and while its
accord is in flight. -/
def tagOp (op : TagOp) (d a : BitVec 7) (b : Src) (usesD : Bool) (s : State) : Result :=
  onThread s fun t =>
    match s.accord? t.tid with
    | some x => if s.deferAccords then s else runAccord s x
    | none =>
      if ((if usesD then [d] else []) ++ a :: b.reads).any t.badG then scalarTrap s t (mkFault 0x15 0x02 0 accLoad)
      else
        afterAll s t fun s t =>
          onAccess s t (checkTag s t op (t.g a) (t.src b) (t.g d)) fun r =>
            let tags := freeTags s (missPort t.core)
            if tags.length < (windowStacks r.1).length then s
            else
              let list := r.2.map fun x => (x.1, x.2.noted)
              broadcast (markWindow s op r.1 r.2) (accordOf s t tags op d b.slots (t.g a) (t.src b) (t.g d) r.1 list)

/-- TAGST (R200). -/
def execTagst (d a : BitVec 7) (b : Src) (_o : Order) (s : State) : Result := tagOp .tagst d a b true s

/-- TAGLD (R200). -/
def execTagld (d a : BitVec 7) (b : Src) (_o : Order) (s : State) : Result := tagOp .tagld d a b false s

/-- TCNT (R200). -/
def execTcnt (d a : BitVec 7) (b : Src) (_o : Order) (s : State) : Result := tagOp .tcnt d a b false s

/-- TCLR (R200). -/
def execTclr (d a : BitVec 7) (b : Src) (_o : Order) (s : State) : Result := tagOp .tclr d a b false s

/-- TFILL (R200). -/
def execTfill (d a : BitVec 7) (b : Src) (_o : Order) (s : State) : Result := tagOp .tfill d a b true s

/-- TRETAG (R200). -/
def execTretag (d a : BitVec 7) (b : Src) (_o : Order) (s : State) : Result := tagOp .tretag d a b true s

/-- TINC (R200). -/
def execTinc (d a : BitVec 7) (b : Src) (_o : Order) (s : State) : Result := tagOp .tinc d a b true s

/-- TCOMP (R200). -/
def execTcomp (d a : BitVec 7) (b : Src) (_o : Order) (s : State) : Result := tagOp .tcomp d a b true s

/-- TSUM (R200). -/
def execTsum (d a : BitVec 7) (b : Src) (_o : Order) (s : State) : Result := tagOp .tsum d a b true s

/-! ### Events of an accord in flight -/

/-- ACCORD_PACKET (R297, R299): a thread's packet arrives at a stack, which is the stack's match point. -/
def execAccordPacket (tid : BitVec 32) (stack : BitVec 4) (s : State) : Result :=
  match s.accord? tid with
  | none => .next s
  | some a =>
    let r := arriveAt s a stack
    .next (r.1.setAccord r.2)

/-- Rows in ascending order of address, with those of a stack whose events may perform put into their banks' queues, each bank's in its order
(R300). -/
def enterRows (s : State) (a : Accord) (stack : BitVec 4) : List AccordRow → List Nat → List AccordRow
  | [], _ => []
  | r :: rest, stuck =>
    if stackOf r.pa != stack || r.queued.isSome then r :: enterRows s a stack rest stuck
    else if !stuck.elem (rowBank r.pa) && rowReady s a r then { r with queued := some s.accordSeq } :: enterRows s a stack rest stuck
    else r :: enterRows s a stack rest (rowBank r.pa :: stuck)

/-- The row engine of a stack puts the events of an accord that may perform into their banks' queues (R300). -/
def queueEvents (s : State) (tid : BitVec 32) (stack : BitVec 4) : State :=
  match s.accord? tid with
  | none => s
  | some a =>
    { s with accordSeq := s.accordSeq + 1 }.setAccord { a with rows := enterRows s a stack a.rows [] }

/-- Whether a row of an accord is the next of its bank (R300). -/
def nextOfBank (a : Accord) (r : AccordRow) : Bool := !a.rows.any fun x => rowBank x.pa = rowBank r.pa && x.pa < r.pa

/-- MATCH_AND_ACT (R196 step 4, R300): the event of one window row, and what completes with the last. -/
def execMatchAndAct (tid : BitVec 32) (row : BitVec 25) (s : State) : Result :=
  match s.accord? tid with
  | none => .next s
  | some a =>
    match a.rows.find? fun r => r.index = row.toNat with
    | none => .next (settleAccord s a)
    | some r =>
      if rowReady s a r && nextOfBank a r then
        let x := rowEvent s { a with rows := a.rows.filter fun y => y.index != r.index } r
        .next (settleAccord x.1 x.2)
      else .next s

end Sys2Proof.Machine
end

