-- ==== Sys2Proof/Machine/Spawn.lean ====
section
/-! DEFINITION. A thread's start, parking and restoring (R35, R278 to R280, R285). -/

namespace Sys2Proof.Machine

/-- A thread with every register at the value of the columns Reset (R35), before its place and launch values are filled in. -/
def Thread.blank : Thread :=
  { tid := 0, crewIndex := 0, sizeM1 := 0, member := 0, gang := 0, tgpos := 0, tileg := false, ncrewM1 := 0, taskSeq := 0, gangIdx := 0,
    queue := 0, sup := false, prio := 0, tenant := 0, spadLo := 0, spadLen := 0, image := 0, parked := false, pc := 0, arrived := none, arrivedPage := 4096, scal := [],
    vregs := [], masks := [], vl := 0, vtype := 0, vstart := 0, vcpAddr := 0, grant := 0, lanes := 0, fcsr := 0, xcls := 0,
    mshape := (512 : BitVec 10) ++ (128 : BitVec 16), mrow := 0, mkoff := 0, swb := 0, vwb := 0,
    trap := { cause := 0, pc := 0, addr := 0, elem := 0, save := 0 }, trapVec := 0, atp := 0, latReq := 0, inHandler := false,
    snapshot := none, vq := [], epoch := 0, order := 0, replay := none, repeats := [], wait := .none, yielded := false, links := [],
    tickets := [], issued := 0, sbuf := [], stores := 0, fences := StreamFence.none, holdStore := false, holdVec := false, holdMat := false,
    noAhead := false, stale := false, badScal := [], badVregs := [], badMasks := [] }

/-! ### Places -/

/-- PLACE: DIE, CORE, SLOT (R115). -/
def placeOf (core slot : Nat) : Nat := core * 8 + slot

/-- The next generation of a place (R115). -/
def nextGen (s : State) (place : Nat) : BitVec 16 := Sparse.get 0 s.slotGen place + 1

/-- The identifier of the next thread at a place. -/
def nextTid (s : State) (place : Nat) : BitVec 32 := nextGen s place ++ BitVec.ofNat 16 place

/-- Slots of a core that no running thread holds. -/
def freeSlots (s : State) (core : Nat) : List Nat :=
  (List.range 8).filter fun k => !(coreThreads s core).any fun t => t.slot.toNat = k

/-- Scratchpad ranges of a core that crews have reserved, running or parked (R278). -/
def reservedRanges (s : State) (core : Nat) : List (Nat × Nat) :=
  (s.threads.filter fun t => t.core = core).map fun t => (t.spadLo, t.spadLen)

/-- The offsets at which a core has room for a crew's range: multiples of 16 KiB (R278, R366, R370). -/
def spadGaps (s : State) (core len : Nat) : List Nat :=
  ((List.range 96).map (· * 16384)).filter fun off =>
    off + len ≤ Config.spadBytes && (reservedRanges s core).all fun r => !overlap off len r.1 r.2

/-- Images of a tenant's pool on a die that no thread uses (R279). -/
def freeImages (s : State) (die : BitVec 2) (tenant : BitVec 4) : List Nat :=
  let p := s.mreg die (offCtxpool tenant)
  ((List.range (field p 0 16)).map fun k => field p 20 37 * 2 ^ 20 + k * (3 * 2 ^ 20)).filter fun a =>
    !s.threads.any fun t => t.die = die && t.tenant = tenant && t.image = a

/-! ### Parking and restoring (R285) -/

/-- Whether a thread can leave its slot now: a TAG instruction whose broadcast has begun and a KILL complete first, a thread that ends keeps its
slot until its record has entered (R333), and nothing may hold back the writes to its image (R262). -/
def parkable (s : State) (t : Thread) : Bool :=
  !(s.accords.any fun a => a.tid = t.tid) && !rangeHeld s true t.image imageBytes && match t.wait with
    | .killing _ | .dying _ _ => false
    | _ => true

/-- A trap that is due is taken before a pre-emption (R322), but by a thread whose stream is over, or that is in replay-wait (R331). -/
def takeDue (s : State) (t : Thread) : State :=
  if t.over || t.replay.isSome then s
  else
    match dueMatrix s t.tid with
    | some d => takeMatrixTrap s t d.1 d.2
    | none => if t.wait = .unreachable then trapUnreachable s t else s

/-- What a thread does before a pre-emption stops it: a trap that is due is taken, and a TAG instruction and a KILL go on as far as they can. -/
def stopThread (s : State) (tid : BitVec 32) : State :=
  match s.thread? tid with
  | none => s
  | some t =>
    let s1 := takeDue s t
    let s2 := match s1.accord? tid with
      | some a => runAccord s1 a
      | none => s1
    match s2.thread? tid with
    | none => s2
    | some u => finishKill s2 u

/-- A thread leaves its slot: what has run ahead is discarded, the rows that its matrix entry has completed give their flags (R96), its links break,
it gives up its lane groups, its registers go to the image. -/
def parkThread (s : State) (t : Thread) : State :=
  let s1 := giveFlags (s.interrupt t) t.tid
  (writeImage s1 ((s1.thread? t.tid).getD t)).update t.tid fun u =>
    { u with parked := true, lanes := 0, links := u.links.map fun k : Link => { k with intact := false } }

/-- A thread is back in its slot, with the registers that its image gives and as many lane groups as before (R34, R285). MROW of a stopped
matrix entry is that entry's row (R30). -/
def restoreThread (s : State) (t : Thread) : State :=
  let u := s.current t
  let row := imageCsr s t 0x11
  let edited := !t.stale && mrowOf s t != t.mrow && csrLegal s t 0x11 row
  let s1 := if edited then setMatrixHead s t.tid fun m => some { m with row := row.extractLsb' 0 8 } else s
  (s1.noteRead t.image imageBytes).setThread { u with parked := false, stale := false, lanes := pickLanes (grantableLanes s t) u.grant.toNat }

/-! ### Starting (R35, R280) -/

/-- g2 at start (R280). -/
def startStack (t : Thread) : Nat :=
  let n := t.sizeM1.toNat + 1
  Config.spadBase + t.spadLo + t.spadLen - t.member.toNat * (t.spadLen / (16 * n)) * 16

/-- The launch registers g2 to g6; g7 to g10 are read from ARGS before the first instruction. -/
def launchRegs (t : Thread) (b : LaunchBlock) : Thread :=
  ((((t.setG 2 (BitVec.ofNat 64 (startStack t))).setG 3 b.p0).setG 4 b.p1).setG 5 b.p2).setG 6 b.p3

/-- A new thread enters its slot: the place's generation rises. -/
def State.addThread (s : State) (place : Nat) (t : Thread) : State :=
  { s with
    threads := s.threads ++ [{ t with tid := nextTid s place }]
    slotGen := Sparse.set 0 s.slotGen place (nextGen s place) }

/-- Every granule of a crew's range is set empty (R158, R278, R366, R370). -/
def emptyRange (s : State) (core lo len : Nat) : State :=
  { s with full := NatSet.clear s.full (spadLoc core lo / 16) (len / 16) }

/-- The launch of a thread's task, when it is still known. -/
def taskOf (s : State) (t : Thread) : Option Task := s.tasks.find? fun k => k.queue = t.queue && BitVec.ofNat 32 k.seq = t.taskSeq

/-- The read of ARGS: 32 bytes loaded into g7 to g10; 0 loads zeros (R274, R280). -/
def readArgs (s : State) (t : Thread) (args : Dword) : Res (State × Thread) :=
  if args = 0 then .ok (s, t)
  else if args.toNat % 32 != 0 then .fault (mkFault 0x03 0 args accLoad)
  else
    (locateScalar s t.agent accLoad args 32).bind fun tr =>
      (readable s t.agent accLoad args tr 32).bind fun tr =>
        let s1 := (s.markLeaf accLoad tr.entry).noteRead tr.loc 32
        let w := fun k => leDword (s1.loadBytes (tr.loc + 8 * k) 8)
        .ok (s1, (((t.setG 7 (w 0)).setG 8 (w 1)).setG 9 (w 2)).setG 10 (w 3))

/-- A started thread reads ARGS; a fault on it is fatal, with TRAPADDR = ARGS (R275). -/
def startArgs (s : State) (t : Thread) : State :=
  let args := match taskOf s t with
    | some k => k.block.args
    | none => 0
  match readArgs s t args with
  | .wait => s
  | .fault f =>
    let f := { f with va := args, addr := args }
    let t' := { t with trap := trapRegs f 0 true (scalarPoint t) }
    endFatal (s.setThread t') t' f 0
  | .ok r => r.1.setThread { r.2 with wait := .entering }

end Sys2Proof.Machine
end

