-- ==== Sys2Proof/Machine/Sched.lean ====
section
/-! DEFINITION. Dispatch rounds: the gang table, placement, pre-emption, restoring, and the end of a task (R277 to R286). -/

namespace Sys2Proof.Machine

/-! ### Gangs -/

/-- The live threads of a gang. -/
def gangThreads (s : State) (g : Gang) : List Thread := s.threads.filter fun t => t.die = g.die && t.gang = g.id

/-- The task of a gang. -/
def gangTask (s : State) (g : Gang) : Option Task := s.tasks.find? fun k => k.queue = g.queue && k.seq = g.seq

/-- Threads of a gang: all of them while it waits, the live ones once it is placed. -/
def gangSize (s : State) (g : Gang) : Nat :=
  if g.state = .waiting then
    match gangTask s g with
    | some k => (k.block.ncrewM1 + 1) * (k.block.nthrM1 + 1)
    | none => 0
  else (gangThreads s g).length

/-- Whether two gangs are one. -/
def Gang.same (g h : Gang) : Bool := g.die = h.die && g.id = h.id

/-- Replaces a gang. -/
def State.setGang (s : State) (g : Gang) : State := { s with gangs := s.gangs.map fun x => if x.same g then g else x }

/-- The gangs of a die. -/
def dieGangs (s : State) (die : BitVec 2) : List Gang := s.gangs.filter fun g => g.die = die

/-! ### Placement (R278, R280) -/

/-- Choices of the device in one step are told apart by what has already been placed (log 14). -/
def placeSalt (s : State) (k : Nat) : Nat := 16 * (s.threads.length + 1) + k

/-- The enabled cores of a die on which a crew of n threads with len bytes of scratchpad fits, apart from those taken. -/
def fittingCores (s : State) (die : BitVec 2) (n len : Nat) (taken : List Nat) : List Nat :=
  ((List.range Config.coresPerDie).map fun c => die.toNat * 64 + c).filter fun core =>
    !taken.elem core && n ≤ (freeSlots s core).length && !(spadGaps s core len).isEmpty

/-- Whether a waiting gang fits (R278). -/
def fits (s : State) (g : Gang) : Bool :=
  match gangTask s g with
  | none => false
  | some k =>
    let n := k.block.nthrM1 + 1
    decide (k.block.ncrewM1 + 1 ≤ (fittingCores s g.die n (k.block.spad * 16384) []).length) &&
      decide ((k.block.ncrewM1 + 1) * n ≤ (freeImages s g.die g.tenant).length)

/-- The new thread of a gang, but for its slot and image. -/
def newThread (s : State) (g : Gang) (k : Task) (crew member lo : Nat) : Thread :=
  let b := k.block
  let t : Thread := { Thread.blank with
    crewIndex := BitVec.ofNat 4 crew, sizeM1 := BitVec.ofNat 3 b.nthrM1, member := BitVec.ofNat 3 member, gang := g.id,
    tgpos := if b.tileg then BitVec.ofNat 2 crew else 0, tileg := b.tileg, ncrewM1 := BitVec.ofNat 4 b.ncrewM1,
    taskSeq := BitVec.ofNat 32 k.seq, gangIdx := BitVec.ofNat 16 g.index, queue := k.queue, sup := k.sup, prio := k.prio,
    tenant := k.tenant, spadLo := lo, spadLen := b.spad * 16384, pc := b.entry + 8,
    atp := Sparse.get 0 s.launchAtp k.tenant.toNat, wait := .starting }
  launchRegs t b

/-- Places the threads of a crew on a core, member by member. -/
def placeMembers (g : Gang) (k : Task) (crew core lo : Nat) : Nat → Nat → State → State
  | 0, _, s => s
  | fuel + 1, member, s =>
    match pickFree s (placeSalt s 0) (freeSlots s core), pickFree s (placeSalt s 1) (freeImages s g.die g.tenant) with
    | some slot, some image =>
      placeMembers g k crew core lo fuel (member + 1)
        (s.addThread (placeOf core slot) { newThread s g k crew member lo with tid := nextTid s (placeOf core slot), image := image })
    | _, _ => s

/-- Places the crews of a gang, each on a core of its own, with its range of the scratchpad (R278, R366, R370). -/
def placeCrews (g : Gang) (k : Task) : Nat → Nat → List Nat → State → State
  | 0, _, _, s => s
  | fuel + 1, crew, taken, s =>
    let n := k.block.nthrM1 + 1
    let len := k.block.spad * 16384
    match pickFree s (placeSalt s 2) (fittingCores s g.die n len taken) with
    | none => s
    | some core =>
      let lo := (pickFree s (placeSalt s 3) (spadGaps s core len)).getD 0
      placeCrews g k fuel (crew + 1) (core :: taken) (placeMembers g k crew core lo n 0 (emptyRange s core lo len))

/-- Places a fitting gang whole. -/
def placeGang (s : State) (g : Gang) : State :=
  match gangTask s g with
  | none => s
  | some k => (placeCrews g k (k.block.ncrewM1 + 1) 0 [] s).setGang { g with state := .running, ran := 0 }

/-! ### Pre-emption and restoring (R283 to R285) -/

/-- The threads of gangs do what comes before a pre-emption (R285, R322). -/
def stopGangs (s : State) (gs : List Gang) : State :=
  (gs.flatMap fun g => (gangThreads s g).map Thread.tid).foldl stopThread s

/-- Whether gangs can leave their slots now. -/
def preemptable (s : State) (gs : List Gang) : Bool := gs.all fun g => (gangThreads s g).all (parkable s)

/-- Pre-empts a running gang as a whole. -/
def preempt (s : State) (g : Gang) : State :=
  ((gangThreads s g).foldl parkThread s).setGang { g with state := .parked, parkedFor := 0 }

/-- Whether the slots and the lane groups of a parked gang are free, and nothing holds back the reads of its images (R262). -/
def restorable (s : State) (g : Gang) : Bool :=
  let ts := gangThreads s g
  ts.all fun t => (freeSlots s t.core).elem t.slot.toNat && !rangeHeld s false t.image imageBytes &&
    decide (((ts.filter fun u => u.core = t.core).map fun u => (s.current u).grant.toNat).sum ≤ (lanesOf (grantableLanes s t)).length)

/-- Restores a parked gang. -/
def restoreGang (s : State) (g : Gang) : State :=
  ((gangThreads s g).foldl restoreThread s).setGang { g with state := .running, ran := 0 }

/-- A candidate can be placed or restored as the die stands. -/
def ready (s : State) (g : Gang) : Bool := if g.state = .waiting then fits s g else restorable s g

/-- Places or restores a candidate. -/
def admitGang (s : State) (g : Gang) : State := if g.state = .waiting then placeGang s g else restoreGang s g

/-- The sublists of k members, those with earlier members first. -/
def choose {α : Type} : Nat → List α → List (List α)
  | 0, _ => [[]]
  | _ + 1, [] => []
  | k + 1, x :: r => (choose k r).map (x :: ·) ++ choose (k + 1) r

/-- Inserts a gang by run length, longest first, the lower table entry among equals (R284). -/
def insertRun (g : Gang) : List Gang → List Gang
  | [] => [g]
  | h :: r => if h.ran < g.ran || (h.ran = g.ran && g.entry < h.entry) then g :: h :: r else h :: insertRun g r

/-- The fewest gangs, longest run first, whose pre-emption satisfies a test (R284). -/
def fewest (s : State) (gs : List Gang) (test : State → Bool) : Option (List Gang) :=
  let sorted := gs.foldr insertRun []
  (List.range (gs.length + 1)).findSome? fun k => (choose k sorted).find? fun vs => test (vs.foldl preempt s)

/-- Slots in use by a tenant on a die. -/
def slotsInUse (s : State) (die : BitVec 2) (tenant : BitVec 4) : Nat :=
  (s.threads.filter fun t => t.die = die && t.tenant = tenant && !t.parked).length

/-- WEIGHT of a tenant on a die (R282). -/
def weightOf (s : State) (die : BitVec 2) (tenant : BitVec 4) : Nat := field (s.mreg die (offTsched tenant)) 0 8

/-- The sum of the weights of the tenants with gangs on a die. -/
def totalWeight (s : State) (die : BitVec 2) : Nat :=
  ((allTenants.filter fun t => (dieGangs s die).any fun g => g.tenant = t).map (weightOf s die)).sum

/-- The gangs that may be pre-empted for a candidate (R284). -/
def victimsFor (s : State) (c : Gang) : List Gang :=
  let total := totalWeight s c.die
  (dieGangs s c.die).filter fun g => g.state = .running && 4 ≤ g.ran &&
    ((g.tenant = c.tenant && g.level < c.level) ||
      (total != 0 && 480 * weightOf s c.die g.tenant < slotsInUse s c.die g.tenant * total))

/-- The running gangs on the cores of an urgent gang. -/
def holdersOf (s : State) (u : Gang) : List Gang :=
  let cores := (gangThreads s u).map Thread.core
  (dieGangs s u.die).filter fun g => g.state = .running && (gangThreads s g).any fun t => cores.elem t.core

/-! ### A round (R277, R283) -/

/-- The rounds' passing for one gang: aging of a waiting one, run length, time parked. -/
def ageGang (s : State) (g : Gang) : Gang :=
  match g.state with
  | .waiting =>
    let n := g.atLevel + 1
    if field (s.mreg g.die (offTsched g.tenant)) 16 8 ≤ n && g.level < 3 then { g with level := g.level + 1, atLevel := 0 }
    else { g with atLevel := n }
  | .running => { g with ran := g.ran + 1 }
  | .parked => { g with parkedFor := g.parkedFor + 1 }

/-- The urgent gang parked longest; the lower table entry among equals. -/
def urgentOf (gs : List Gang) : Option Gang :=
  (gs.filter fun g => g.state = .parked && 32 ≤ g.parkedFor).foldl (fun best g => match best with
    | none => some g
    | some b => if b.parkedFor < g.parkedFor || (b.parkedFor = g.parkedFor && g.entry < b.entry) then some g else some b) none

/-- Restores the urgent gang, pre-empting what it needs (R283, R284). A pre-emption that waits for a TAG instruction or a KILL is decided again in
the next round (log 56). -/
def serveUrgent (s : State) (die : BitVec 2) : State :=
  match urgentOf (dieGangs s die) with
  | none => s
  | some u =>
    match fewest s (holdersOf s u) fun s => restorable s u with
    | none => s
    | some vs =>
      let s1 := stopGangs s vs
      if preemptable s1 vs then restoreGang (vs.foldl preempt s1) u else s1

/-- Whether a gang is a better candidate: higher level, then parked before waiting, then older (R283). -/
def better (a b : Gang) : Bool :=
  decide (b.level < a.level) || (a.level = b.level &&
    ((a.state = .parked && b.state != .parked) || ((a.state = .parked) = (b.state = .parked) && decide (a.age < b.age))))

/-- The candidate of a tenant; with WEIGHT 0 it places no new gang (R282), so that a parked one alone is a candidate. -/
def candidateOf (gs : List Gang) (tenant : BitVec 4) (weight : Nat) : Option Gang :=
  (gs.filter fun g => g.tenant = tenant && (g.state = .parked || (g.state = .waiting && weight != 0))).foldl (fun best g => match best with
    | none => some g
    | some b => if better g b then some g else some b) none

def deficitKey (die : BitVec 2) (tenant : BitVec 4) : Nat := die.toNat * 16 + tenant.toNat

/-- The loop of R283 for a tenant. -/
def serveLoop (die : BitVec 2) (tenant : BitVec 4) : Nat → State → State
  | 0, s => s
  | fuel + 1, s =>
    match candidateOf (dieGangs s die) tenant (weightOf s die tenant) with
    | none => s
    | some c =>
      let d := Sparse.get 0 s.deficit (deficitKey die tenant)
      let n := gangSize s c
      if d < n then s
      else
        let spend := fun (s : State) => { s with deficit := Sparse.set 0 s.deficit (deficitKey die tenant) (d - n) }
        if ready s c then serveLoop die tenant fuel (spend (admitGang s c))
        else
          match fewest s (victimsFor s c) fun s => ready s c with
          | none => s
          | some vs =>
            let s1 := stopGangs s vs
            if preemptable s1 vs then serveLoop die tenant fuel (spend (admitGang (vs.foldl preempt s1) c)) else s1

/-- One tenant's turn in a round. -/
def serveTenant (die : BitVec 2) (s : State) (tenant : BitVec 4) : State :=
  let key := deficitKey die tenant
  if (dieGangs s die).any fun g => g.tenant = tenant && g.state != .running then
    let d := min (Sparse.get 0 s.deficit key + weightOf s die tenant) 1024
    serveLoop die tenant Config.gangTableEntries { s with deficit := Sparse.set 0 s.deficit key d }
  else { s with deficit := Sparse.set 0 s.deficit key 0 }

/-- The tenants in a round's order. -/
def tenantOrder (round : Nat) : List (BitVec 4) := (List.range 16).map fun k => BitVec.ofNat 4 ((round + k) % 16)

/-! ### Entering the gang table (R277) -/

/-- The task of a queue whose gangs have not all entered the table. -/
def unfinished (s : State) (q : BitVec 10) : Option Task := s.tasks.find? fun k => k.queue = q && k.entered < k.block.gangsM1 + 1

/-- Whether a queue has a gang or a block to offer. -/
def offers (s : State) (q : BitVec 10) : Bool :=
  (unfinished s q).isSome || (qEnabled (qcfg s q) && qUsed s q != 0)

/-- The tenant whose gangs a queue offers. -/
def offerTenant (s : State) (q : BitVec 10) : BitVec 4 :=
  match unfinished s q with
  | some k => k.tenant
  | none => qTenant (qcfg s q)

/-- Free entries of a die's gang table. -/
def freeEntries (s : State) (die : BitVec 2) : List Nat :=
  (List.range Config.gangTableEntries).filter fun e => !(dieGangs s die).any fun g => g.entry = e

/-- Identifiers that no live gang of a die has (R8). -/
def freeIds (s : State) (die : BitVec 2) : List Nat :=
  (List.range 65536).filter fun k => !(dieGangs s die).any fun g => g.id.toNat = k

/-- The next gang of a task enters the table. -/
def enterGang (s : State) (die : BitVec 2) (k : Task) : Option State :=
  match pickFree s (2 * s.gangCount + 1) (freeEntries s die), pickFree s (2 * s.gangCount + 2) (freeIds s die) with
  | some e, some id =>
    let g : Gang := { id := BitVec.ofNat 16 id, die := die, entry := e, queue := k.queue, seq := k.seq, index := k.entered,
                      tenant := k.tenant, state := .waiting, level := k.prio.toNat, atLevel := 0, ran := 0, parkedFor := 0,
                      age := s.gangCount }
    some { s with
      gangs := s.gangs ++ [g]
      gangCount := s.gangCount + 1
      tasks := s.tasks.map fun x : Task => if x.queue = k.queue && x.seq = k.seq then { x with entered := x.entered + 1 } else x
      lastQueue := Sparse.set 0 s.lastQueue (deficitKey die k.tenant) (k.queue.toNat + 1) }
  | _, _ => none

/-- The command that posted a block of a queue. -/
def launcherOf (s : State) (q : BitVec 10) (k : Nat) : Option Command := s.commands.find? fun c => c.launch = some (q, k)

/-- The dispatcher reads block HEAD and advances HEAD (R273, R277): a task, or an invalid block discarded and reported (R275). None
while a claim holds the read back. -/
def acceptBlock (s : State) (q : BitVec 10) : Option (State × Option Task) :=
  let cfg := qcfg s q
  let head := qHead s q
  let at_ := qBlock cfg head
  if heldBack s deviceTid false at_ 64 then none
  else
    let s := s.noteRead at_ 64
    let ws := dwordsOf (s.loadBytes at_ 64)
    let seq := Sparse.get 0 s.launched q.toNat
    let s1 := { setQHead s q (head + 1) with launched := Sparse.set 0 s.launched q.toNat (seq + 1) }
    let ticket := (launcherOf s q head).map fun c => (c.tid, c.slot, c.seq)
    let s2 := { s1 with commands := s1.commands.map fun c : Command => if c.launch = some (q, head) then { c with launch := none } else c }
    if blockInvalid ws || (poisonSub s at_ 64).isSome then
      let s3 := (countDiscard s2 q).report (.blockDiscarded q)
      some ({ s3 with commands := s3.commands.map fun c : Command =>
        if ticket = some (c.tid, c.slot, c.seq) then { c with phase := .finishing ((Config.freeStatus s.steps).setWidth 64) 0 } else c }, none)
    else
      let b := launchBlockOf ws
      let k : Task := { queue := q, seq := seq, tenant := qTenant cfg, sup := qSup cfg, prio := qPrio cfg, block := b, entered := 0,
                        live := b.gangsM1 + 1, fatal := false, hostFed := !qDeviceFed cfg, ticket := ticket }
      some ({ s2 with tasks := s2.tasks ++ [k] }, some k)

/-- A queue enters the next gang of its oldest unfinished block, or of the next block it holds. -/
def offerGang (die : BitVec 2) (q : BitVec 10) : Nat → State → State
  | 0, s => s
  | fuel + 1, s =>
    match unfinished s q with
    | some k => (enterGang s die k).getD s
    | none =>
      if qEnabled (qcfg s q) && qUsed s q != 0 then
        match acceptBlock s q with
        | none => s
        | some (s1, some k) => (enterGang s1 die k).getD s1
        | some (s1, none) => offerGang die q fuel s1
      else s

/-- Whether one queue comes before another of its tenant: higher PRIO, then ascending number after the last. -/
def queueBefore (s : State) (last : Nat) (a b : BitVec 10) : Bool :=
  let rank := fun (q : BitVec 10) => (q.toNat % 256 + 256 - last % 256) % 256
  decide ((qPrio (qcfg s b)).toNat < (qPrio (qcfg s a)).toNat) ||
    (qPrio (qcfg s a) = qPrio (qcfg s b) && decide (rank a < rank b))

/-- Inserts a queue in a tenant's order. -/
def insertQueue (s : State) (last : Nat) (q : BitVec 10) : List (BitVec 10) → List (BitVec 10)
  | [] => [q]
  | x :: r => if queueBefore s last q x then q :: x :: r else x :: insertQueue s last q r

/-- The queues of a die that offer gangs of a tenant, in the order of R277. -/
def tenantQueues (s : State) (die : BitVec 2) (tenant : BitVec 4) : List (BitVec 10) :=
  let qs := ((List.range 256).map fun k => BitVec.ofNat 10 (die.toNat * 256 + k)).filter fun q => offers s q && offerTenant s q = tenant
  qs.foldr (insertQueue s (Sparse.get 0 s.lastQueue (deficitKey die tenant))) []

/-- One pass over the tenants. -/
def offerPass (s : State) (die : BitVec 2) (round : Nat) : State :=
  (tenantOrder round).foldl (fun s t => (tenantQueues s die t).foldl (fun s q =>
    if (freeEntries s die).isEmpty then s else offerGang die q (qUsed s q + 1) s) s) s

/-- Passes until the table is full or no queue offers a gang. -/
def fillTable (die : BitVec 2) (round : Nat) : Nat → State → State
  | 0, s => s
  | fuel + 1, s =>
    let s1 := offerPass s die round
    if s1.gangCount = s.gangCount then s1 else fillTable die round fuel s1

/-! ### The event -/

/-- A round of a die ends (R277, R282, R283): DROUND.LEN × 1,024 cycles of its uncore island have passed. -/
def endRound (s : State) (die : BitVec 2) : State :=
  let round := s.rounds.getD die.toNat 0
  let len := field (s.mreg die offDround) 0 16 * 1024
  let s1 := { s with
    gangs := s.gangs.map fun g => if g.die = die then ageGang s g else g
    threads := s.threads.map fun t : Thread => if t.die = die then { t with yielded := false } else t
    uncore := s.uncore.set die.toNat (s.uncore.getD die.toNat 0 + len) }
  let s2 := (tenantOrder round).foldl (serveTenant die) (serveUrgent s1 die)
  let s3 := fillTable die round (Config.gangTableEntries + 1) s2
  { s3 with rounds := s3.rounds.set die.toNat (round + 1) }

/-- DISPATCH_ROUND (R277, R283). -/
def execDispatchRound (die : BitVec 2) (s : State) : Result := .next (if dieUp s die then endRound s die else s)

/-! ### The end of a task (R281) -/

/-- The agent of the DONE increment: the tenant's address space at the task's level, through the stream translator of a base die of the queue's
die (log 84). -/
def doneAgent (s : State) (k : Task) : Agent :=
  { tid := deviceTid, tenant := k.tenant, sup := k.sup, atp := Sparse.get 0 s.launchAtp k.tenant.toNat,
    unit := 256 + 4 * (queueDie k.queue).toNat + Config.freePlace k.seq 8 % 4, core := 0, spadLo := 0, spadLen := 0 }

/-- The DONE increment, an AMOADD.rel.dev (R281, R257), or the fault that is reported instead (R275); none while it is held back. -/
def countDone (s : State) (k : Task) : Option State :=
  let va := k.block.done
  if va = 0 then some s
  else if va.toNat % 8 != 0 then some (s.report (.doneFault k.queue k.seq (mkFault 0x03 0 va accAmo)))
  else
    match (locateScalar s (doneAgent s k) accAmo va 8).bind fun tr => readable s (doneAgent s k) accAmo va tr 8 with
    | .wait => none
    | .fault f => some (s.report (.doneFault k.queue k.seq f))
    | .ok tr => if awaitsAcks s true tr.loc then none else some (rmw s tr .add 1 0 true).1

/-- A task whose last gang has ended: DONE, then the launch ticket or the host's vector (R281, R338). The die of its queue does nothing while it
has stopped (R351). -/
def endTask (s : State) (k : Task) : Option State :=
  if k.live != 0 || s.stoppedDies.mem (queueDie k.queue).toNat then none
  else
    match countDone s k with
    | none => none
    | some s1 =>
      let s2 := { s1 with tasks := s1.tasks.filter fun x => !(x.queue = k.queue && x.seq = k.seq) }
      let s3 := { s2 with commands := s2.commands.map fun c : Command =>
        if k.ticket = some (c.tid, c.slot, c.seq) && c.phase = .waiting then
          { c with phase := .finishing (if k.fatal then statusOf 0x31 0 else 0) 0 }
        else c }
      some (if k.hostFed then s3.raiseVector k.tenant (k.queue.toNat % 62) else s3)

/-- The next end of a task. -/
def taskWork (s : State) : Option State := firstSome (endTask s) s.tasks

end Sys2Proof.Machine
end

