-- ==== Sys2Proof/Machine/Manage.lean ====
section
/-! DEFINITION. The management space: reads, writes and what a write refuses (R232, R267, R271, R272, R279, R282, R295, R306, R307,
R329, R331, R335, R338, R339, R341, R344 to R346, R373). -/

namespace Sys2Proof.Machine

/-! ### Quotas (R232, R267) -/

/-- The sum of a field over the sixteen registers of a die, with one of them replaced. -/
def sumField (s : State) (die : BitVec 2) (off : BitVec 4 → Nat) (t : BitVec 4) (v : Dword) (lo n : Nat) : Nat :=
  (allTenants.map fun u => if u = t then field v lo n else field (s.mreg die (off u)) lo n).sum

/-- L2WQ (R232). -/
def writeL2wq (s : State) (die : BitVec 2) (t : BitVec 4) (v : Dword) : State :=
  let lo := field v 16 5
  let hi := field v 0 5
  if hi < lo || 16 < lo || 16 < hi || 16 < sumField s die (fun u => offL2wq u) t v 16 5 then s
  else s.setMreg die (offL2wq t) (v &&& 0x1F001F)

/-- DIRQ (R267). -/
def writeDirq (s : State) (die : BitVec 2) (t : BitVec 4) (v : Dword) : State :=
  let lo := field v 32 15
  let hi := field v 0 15
  if hi < lo || 16384 < lo || 16384 < hi || 16384 < sumField s die (fun u => offDirq u) t v 32 15 then s
  else s.setMreg die (offDirq t) (v &&& 0x7FFF00007FFF)

/-- CTXPOOL (R279): refused while an image of the pool is in use. -/
def writeCtxpool (s : State) (die : BitVec 2) (t : BitVec 4) (v : Dword) : State :=
  if s.threads.any fun u => u.die = die && u.tenant = t then s else s.setMreg die (offCtxpool t) (v &&& 0x01FFFFFFFFF0FFFF)

/-- TSCHED (R282): AGE 0 is refused. -/
def writeTsched (s : State) (die : BitVec 2) (t : BitVec 4) (v : Dword) : State :=
  if field v 16 8 = 0 then s else s.setMreg die (offTsched t) (v &&& 0xFF00FF)

/-- DROUND (R282): LEN 0 is refused. -/
def writeDround (s : State) (die : BitVec 2) (v : Dword) : State := if field v 0 16 = 0 then s else s.setMreg die offDround (v &&& 0xFFFF)

/-- SPLIT (R344): bits [5:3] exist in tenant 0's register only. -/
def writeSplit (s : State) (t : BitVec 4) (v : Dword) : State := s.setMreg 0 (offSplit t) (v &&& (if t = 0 then 0x3F else 0x07))

/-! ### Experts (R307) -/

/-- Whether an entry of a tenant's table is fetching, resident or evicting. -/
def tableActive (s : State) (t : BitVec 4) : Bool :=
  (ertEntries s t).any fun p => ertState s p.2 = 1 || ertState s p.2 = 2 || ertState s p.2 = 3

/-- ERTCFG. -/
def writeErtcfg (s : State) (t : BitVec 4) (v : Dword) : State :=
  if tableActive s t then s else s.setMreg 0 (offErtcfg t) (v &&& 0x01FFFFFFFFFFFFFF)

/-- EXPPOOL. -/
def writeExppool (s : State) (t : BitVec 4) (v : Dword) : State :=
  if tableActive s t || field v 11 5 < 16 || 30 < field v 11 5 then s else s.setMreg 0 (offExppool t) (v &&& 0x01FFFFFFFFFFFFFF)

/-! ### The trap queue (R329, R331, R333) -/

/-- TQPTR: a HEAD that would pass TAIL is refused. -/
def writeTqptr (s : State) (t : BitVec 4) (v : Dword) : State :=
  let p := s.mreg 0 (offTq t + 8)
  if tqUsed s t < (field v 0 16 + 65536 - field p 0 16) % 65536 then s
  else s.setMreg 0 (offTq t + 8) (setField p 0 16 (field v 0 16))

/-- A W1C flag: writing 1 clears it. -/
def clearFlag (s : State) (die : BitVec 2) (off bit : Nat) (v : Dword) : State :=
  if v.getLsbD bit then s.setMreg die off (setField (s.mreg die off) bit 1 0) else s

/-- The threads in replay-wait that a TQREPLAY write names (R331). An access whose record was not queued is re-issued by ALL only
(R333). -/
def namedThreads (s : State) (t : BitVec 4) (sel : ReplaySel) (unqueued : Bool) : List Thread :=
  s.threads.filter fun u => u.tenant = t && match u.replay with
    | none => false
    | some r => match sel with
      | .all => true
      | .thread tid => u.tid = tid && (r.queued || unqueued)
      | .engine _ _ => false

/-- The commands in replay-wait that a TQREPLAY write names. -/
def namedCommands (s : State) (t : BitVec 4) (sel : ReplaySel) (unqueued : Bool) : List Command :=
  s.commands.filter fun c => c.tenant = t && match c.replay with
    | none => false
    | some r => match sel with
      | .all => true
      | .thread _ => false
      | .engine tid slot => c.tid = tid && c.slot = slot && (r.2.2.1 || unqueued)

/-- KIND 0: the accesses are made again. -/
def replayNamed (s : State) (t : BitVec 4) (sel : ReplaySel) : State :=
  let s1 := (namedThreads s t sel false).foldl (fun s u => s.changeThread u Thread.replayed) s
  (namedCommands s1 t sel false).foldl (fun s c => s.setCommand c.replayed) s1

/-- Whether a thread waits for the answer to a system call. -/
def inSystemCall (t : Thread) : Bool := t.replay.any fun r => r.flt.cause = 0x17

/-- KIND 1: TQRESP goes to g3, and the thread resumes at the next instruction. -/
def answerNamed (s : State) (t : BitVec 4) (sel : ReplaySel) : State :=
  ((namedThreads s t sel true).filter inSystemCall).foldl (fun s u =>
    s.changeThread u fun x => x.replayed.setG 3 (s.mreg 0 (offTq t + 24))) s

/-- A thread enters its handler with the fault of its replay-wait as cause (R320); the image of a parked one follows (R34). -/
def deliverOne (s : State) (x : Thread) : State :=
  let u := s.current x
  match u.replay with
  | none => s
  | some r => syncImage (enterHandler s u r.flt r.count { pc := u.trap.pc, save := u.trap.save, elem := u.trap.elem }) u.tid

/-- KIND 2: the threads enter their handlers. -/
def deliverNamed (s : State) (t : BitVec 4) (sel : ReplaySel) : State := (namedThreads s t sel true).foldl deliverOne s

/-- Ends a thread in replay-wait fatally (R331). -/
def endReplay (s : State) (x : Thread) : State :=
  let u := s.current x
  match u.replay with
  | none => s
  | some r =>
    let u' := { u with trap := { u.trap with cause := causeWord r.flt r.count true }, replay := none }
    syncImage (endFatal (s.setThread u') u' r.flt r.count) u.tid

/-- Ends a command in replay-wait: CODE 0x02, SUB 0x01; PGREQ's failure is 0x11 (R211, R331). A stream in its operation writes the elements below
the failing one first (R209). -/
def endWaiting (s : State) (c : Command) : State :=
  match c.replay with
  | none => s
  | some r =>
    let d := { c with replay := none }
    let streams := c.op = .vstrm && (c.phase = .accepted || c.phase matches .ending _)
    match if streams then streamElement s d r.1.va else none with
    | some i => s.setCommand { d with phase := .ending i }
    | none => failAt s d (if c.op = .pgreq then statusOf 0x11 0 else statusOf 2 1) r.1.va

/-- KIND 3: threads end fatally, commands with an access failure. -/
def endNamed (s : State) (t : BitVec 4) (sel : ReplaySel) : State :=
  let s1 := (namedThreads s t sel true).foldl endReplay s
  (namedCommands s1 t sel true).foldl endWaiting s1

/-- What a TQREPLAY write names (R329). -/
def replaySel (v : Dword) : ReplaySel :=
  if v.getLsbD 61 then .all
  else if v.getLsbD 56 then .engine (v.extractLsb' 0 32) (v.extractLsb' 48 5)
  else .thread (v.extractLsb' 0 32)

/-- A TQREPLAY write by its KIND; the register reads 0. -/
def writeTqreplay (s : State) (t : BitVec 4) (v : Dword) : State :=
  let sel := replaySel v
  match field v 62 2 with
  | 0 => replayNamed s t sel
  | 1 => answerNamed s t sel
  | 2 => deliverNamed s t sel
  | _ => endNamed s t sel

/-! ### Queues (R271, R272) -/

/-- Enabled queues of a tenant. -/
def enabledQueues (s : State) (t : BitVec 4) : Nat := (allQueues.filter fun q => qEnabled (qcfg s q) && qTenant (qcfg s q) = t).length

/-- The launches that an enable of a queue leaves behind with its blocks: their tickets never complete (log 86). -/
def loseLaunches (s : State) (q : BitVec 10) : State :=
  { s with commands := s.commands.map fun c : Command => if c.launch.any fun l => l.1 = q then { c with launch := none } else c }

/-- QCFG: the queues of a failed die are lost (R336, log 91). -/
def writeQcfg (s : State) (q : BitVec 10) (v : Dword) : State :=
  let old := qcfg s q
  let new := v &&& 0x03FFFFFFFFFFFFFF
  let was := qEnabled old
  let now := qEnabled new
  if s.failedDies.mem (queueDie q).toNat || 12 ≤ field new 8 4 || (was && now && old != new) then s
  else if now && !was && 64 ≤ enabledQueues s (qTenant new) then s
  else
    let s1 := s.setMreg (queueDie q) (offQueue q) new
    if now && !was then loseLaunches (setQTail (setQHead s1 q 0) q 0) q else s1

/-- QTAIL: refused, with ERRF set, when it would post more than the ring holds. -/
def writeQtail (s : State) (q : BitVec 10) (tail : Nat) : State :=
  if qSize (qcfg s q) < (tail + 65536 - qHead s q) % 65536 then setErrf s q else setQTail s q tail

/-- A doorbell of VF t + 1 (R338): dropped, with ERRF set, for another tenant's queue, a device-fed or a supervisor queue, or a write of
another width; before bring-up is over it is dropped (R352). -/
def ringDoorbell (s : State) (vf : BitVec 5) (v : Dword) (width : BitVec 4) : State :=
  let q := v.extractLsb' 16 10
  let cfg := qcfg s q
  if s.bringUp != 6 || vf = 0 || 16 < vf.toNat then s
  else if width != 8 || (qTenant cfg).toNat + 1 != vf.toNat || qDeviceFed cfg || qSup cfg then setErrf s q
  else writeQtail s q (field v 0 16)

/-! ### Windows (R341, R346) -/

/-- A window: start and size in bytes. -/
def windowOf (base : Dword) (bits' : Nat) : Nat × Nat := (field base 28 bits' * 2 ^ 28, field base 0 18 * 2 ^ 28)

/-- HDMBASE: refused while the decoder is enabled. -/
def writeHdmbase (s : State) (die : BitVec 2) (k : Nat) (v : Dword) : State :=
  if (s.mreg die (offHdm k + 8)).getLsbD 16 then s else s.setMreg die (offHdm k) (v &&& 0x0000FFFFF003FFFF)

/-- The enabled windows of the other decoders of the device. -/
def otherHdm (s : State) (die : BitVec 2) (k : Nat) : List (Nat × Nat) :=
  [0, 1, 2, 3].flatMap fun d : BitVec 2 => (List.range 8).filterMap fun j =>
    if (d != die || j != k) && (s.mreg d (offHdm j + 8)).getLsbD 16 then some (windowOf (s.mreg d (offHdm j)) 20) else none

/-- HDMCTL. -/
def writeHdmctl (s : State) (die : BitVec 2) (k : Nat) (v : Dword) : State :=
  let old := s.mreg die (offHdm k + 8)
  let new := v &&& 0x1FFFF
  let w := windowOf (s.mreg die (offHdm k)) 20
  if old.getLsbD 16 && new.getLsbD 16 && old != new then s
  else if new.getLsbD 16 && !old.getLsbD 16 &&
      (w.1 < Config.cxlBase || Config.cxlEnd < w.1 + w.2 || (otherHdm s die k).any fun o => overlap w.1 w.2 o.1 o.2) then s
  else s.setMreg die (offHdm k + 8) new

/-- APBASE: refused while the aperture is enabled, and for a BASE below the aperture region (R346, R373). -/
def writeApbase (s : State) (k : Nat) (v : Dword) : State :=
  if (s.mreg 0 (offAperture k + 8)).getLsbD 16 || (windowOf v 28).1 < Config.apertureBase then s
  else s.setMreg 0 (offAperture k) (v &&& 0x00FFFFFFF003FFFF)

/-- The enabled windows of the other apertures. -/
def otherApertures (s : State) (k : Nat) : List (Nat × Nat) :=
  (List.range 64).filterMap fun j =>
    if j != k && (s.mreg 0 (offAperture j + 8)).getLsbD 16 then some (windowOf (s.mreg 0 (offAperture j)) 28) else none

/-- APCTL. -/
def writeApctl (s : State) (k : Nat) (v : Dword) : State :=
  let old := s.mreg 0 (offAperture k + 8)
  let new := v &&& 0xFFFFFFFFF001FFFF
  let w := windowOf (s.mreg 0 (offAperture k)) 28
  if old.getLsbD 16 && new.getLsbD 16 && old != new then s
  else if new.getLsbD 16 && !old.getLsbD 16 &&
      (w.1 < Config.apertureBase || Config.apertureEnd < w.1 + w.2 || (otherApertures s k).any fun o => overlap w.1 w.2 o.1 o.2) then s
  else s.setMreg 0 (offAperture k + 8) new

/-! ### Ownership (R293 to R296) -/

def frameKey (stack : BitVec 4) (f : Nat) : Nat := stack.toNat * 16384 + f

/-- The entry of a frame in the ownership table, 16 V + TENANT (R293). -/
def frameEntry (s : State) (stack : BitVec 4) (f : Nat) : Nat := Sparse.get 0 s.frames (frameKey stack f)

/-- The owner of a frame plus 1, or 0. -/
def frameOwner (s : State) (stack : BitVec 4) (f : Nat) : Nat :=
  let e := frameEntry s stack f
  if 16 ≤ e then e % 16 + 1 else 0

/-- Whether an update of a stack runs. -/
def ownershipBusy (s : State) (stack : BitVec 4) : Bool := s.ownership.any fun o => o.stack = stack

/-- The stored fields of TOWNCTL with a RESULT. -/
def townFields (v : Dword) (result : Nat) : Dword := setField (v &&& 0x0000002F3FFF3FFF) 38 2 result

/-- TOWNCTL (R295): ignored while an update runs; the whole range is checked first, and a refused one changes RESULT alone. -/
def writeTownctl (s : State) (stack : BitVec 4) (v : Dword) : State :=
  let die := stackDie stack
  let first := field v 0 14
  let last := first + field v 16 14
  let assign := v.getLsbD 37
  let t := v.extractLsb' 32 4
  let range := (List.range (last + 1)).drop first
  let refuse := fun result => s.setMreg die (offTown stack) (setField (s.mreg die (offTown stack)) 38 2 result)
  if ownershipBusy s stack then s
  else if 16383 < last then refuse 2
  else if assign && range.any fun f => frameOwner s stack f != 0 && frameOwner s stack f != t.toNat + 1 then refuse 1
  else
    let s1 := s.setMreg die (offTown stack) (townFields v (field (s.mreg die (offTown stack)) 38 2))
    let todo := range.filter fun f => (frameOwner s stack f = 0) = assign
    if todo.isEmpty then s1.setMreg die (offTown stack) (townFields v 0)
    else { s1 with ownership := s1.ownership ++ [{ stack := stack, assign := assign, tenant := t, frames := todo, row := 0 }] }

/-- The physical address of row r of a frame. -/
def frameRow (stack : BitVec 4) (f r : Nat) : Nat := f * 2 ^ 20 + stack.toNat * 2 ^ 16 + r * 1024

/-- An assignment's change to one row: its tag is KIND 0 of the tenant. The frame is the tenant's from its first row on. -/
def assignRow (s : State) (o : Ownership) (f : Nat) : State :=
  let s1 := setTag s (frameRow o.stack f o.row) (mkTag 0 o.tenant 0)
  if o.row = 0 then { s1 with frames := Sparse.set 0 s1.frames (frameKey o.stack f) (16 + o.tenant.toNat) } else s1

/-- Whether a packet to a row of an update has arrived before it and not yet performed (R235). One that a claim holds back lets the update pass, which
waits for no claim (R296). -/
def rowArrived (s : State) (o : Ownership) (f : Nat) : Bool :=
  let pa := frameRow o.stack f o.row
  s.packets.any fun p => overlap p.access.pa.toNat (accessSize p.access) pa 1024 && !packetHeld s p

/-- A release's change to one row: untagged, reset inside the DRAM, its quarantine cleared. The frame is released with its last row: its V is 0, its
TENANT stays (R295). -/
def releaseRow (s : State) (o : Ownership) (f : Nat) : State :=
  let pa := frameRow o.stack f o.row
  let s1 := (setTag s pa Config.unownedTag).zeroRange pa 1024
  let s2 := { s1 with quarantine := s1.quarantine.remove (pa / 1024) }
  if o.row = 63 then { s2 with frames := Sparse.set 0 s2.frames (frameKey o.stack f) (frameEntry s2 o.stack f % 16) } else s2

/-- What is left of an update after a row; with the last row of the last frame BUSY ends and RESULT is 0. -/
def nextOwnership (s : State) (o : Ownership) : State :=
  let set := fun (o' : Ownership) => s.ownership.map fun x : Ownership => if x.stack = o.stack then o' else x
  if o.row < 63 then { s with ownership := set { o with row := o.row + 1 } }
  else
    match o.frames with
    | _ :: g :: r => { s with ownership := set { o with frames := g :: r, row := 0 } }
    | _ =>
      let reg := s.mreg (stackDie o.stack) (offTown o.stack)
      { s with ownership := s.ownership.filter fun x => x.stack != o.stack }.setMreg (stackDie o.stack) (offTown o.stack) (setField reg 38 2 0)

/-- The next row of an update (R296). A stack in self-refresh changes no row (R241), and a release's reset of a row comes after the packets to
it that have arrived before (R235). A die that has stopped changes none of its stacks' rows (R351). -/
def ownershipStep (s : State) (o : Ownership) : Option State :=
  match o.frames with
  | [] => some { s with ownership := s.ownership.filter fun x => x.stack != o.stack }
  | f :: _ =>
    if s.selfRefresh.mem o.stack.toNat || s.stoppedDies.mem (stackDie o.stack).toNat || (!o.assign && rowArrived s o f) then none
    else some (nextOwnership (if o.assign then assignRow s o f else releaseRow s o f) o)

/-- The next row of the first update that can go on. -/
def ownershipWork (s : State) : Option State := firstSome (ownershipStep s) s.ownership

/-! ### Any register -/

/-- Offsets of the stack registers of a die: which stack. -/
def townStack (die : BitVec 2) (off : Nat) : BitVec 4 := BitVec.ofNat 4 (die.toNat * 4 + (off - 0xC000) / 64)

/-- A write to an offset of die 0's own registers. -/
def writeDeviceRegister (s : State) (off : Nat) (v : Dword) : State :=
  if off < 0x4300 then writeSplit s (BitVec.ofNat 4 ((off - 0x4280) / 8)) v
  else if off < 0x4380 then s.setMreg 0 off (v &&& 0xFF)
  else if off < 0x4480 then writeErtcfg s (BitVec.ofNat 4 ((off - 0x4400) / 8)) v
  else if off < 0x4500 then writeExppool s (BitVec.ofNat 4 ((off - 0x4480) / 8)) v
  else if off < 0x4580 then writeExpdone s (BitVec.ofNat 4 ((off - 0x4500) / 8)) v
  else if off < 0x4A00 then
    let t := BitVec.ofNat 4 ((off - 0x4600) / 64)
    match (off - 0x4600) % 64 with
    | 0x00 => writeTqcfg s t v
    | 0x08 => writeTqptr s t v
    | 0x10 => clearFlag s 0 off 0 v
    | 0x18 => s.setMreg 0 off v
    | 0x20 => writeTqreplay s t v
    | _ => s
  else if off < 0x5200 then
    match (off - 0x5000) % 32 with
    | 0x00 => s.setMreg 0 off (v &&& 0x01FFFFFFFFFFF00F)
    | 0x08 => s.setMreg 0 off (setField (s.mreg 0 off) 0 32 (field v 0 32))
    | _ => s
  else
    let k := (off - 0xB000) / 16
    if off % 16 = 0 then writeApbase s k v else writeApctl s k v

/-- Whether an offset holds a register of die 0 alone. -/
def deviceOffset (off : Nat) : Bool :=
  (0x4280 ≤ off && off < 0x4380) || (0x4400 ≤ off && off < 0x4580) || (0x4600 ≤ off && off < 0x4A00) || (0x5000 ≤ off && off < 0x5200) ||
    (0xB000 ≤ off && off < 0xB400)

/-- A write to a register that every die has. -/
def writeDieRegister (s : State) (die : BitVec 2) (off : Nat) (v : Dword) : State :=
  let t := BitVec.ofNat 4 (off / 8)
  if off < 0x4000 then s
  else if off < 0x4080 then writeL2wq s die t v
  else if off < 0x4100 then writeDirq s die t v
  else if off < 0x4180 then writeTsched s die t v
  else if off < 0x4200 then writeCtxpool s die t v
  else if off = 0x4200 then writeDround s die v
  else if 0x4380 ≤ off && off < 0x4400 then s.setMreg die off (v &&& 0xFFFFFFFFFFFF)
  else if 0x6000 ≤ off && off < 0x63C0 then (if off % 16 = 0 then s.setMreg die off v else clearFlag s die off 0 v)
  else if 0x8000 ≤ off && off < 0xA000 then
    let q := BitVec.ofNat 10 (die.toNat * 256 + (off - 0x8000) / 32)
    match off % 32 with
    | 0x00 => writeQcfg s q v
    | 0x10 => writeQtail s q (field v 0 16)
    | 0x18 => clearFlag s die off 16 v
    | _ => s
  else if 0xA000 ≤ off && off < 0xA080 then
    (if off % 16 = 0 then writeHdmbase s die ((off - 0xA000) / 16) v else writeHdmctl s die ((off - 0xA000) / 16) v)
  else if 0xC000 ≤ off && off < 0xC100 then
    match off % 64 with
    | 0x00 => writeTownctl s (townStack die off) v
    | 0x08 => s.setMreg die off (v &&& 0x3FFF)
    | 0x10 => clearFlag s die off 0 v
    | _ => s
  else s

/-- A write of a doubleword to a management offset; one at which no register lies is ignored (R373). -/
def writeManagement (s : State) (die : BitVec 2) (off : Nat) (v : Dword) : State :=
  if off % 8 != 0 then s
  else if deviceOffset off then (if die = 0 then writeDeviceRegister s off v else s)
  else writeDieRegister s die off v

/-- A read of a management offset: the stored fields and those that the device computes; 0 where no register lies (R373), and of a device
held after its firmware has failed (R349). -/
def readManagement (s : State) (die : BitVec 2) (off : Nat) : Dword :=
  let v := s.mreg die off
  let t := BitVec.ofNat 4 (off / 8)
  if !s.firmwareOk || off % 8 != 0 || (deviceOffset off && die != 0) then 0
  else if 0x4080 ≤ off && off < 0x4100 then setField v 16 15 (dirUsed s die t)
  else if 0xC000 ≤ off && off < 0xC100 && off % 64 = 0 then setField v 63 1 (if ownershipBusy s (townStack die off) then 1 else 0)
  else if 0xC000 ≤ off && off < 0xC100 && off % 64 = 8 then
    let e := frameEntry s (townStack die off) (field v 0 14)
    setField (setField v 20 1 (e / 16)) 16 4 (e % 16)
  else v

/-! ### Events of the opcode table -/

/-- A write that system software makes to the management space: a device held after its firmware has failed takes none (R349). -/
def managed (s s1 : State) : Result := .next (if s.firmwareOk then s1 else s)

/-- TQREPLAY_REPLAY (R331). -/
def execTqreplayReplay (tenant : BitVec 4) (sel : ReplaySel) (s : State) : Result := managed s (replayNamed s tenant sel)

/-- TQREPLAY_ANSWER (R331). -/
def execTqreplayAnswer (tenant : BitVec 4) (sel : ReplaySel) (s : State) : Result := managed s (answerNamed s tenant sel)

/-- TQREPLAY_DELIVER (R331). -/
def execTqreplayDeliver (tenant : BitVec 4) (sel : ReplaySel) (s : State) : Result := managed s (deliverNamed s tenant sel)

/-- TQREPLAY_END (R331). -/
def execTqreplayEnd (tenant : BitVec 4) (sel : ReplaySel) (s : State) : Result := managed s (endNamed s tenant sel)

/-- TQCFG_WRITE (R329). -/
def execTqcfgWrite (tenant : BitVec 4) (value : Dword) (s : State) : Result := managed s (writeTqcfg s tenant value)

/-- TQPTR_HEAD_WRITE (R329). -/
def execTqptrHeadWrite (tenant : BitVec 4) (value : Dword) (s : State) : Result := managed s (writeTqptr s tenant value)

/-- EXPDONE_WRITE (R315). -/
def execExpdoneWrite (tenant : BitVec 4) (value : Dword) (s : State) : Result := managed s (writeExpdone s tenant value)

/-- HARPTR_HEAD_WRITE (R345). -/
def execHarptrHeadWrite (tenant : BitVec 4) (value : Dword) (s : State) : Result :=
  managed s (writeDeviceRegister s (offHar tenant + 8) value)

/-- ERTCFG_WRITE (R307). -/
def execErtcfgWrite (tenant : BitVec 4) (value : Dword) (s : State) : Result := managed s (writeErtcfg s tenant value)

/-- EXPPOOL_WRITE (R307). -/
def execExppoolWrite (tenant : BitVec 4) (value : Dword) (s : State) : Result := managed s (writeExppool s tenant value)

/-- TOWNCTL_ASSIGN (R295). -/
def execTownctlAssign (stack : BitVec 4) (frame countM1 : BitVec 14) (tenant : BitVec 4) (s : State) : Result :=
  managed s (writeTownctl s stack (BitVec.ofNat 64 (2 ^ 37 + tenant.toNat * 2 ^ 32 + countM1.toNat * 2 ^ 16 + frame.toNat)))

/-- TOWNCTL_RELEASE (R295). -/
def execTownctlRelease (stack : BitVec 4) (frame countM1 : BitVec 14) (s : State) : Result :=
  managed s (writeTownctl s stack (BitVec.ofNat 64 (countM1.toNat * 2 ^ 16 + frame.toNat)))

/-- OWNERSHIP_ROW_CHANGE (R296). -/
def execOwnershipRowChange (stack : BitVec 4) (s : State) : Result :=
  match s.ownership.find? fun o => o.stack = stack with
  | none => .next s
  | some o => .next ((ownershipStep s o).getD s)

/-- QCFG_WRITE (R271, R272). -/
def execQcfgWrite (queue : BitVec 10) (value : Dword) (s : State) : Result := managed s (writeQcfg s queue value)

/-- QTAIL_WRITE (R272). -/
def execQtailWrite (queue : BitVec 10) (value : Dword) (s : State) : Result := managed s (writeQtail s queue (field value 0 16))

/-- DOORBELL (R338). -/
def execDoorbell (vf : BitVec 5) (value : Dword) (width : BitVec 4) (s : State) : Result := managed s (ringDoorbell s vf value width)

/-- L2WQ_WRITE (R232). -/
def execL2wqWrite (die : BitVec 2) (tenant : BitVec 4) (value : Dword) (s : State) : Result := managed s (writeL2wq s die tenant value)

/-- DIRQ_WRITE (R267). -/
def execDirqWrite (die : BitVec 2) (tenant : BitVec 4) (value : Dword) (s : State) : Result := managed s (writeDirq s die tenant value)

/-- CTXPOOL_WRITE (R279). -/
def execCtxpoolWrite (die : BitVec 2) (tenant : BitVec 4) (value : Dword) (s : State) : Result := managed s (writeCtxpool s die tenant value)

/-- LANEDIS_WRITE (R335). -/
def execLanedisWrite (die : BitVec 2) (core : BitVec 6) (value : Dword) (s : State) : Result :=
  managed s (writeDieRegister s die (offLane core.toNat) value)

/-- HDMBASE_WRITE (R341). -/
def execHdmbaseWrite (die : BitVec 2) (k : BitVec 3) (value : Dword) (s : State) : Result := managed s (writeHdmbase s die k.toNat value)

/-- HDMCTL_WRITE (R341). -/
def execHdmctlWrite (die : BitVec 2) (k : BitVec 3) (value : Dword) (s : State) : Result := managed s (writeHdmctl s die k.toNat value)

/-- APBASE_WRITE (R346). -/
def execApbaseWrite (k : BitVec 6) (value : Dword) (s : State) : Result := managed s (writeApbase s k.toNat value)

/-- APCTL_WRITE (R346). -/
def execApctlWrite (k : BitVec 6) (value : Dword) (s : State) : Result := managed s (writeApctl s k.toNat value)

/-- SPLIT_WRITE (R344). -/
def execSplitWrite (tenant : BitVec 4) (value : Dword) (s : State) : Result := managed s (writeSplit s tenant value)

/-- MANAGEMENT_REGISTER_WRITE (R373). -/
def execManagementRegisterWrite (die : BitVec 2) (offset : BitVec 16) (value : Dword) (s : State) : Result :=
  managed s (writeManagement s die offset.toNat value)

/-! ### Resets and removal (R268, R316, R339) -/

/-- Disables every queue of a tenant. -/
def disableQueues (s : State) (t : BitVec 4) : State :=
  allQueues.foldl (fun s q => if qTenant (qcfg s q) = t && qEnabled (qcfg s q) then
    s.setMreg (queueDie q) (offQueue q) (setField (qcfg s q) 0 1 0) else s) s

/-- Ends every thread of a tenant as KILL does. -/
def killThreads (s : State) (t : BitVec 4) : State := (s.threads.filter fun u => u.tenant = t).foldl killThread s

/-- VF_FUNCTION_LEVEL_RESET (R339). -/
def execVfFunctionLevelReset (tenant : BitVec 4) (s : State) : Result :=
  .next (endNamed (killThreads (disableQueues s tenant) tenant) tenant .all)

/-- Clears the pins and the state of a tenant's table entries (R316). -/
def clearTable (s : State) (t : BitVec 4) : State :=
  (ertEntries s t).foldl (fun s p =>
    let w := s.mem64 p.2
    let new := setField (setField w 32 16 0) 61 3 0
    let s1 := if new = w then s else s.store64 p.2 new
    if 0 < field w 32 16 then stampLast s1 p.2 else s1) s

/-- What a removal does once no thread of the tenant is left (R268, R316): entries are freed with new generations, pins go and table entries are
absent. What waits for an expert of the tenant fails. -/
def finishRemoval (s : State) (tenant : BitVec 4) : State :=
  let s2 := (s.tiles.filter fun k => k.tenant = tenant).foldl freeEntry s
  let s3 := clearTable s2 tenant
  { s3 with
    removing := s3.removing.remove tenant.toNat
    tokens := s3.tokens.filter fun k => k.tenant != tenant
    fetches := s3.fetches.filter fun f => f.tenant != tenant
    requests := s3.requests.filter fun r => r.1 != tenant
    evicting := s3.evicting.filter fun v => v.1 != tenant
    commands := s3.commands.map fun c : Command =>
      if c.tenant = tenant && c.phase = .waiting && c.expert.isSome then { c with phase := .finishing (statusOf 0x11 0) (c.expertId.setWidth 64) }
      else c }

/-- Whether a tenant has a thread that has not ended. -/
def hasThreads (s : State) (tenant : BitVec 4) : Bool := s.threads.any fun u => u.tenant = tenant

/-- Whether a removal waits: for a thread of the tenant, or because an entry of its table is held back (R262, R308). -/
def removalWaits (s : State) (tenant : BitVec 4) : Bool :=
  hasThreads s tenant || (ertEntries s tenant).any fun p => heldBack s deviceTid true p.2 32

/-- The removals that wait no longer go on. -/
def removalWork (s : State) : Option State :=
  (s.removing.find? fun t => !removalWaits s (BitVec.ofNat 4 t)).map fun t => finishRemoval s (BitVec.ofNat 4 t)

/-- TENANT_REMOVAL (R268, R316): the tenant's threads end first, as KILL ends them, and the rest follows when the last has ended. -/
def execTenantRemoval (tenant : BitVec 4) (s : State) : Result :=
  let s1 := killThreads s tenant
  .next (if removalWaits s1 tenant then { s1 with removing := s1.removing.insert tenant.toNat } else finishRemoval s1 tenant)

end Sys2Proof.Machine
end

