-- ==== Sys2Proof/Machine/Fabric.lean ====
section
/-! DEFINITION. Accesses from outside the dies, packets and replies, the Bruron Link, and the events that end a thread's wait
(R117, R233 to R235, R257, R260 to R262, R340, R343, R346 to R348). -/

namespace Sys2Proof.Machine

/-! ### Outside accesses (R262, R340) -/

/-- The PORT number of a host or CXL port, the one of the Bruron Link, and the one of the system controller cores, through which system
software writes memory: beyond those of the cores and engines (logs 3 and 19). -/
abbrev hostPort (p : BitVec 2) : BitVec 12 := BitVec.ofNat 12 (0x800 + p.toNat)
abbrev bruronPort : BitVec 12 := 0x804
abbrev systemPort : BitVec 12 := 0x805

/-- The bytes of HBM that a CXL host sees as HDM-DB: the lowest 256 GiB (R340, log 87). -/
abbrev hostedEnd : Nat := 2 ^ 38

/-- Whether a port's access addresses memory that the port reaches: the host HBM that is exposed to it, a CXL port its own windows, the Bruron
Link and system software all memory of the package (R340, log 87). -/
def outsideTarget (s : State) (port : BitVec 12) (a : MemAccess) : Bool :=
  let lo := a.pa.toNat
  let hi := lo + accessSize a
  let own := fun die : BitVec 2 => portWindow s die lo && portWindow s die (hi - 1)
  decide (0 < accessSize a) &&
    if port.toNat < bruronPort.toNat then (port = hostPort 0 && decide (hi ≤ hostedEnd)) || own (port.extractLsb' 0 2)
    else decide (hi ≤ Config.hbmEnd) || [0, 1, 2, 3].any own

/-- An access performs, with what it answers. -/
def performOp (s : State) (l : Nat) (op : MemOp) : State × List Byte :=
  match op with
  | .read n => (s.noteRead l n.toNat, s.loadBytes l n.toNat)
  | .write d => (s.storeBytes l d, [])
  | .amo op operand cmp =>
    let r := rmw s (placeTrans l) op operand cmp false
    (r.1, leBytes 8 r.2.toNat)
  | .publish v => (publish s (placeTrans l) v, [])

/-- Whether an access of a port stands behind an earlier one of the same port that has not performed: bytes in common of which one is written,
or a release (R235, R257). -/
def behind (earlier : List (BitVec 12 × MemAccess)) (port : BitVec 12) (a : MemAccess) : Bool :=
  earlier.any fun b => b.1 = port && (a.release ||
    ((memOpWrites a.op || memOpWrites b.2.op) && overlap a.pa.toNat (accessSize a) b.2.pa.toNat (accessSize b.2)))

/-- The access of a part of the bytes of a read or a write, from the k-th on, n of them. -/
def partOf (op : MemOp) (k n : Nat) : MemOp :=
  match op with
  | .read _ => .read (BitVec.ofNat 8 n)
  | .write d => .write ((d.drop k).take n)
  | op => op

/-- The accesses that an outside access makes, one for each aligned 32-byte sector on which it has bytes: each waits by itself (R262, log 87). An AMO
is one access. -/
def sectorParts (a : MemAccess) : List MemAccess :=
  match a.op with
  | .amo _ _ _ | .publish _ => [a]
  | .read _ | .write _ =>
    (List.range (sectorCount a.pa.toNat (accessSize a))).map fun k =>
      let x := copySector a.pa.toNat (accessSize a) k
      { a with pa := BitVec.ofNat 56 (a.pa.toNat + x.1), op := partOf a.op x.1 x.2 }

/-- The tenant whose bandwidth an outside access takes: the owner of a tagged row's frame, else tenant 0 (R343, log 87). -/
def accessTenant (s : State) (pa : Nat) : BitVec 4 :=
  BitVec.ofNat 4 (frameOwner s (stackOf pa) (pa / 2 ^ 20) - 1)

/-- The packet of a port's access: its elements are its bytes, those of an AMO one doubleword (R233). -/
def packetOf (s : State) (port : BitVec 12) (tag : BitVec 8) (a : MemAccess) : Packet :=
  let l := a.pa.toNat
  let wide := match a.op with
    | .amo _ _ _ | .publish _ => true
    | _ => false
  { op := MemOp.packetOp a.op, stack := stackOf l, port := port, tag := tag, tenant := accessTenant s l, kind := 0, stride := 1,
    len := BitVec.ofNat 17 (if wide then 1 else accessSize a), esz := if wide then 3 else 0, first := 0, access := a, list := [],
    flits := opFlits l a.op, owing := [], damaged := false, waited := false }

/-- Sends an access of a port: to its base die, or to CXL memory at once. None while it waits in the port's buffer: behind another of its port, at a
claim, for a tag, for room at the base die (R234, R241, R262), or before bring-up is over (R352). -/
def sendAccess (s : State) (earlier : List (BitVec 12 × MemAccess)) (port : BitVec 12) (a : MemAccess) : Option State :=
  let l := a.pa.toNat
  let sent := (s.packets.filter fun p => p.port = port).map fun p => (port, p.access)
  if s.bringUp != 6 || behind (earlier ++ sent) port a || claimHolds s deviceTid (memOpWrites a.op) l (accessSize a) || homeStopped s l then none
  else if l < Config.hbmEnd then
    (freeTag s port).bind fun tag =>
      if bufferRoom s (stackOf l) then some { s with packets := s.packets ++ [packetOf s port tag a] } else none
  else some (performOp s l a.op).1

/-- The first access of the port buffers that can be sent. -/
def sendFirst (s : State) : List (BitVec 12 × MemAccess) → List (BitVec 12 × MemAccess) → Option State
  | _, [] => none
  | earlier, b :: r =>
    match sendAccess s earlier b.1 b.2 with
    | some s1 => some { s1 with portBuffer := earlier ++ r }
    | none => sendFirst s (earlier ++ [b]) r

/-- The next access that leaves a port's buffer. -/
def portWork (s : State) : Option State := sendFirst s [] s.portBuffer

/-- Puts an outside access into its port's buffer, sector by sector. -/
def bufferAccess (s : State) (port : BitVec 12) (a : MemAccess) : State :=
  if outsideTarget s port a then { s with portBuffer := s.portBuffer ++ (sectorParts a).map fun x => (port, x) } else s

/-- HOST_ACCESS (R262, R340): an access that a claim holds back waits in the port's buffer. -/
def execHostAccess (port : BitVec 2) (access : MemAccess) (s : State) : Result := .next (bufferAccess s (hostPort port) access)

/-- BACK_INVALIDATE_SNOOP (R229, R340): the home slice of a CXL line that the port homes gives up its copy, L1 copies go with it, and links on the
line break. -/
def execBackInvalidateSnoop (port : BitVec 2) (line : BitVec 45) (s : State) : Result :=
  let l := line.toNat * 128
  .next (if Config.cxlBase ≤ l && l < Config.cxlEnd && homeDie s l = port then evictL2 s line.toNat else s)

/-! ### Packets and replies (R233 to R236, R241, R343) -/

/-- The bytes of a location, poisoned (R242). -/
def poisonBytes (s : State) (l n : Nat) : State := { s with poison := (List.range n).foldl (fun p j => poisonAt p (l + j)) s.poison }

/-- A packet performs at its base die and its reply goes back. Write data that the buffer has lost is written as poison (R242). -/
def performPacket (s : State) (p : Packet) : State :=
  let l := p.access.pa.toNat
  let n := accessSize p.access
  let writes := memOpWrites p.access.op
  let bad := p.damaged || (poisonSub s l n).isSome
  let r := performOp s l p.access.op
  let s1 := if p.damaged && writes then poisonBytes r.1 l n else r.1
  { s1 with replies := s1.replies ++ [{ port := p.port, tag := p.tag, index := p.first.toNat, data := r.2,
                                        poisoned := !r.2.isEmpty && bad }] }

/-- The 32-byte sectors that a packet costs. -/
def packetCost (p : Packet) : Nat := (accessSize p.access + 31) / 32

/-- The quantum of a tenant in a visit of the round robin: 2,048 sectors for each unit of WEIGHT (R343, log 87). -/
def hbmQuantum (s : State) (t : BitVec 4) : Nat := 2048 * max 1 (hbmWeight s t)

/-- The deficit round robin of a stack over the tenants with packets that can perform: the packet served and the deficits after it. A tenant without
one keeps no credit, unless it is in debt for packets that went at once: it may have more of them waiting at their source, and a visit gives it its
quantum. -/
def roundRobin (stack : BitVec 4) (ps : List Packet) : Nat → BitVec 4 → Bool → State → Option (State × Packet)
  | 0, _, _, s => ps.head?.map fun p => (s, p)
  | fuel + 1, t, fresh, s =>
    let k := stack.toNat * 16 + t.toNat
    let had := Sparse.get 0 s.hbmDeficit k
    match ps.find? fun p => p.tenant = t with
    | none => roundRobin stack ps fuel (t + 1) true
        { s with hbmDeficit := Sparse.set 0 s.hbmDeficit k (if had < 0 then had + (if fresh then hbmQuantum s t else 0) else 0) }
    | some p =>
      let d : Int := had + (if fresh then hbmQuantum s t else 0)
      if packetCost p ≤ d then
        some ({ s with hbmDeficit := Sparse.set 0 s.hbmDeficit k (d - packetCost p), hbmTurn := Sparse.set 0 s.hbmTurn stack.toNat t.toNat }, p)
      else roundRobin stack ps fuel (t + 1) true { s with hbmDeficit := Sparse.set 0 s.hbmDeficit k d }

/-- Visits of tenants in which the round robin finds the next packet; debts of accords beyond them are passed over (log 87). -/
abbrev robinVisits : Nat := 256

/-- The next packet that a base die completes: those that a self-refresh has held come first, in arrival order (R241); tenants with WEIGHT 0 are
served only when no other has one that can perform (R343). -/
def servePacket (s : State) (stack : BitVec 4) : Option State :=
  let ready := readyPackets s stack [] s.packets
  match ready.find? (·.waited) with
  | some p => some (performPacket { s.chargeHbm stack p.tenant (packetCost p) with packets := s.packets.erase p } p)
  | none =>
    let first := ready.filter fun p => hbmWeight s p.tenant != 0
    let ps := if first.isEmpty then ready else first
    if ps.isEmpty then none
    else (roundRobin stack ps robinVisits (BitVec.ofNat 4 (Sparse.get 0 s.hbmTurn stack.toNat)) false s).map fun x =>
      performPacket { x.1 with packets := x.1.packets.erase x.2 } x.2

/-- The next packet of a stack. A stack in self-refresh holds them (R241), one whose rows bring-up has still to zero serves none (R294), nor does one
whose die has stopped (R351, log 90). -/
def packetStep (s : State) (stack : BitVec 4) : Option State :=
  if s.bringUp != 6 || s.selfRefresh.mem stack.toNat || s.stoppedDies.mem (stackDie stack).toNat then none else servePacket s stack

/-- The next packet of any stack. -/
def packetWork (s : State) : Option State := if s.packets.isEmpty then none else firstSome (packetStep s) allStacks

/-- REQUEST_PACKET (R235): the accesses of a stack's oldest packet are completed. -/
def execRequestPacket (stack : BitVec 4) (s : State) : Result := .next ((packetStep s stack).getD s)

/-- The first reply of a list that is a tag's and answers an element returns. -/
def dropReply (port : BitVec 12) (tag : BitVec 8) (index : Nat) : List Reply → List Reply
  | [] => []
  | x :: r => if x.port = port && x.tag = tag && x.index = index then r else x :: dropReply port tag index r

/-- The first of the packets that have performed, keep a tag and owe the reply of an element, or the acknowledgement, whose index is 0, gets it back;
the packet goes with its last. -/
def dropInflight (port : BitVec 12) (tag : BitVec 8) (index : Nat) : List Packet → List Packet
  | [] => []
  | x :: r =>
    if x.port = port && x.tag = tag && x.owing.elem index then
      (if x.owing.length ≤ 1 then r else { x with owing := x.owing.erase index } :: r)
    else x :: dropInflight port tag index r

/-- READ_REPLY (R234): a base die's reply for an element, counted from its packet's first, or its acknowledgement returns, in any order; the tag is
free with the last of them. -/
def execReadReply (port : BitVec 12) (reply : ReplyName) (s : State) : Result :=
  .next (if s.replies.any fun r => r.port = port && r.tag = reply.tag && r.index = reply.index.toNat then
      { s with replies := dropReply port reply.tag reply.index.toNat s.replies }
    else { s with inflight := dropInflight port reply.tag reply.index.toNat s.inflight })

/-- The oldest reply returns, unless the agenda returns them. -/
def replyWork (s : State) : Option State :=
  if s.deferReplies then none
  else
    match s.replies, s.inflight with
    | _ :: r, _ => some { s with replies := r }
    | [], p :: _ => some { s with inflight := dropInflight p.port p.tag (p.owing.headD 0) s.inflight }
    | [], [] => none

/-! ### The Bruron Link (R257, R346 to R348) -/

/-- Numbers that a destination keeps for each sender (R347). -/
abbrev keptNumbers : Nat := 65536

/-- Drops the oldest entry of a sender. -/
def dropOldest (peer : BitVec 12) : List (BitVec 12 × BitVec 32) → List (BitVec 12 × BitVec 32)
  | [] => []
  | x :: r => if x.1 = peer then r else x :: dropOldest peer r

/-- Keeps a number of a sender among its last 65,536. -/
def keepNumber (xs : List (BitVec 12 × BitVec 32)) (peer : BitVec 12) (seq : BitVec 32) : List (BitVec 12 × BitVec 32) :=
  (if keptNumbers ≤ (xs.filter fun x => x.1 = peer).length then dropOldest peer xs else xs) ++ [(peer, seq)]

/-- BRURON_LINK_PACKET (R347): a number seen before is discarded; any other performs once. -/
def execBruronLinkPacket (peer : BitVec 12) (seq : BitVec 32) (access : MemAccess) (s : State) : Result :=
  if s.received.elem (peer, seq) then .next s
  else .next (bufferAccess { s with received := keepNumber s.received peer seq } bruronPort access)

/-- PACKET_ACKNOWLEDGEMENT (R347). -/
def execPacketAcknowledgement (peer : BitVec 12) (seq : BitVec 32) (s : State) : Result :=
  .next { s with unacked := s.unacked.filter fun u => !(u.peer = peer && u.seq = seq) }

/-- PATH_FAILURE (R348): new packets to the peer are held until a new path is chosen, by the host if the split register says so at the failure
(R344). -/
def execPathFailure (peer : BitVec 12) (s : State) : Result :=
  .next (if s.deadPaths.mem peer.toNat || s.downPaths.mem peer.toNat then s
    else { s with
      downPaths := s.downPaths.insert peer.toNat
      hostPaths := if s.splitBit 0 3 then s.hostPaths.insert peer.toNat else s.hostPaths })

/-- Every packet to a peer that has not been acknowledged is sent once more, in sequence order; the peer performs each number once (R347, R348). -/
def resend (peer : Nat) (us : List Unacked) : List Unacked :=
  us.map fun u => if u.peer.toNat = peer then { u with copies := u.copies + 1 } else u

/-- A new path to a peer whose path has failed: the unacknowledged packets go again, and new packets after them. -/
def choosePath (s : State) (peer : Nat) : State :=
  if s.downPaths.mem peer then
    { s with
      downPaths := s.downPaths.remove peer
      hostPaths := s.hostPaths.remove peer
      unacked := resend peer s.unacked }
  else s

/-- PATH_TIMEOUT (R348): with no path left after 100 ms, accesses to the peer complete as poisoned data. -/
def execPathTimeout (peer : BitVec 12) (s : State) : Result :=
  .next (if s.downPaths.mem peer.toNat then
    { s with
      downPaths := s.downPaths.remove peer.toNat
      hostPaths := s.hostPaths.remove peer.toNat
      deadPaths := s.deadPaths.insert peer.toNat
      unacked := s.unacked.filter fun u => u.peer != peer }
    else s)

/-- The oldest unacknowledged packet whose path is up is acknowledged. -/
def ackWork (s : State) : Option State :=
  match s.unacked.find? fun u => !s.downPaths.mem u.peer.toNat with
  | none => none
  | some u => some { s with unacked := s.unacked.filter fun x => !(x.peer = u.peer && x.seq = u.seq) }

/-- What the link does by itself: the device picks the next path where the failure came in hardware mode (R344), and packets are acknowledged. -/
def linkWork (s : State) : Option State :=
  match s.downPaths.filter fun p => !s.hostPaths.mem p with
  | p :: _ => some (choosePath s p)
  | [] => ackWork s

/-- LINK_LEVEL_REPLAY (R242): a link's flit is replayed; after 8 replays the link is retrained or failed. A failed link replays no more. -/
def execLinkLevelReplay (link : BitVec 8) (s : State) : Result :=
  let n := Sparse.get 0 s.linkCount link.toNat
  if 8 ≤ n then .next s
  else if n + 1 < 8 then .next { s with linkCount := Sparse.set 0 s.linkCount link.toNat (n + 1) }
  else if Config.freeChoice s.steps then .next { s with linkCount := Sparse.set 0 s.linkCount link.toNat 0 }
  else .next ({ s with linkCount := Sparse.set 0 s.linkCount link.toNat 8 }.report (.linkFailed link))

/-! ### Ends of waits (R117, R260) -/

/-- TENURE_GRANT (R179, R260, R261): a thread's request that can pass every home slice of its footprint becomes granted, and its instruction
completes. -/
def execTenureGrant (tid : BitVec 32) (s : State) : Result :=
  match pendingClaim s tid with
  | none => .next s
  | some c => .next (if (claimRun s c).granted then moveRequest s tid else s)

/-- Brings a core's count up to a number. -/
def raiseCyc (s : State) (core n : Nat) : State :=
  if s.cyc.getD core 0 < n then { s with cyc := s.cyc.set core n } else s

/-- The 64 counts of a PAUSE, or the 65,536 of an IDLE, have passed: what is left of the wait ends. On a die that has
stopped no count passes (R351). -/
def expireWait (s : State) (t : Thread) : State :=
  if s.stoppedDies.mem t.die.toNat then s
  else
  match t.wait with
  | .pause c false => (raiseCyc s t.core (c + 64)).setThread { t with wait := .pause c true }
  | .idle c false => (raiseCyc s t.core (c + 65536)).setThread { t with wait := .idle c true }
  | _ => s

/-- PAUSE_EXPIRY (R117). -/
def execPauseExpiry (tid : BitVec 32) (s : State) : Result :=
  match s.thread? tid with
  | none => .next s
  | some t =>
    match t.wait with
    | .pause _ _ => .next (expireWait s t)
    | _ => .next s

/-- IDLE_EXPIRY (R117). -/
def execIdleExpiry (tid : BitVec 32) (s : State) : Result :=
  match s.thread? tid with
  | none => .next s
  | some t =>
    match t.wait with
    | .idle _ _ => .next (expireWait s t)
    | _ => .next s

end Sys2Proof.Machine
end

