-- ==== Sys2Proof/Machine/Events.lean ====
section
/-! DEFINITION. Bring-up, refresh, temperature, clocks, soft errors, die failure and attestation (R28, R238 to R242, R269, R293, R294,
R334 to R336, R349 to R352). -/

namespace Sys2Proof.Machine

/-! ### Bring-up (R294, R349, R352) -/

/-- The measurement of an image (R349). -/
def measure (f : Firmware) : BitVec 256 := Config.shake256 f.code

/-- The boot ROM's checks of the first image: the key, its signature, and the rollback counter (R349). -/
def firstGood (f : Firmware) : Bool :=
  Config.shake256 f.key = Config.fusedKeyDigest && Config.signatureValid f.key (measure f) f.signature && Config.fusedRollback ≤ f.version

/-- Every later image is verified by the one before it (R349). -/
def chainGood : List Firmware → Bool
  | a :: b :: r => Config.imageAccepts a.code (measure b) b.signature b.version && chainGood (b :: r)
  | _ => true

/-- Whether the firmware passes its checks. The device's own, where nothing else has been loaded, does (log 88). -/
def firmwareGood (s : State) : Bool :=
  match s.firmware with
  | [] => true
  | a :: r => firstGood a && chainGood (a :: r)

/-- The PF's status register, which a device held after a failure still lets read: bit 0 tells that the PF is ready (R349, R352, log 88). -/
def pfStatus (s : State) : Dword := if s.bringUp = 6 then 1 else 0

/-- Tagged rows are zeroed and every frame released (R294). -/
def zeroTagged (s : State) : State :=
  let s1 := s.zeroRange 0 Config.taggedEnd
  { s1 with tags := [], frames := [], ownership := [], quarantine := [], softErrors := s1.softErrors.clear 0 (Config.taggedEnd / 16) }

/-- The address of a row of a bank: bank is the pseudo-channel times 16 plus the bank of the pseudo-channel (R226, log 20). -/
def bankRowPa (stack : BitVec 4) (bank : BitVec 10) (row : BitVec 16) : Nat :=
  row.toNat * 2 ^ 24 + bank.toNat % 16 * 2 ^ 20 + stack.toNat * 2 ^ 16 + bank.toNat / 16 * 1024

/-- Key of a bank of the package. -/
def bankKey (stack : BitVec 4) (bank : BitVec 10) : Nat := stack.toNat * 1024 + bank.toNat

/-- The three bits of a filter that a row's number hashes to, under the seed that the stack's base die drew at this boot (R238). -/
def bloomBits (boots stack row : Nat) : List Nat := [0, 1, 2].map fun k => (Config.bloomHash (Config.bloomSeed boots stack) k row).toNat

/-- Inserts a row into a filter of a bank. -/
def insertBloom (boots : Nat) (inserted : NatSet) (key row : Nat) : NatSet :=
  (bloomBits boots (key / 1024) row).foldl (fun f b => f.insert (key * 16384 + b)) inserted

/-- The filters that the host's row lists give (R344): F32 holds the rows that lose data within 64 ms, F64 the others. -/
def listedFilter (s : State) (boots : Nat) (isF32 : Bool) : NatSet :=
  (s.rowLists.filter fun x => x.2.2 = isF32).foldl (fun f x => insertBloom boots f x.1 x.2.1.toNat) []

/-- BRING_UP (R352): firmware that fails its checks holds the device; else the filters are those of the new boot (R239, R344), the tagged rows are
zeroed, accumulators are zero and unowned (R28), and the functions are enabled. A device that is up, or held, ignores it. -/
def execBringUp (s : State) : Result :=
  if s.bringUp = 6 || !s.firmwareOk then .next s
  else if !firmwareGood s then .next { s with boots := s.boots + 1, firmwareOk := false }
  else
    let s1 := zeroTagged s
    let host := s.splitBit 0 4
    .next { s1 with
      boots := s.boots + 1
      hostBinned := host
      f32 := if host then listedFilter s (s.boots + 1) true else []
      f64 := if host then listedFilter s (s.boots + 1) false else []
      acc := []
      accOwner := []
      accPoison := []
      bringUp := 6 }

/-! ### Refresh (R238 to R240) -/

/-- Whether profiling has put a bit into a filter of a bank: some row of the bank that hashes to it loses its data within the filter's bound
(R239). -/
def profiled (boots key bound b : Nat) : Bool :=
  (List.range 65536).any fun row => decide (Config.retention boots key row < bound) && (bloomBits boots (key / 1024) row).elem b

/-- Whether profiling has replaced a row from the stack's spare rows: it loses its data within 32 ms (R239). -/
def rowSpared (s : State) (stack : BitVec 4) (bank : BitVec 10) (row : BitVec 16) : Bool :=
  s.bringUp = 6 && !s.hostBinned && decide (Config.retention s.boots (bankKey stack bank) row.toNat < 32)

/-- Whether a filter of a bank reports a row: all its bits were set at boot or have been inserted since. -/
def filterReports (s : State) (inserted : NatSet) (bound key : Nat) (row : BitVec 16) : Bool :=
  (bloomBits s.boots (key / 1024) row.toNat).all fun b =>
    inserted.mem (key * 16384 + b) || (!s.hostBinned && profiled s.boots key bound b)

/-- The refresh class of a row in milliseconds (R238); 32 until the bank is built (R239). -/
def refreshClass (s : State) (stack : BitVec 4) (bank : BitVec 10) (row : BitVec 16) : Nat :=
  let key := bankKey stack bank
  if s.bringUp != 6 || filterReports s s.f32 64 key row then 32
  else if filterReports s s.f64 128 key row then 64
  else 128

/-- A row's refresh period: that of its class, half of it while the stack is hot (R238). -/
def refreshPeriod (s : State) (stack : BitVec 4) (bank : BitVec 10) (row : BitVec 16) : Nat :=
  if s.hot.mem stack.toNat then refreshClass s stack bank row / 2 else refreshClass s stack bank row

/-- A row is refreshed. -/
def refreshRow (s : State) (stack : BitVec 4) (bank : BitVec 10) (row : BitVec 16) : State :=
  { s with refreshDue := Sparse.set 32 s.refreshDue (bankRowPa stack bank row / 1024) (refreshClass s stack bank row) }

/-- The rows whose refresh a bank owes (R240). -/
def owedRows (s : State) (key : Nat) : List (BitVec 16) := (s.owed.filter fun x => x.1 = key).map (·.2)

/-- A bank pays the refreshes that it owes. -/
def payOwed (s : State) (stack : BitVec 4) (bank : BitVec 10) : State :=
  let key := bankKey stack bank
  let s1 := (owedRows s key).foldl (fun s row => refreshRow s stack bank row) s
  { s1 with owed := s1.owed.filter fun x => x.1 != key }

/-- REFRESH (R238, R240): the row is refreshed with what its bank owes, or the refresh is postponed, of which a bank owes at most 4. -/
def execRefresh (stack : BitVec 4) (bank : BitVec 10) (row : BitVec 16) (s : State) : Result :=
  let key := bankKey stack bank
  if (owedRows s key).length < 4 && Config.freeChoice s.steps then .next { s with owed := s.owed ++ [(key, row)] }
  else .next (refreshRow (payOwed s stack bank) stack bank row)

/-- ACTIVATION_COUNT_BACK_OFF (R240): the bank pays what it owes, then the targeted refresh, and reopens. -/
def execActivationCountBackOff (stack : BitVec 4) (bank : BitVec 10) (row : BitVec 16) (s : State) : Result :=
  .next (refreshRow (payOwed s stack bank) stack bank row)

/-- What a correctable error does to its row's class: 128 ms to F64, 64 ms to F32, and a 32 ms row is reported (R239). -/
def demoteRow (s : State) (stack : BitVec 4) (bank : BitVec 10) (row : BitVec 16) : State :=
  let key := bankKey stack bank
  match refreshClass s stack bank row with
  | 128 => { s with f64 := insertBloom s.boots s.f64 key row.toNat }
  | 64 => { s with f32 := insertBloom s.boots s.f32 key row.toNat }
  | _ => s.report (.scrubError (bankRowPa stack bank row / 1024))

/-- PATROL_SCRUB (R239, R242): correctable errors of the row are corrected and counted, and demote it. -/
def execPatrolScrub (stack : BitVec 4) (bank : BitVec 10) (row : BitVec 16) (s : State) : Result :=
  let lo := bankRowPa stack bank row / 16
  let n := (s.softErrors.filter fun k => lo ≤ k && k < lo + 64).length
  if n = 0 then .next s
  else .next (demoteRow { s with softErrors := s.softErrors.clear lo 64, corrected := s.corrected + n } stack bank row)

/-! ### Temperature and clocks (R238, R241, R351) -/

/-- STACK_TEMPERATURE_HIGH (R238). -/
def execStackTemperatureHigh (stack : BitVec 4) (s : State) : Result := .next { s with hot := s.hot.insert stack.toNat }

/-- STACK_TEMPERATURE_NORMAL (R238). -/
def execStackTemperatureNormal (stack : BitVec 4) (s : State) : Result := .next { s with hot := s.hot.remove stack.toNat }

/-- Completes the packets that a stack has accepted, but those that a claim holds back, which wait as in their port's buffer (R262). -/
def completePackets (stack : BitVec 4) : Nat → State → State
  | 0, s => s
  | fuel + 1, s =>
    match servePacket s stack with
    | none => s
    | some s1 => completePackets stack fuel s1

/-- Performs the events of one accord under way at a stack. -/
def completeAccord (stack : BitVec 4) (s : State) (tid : BitVec 32) : State :=
  match s.accord? tid with
  | none => s
  | some a =>
    if (a.arrivedAt stack).isNone then s
    else
      let mine := a.rows.filter fun r => stackOf r.pa = stack
      let rest := a.rows.filter fun r => stackOf r.pa != stack
      let x := actRows mine [] s { a with rows := rest }
      settleAccord x.1 { x.2.1 with rows := rest ++ x.2.2 }

/-- Performs the events of the accords under way at a stack, as often as one may make way for another (R299). -/
def completeEvents (stack : BitVec 4) : Nat → State → State
  | 0, s => s
  | fuel + 1, s => completeEvents stack fuel ((s.accords.map (·.tid)).foldl (completeAccord stack) s)

/-- The banks of a stack pay what they owe. -/
def payStack (s : State) (stack : BitVec 4) : State :=
  (((s.owed.filter fun x => x.1 / 1024 = stack.toNat).map (·.1)).eraseDups).foldl (fun s k => payOwed s stack (BitVec.ofNat 10 k)) s

/-- CRITICAL_TEMPERATURE (R241): accepted work completes, owed refreshes are paid, and the stack enters self-refresh. -/
def execCriticalTemperature (stack : BitVec 4) (s : State) : Result :=
  if s.selfRefresh.mem stack.toNat then .next s
  else
    let s1 := payStack (completeEvents stack s.accords.length (completePackets stack s.packets.length s)) stack
    .next ({ s1 with selfRefresh := s1.selfRefresh.insert stack.toNat }.report (.criticalTemperature stack))

/-- The packets that a stack has held during a self-refresh are served next, in arrival order (R241). -/
def releaseHeld (s : State) (stack : BitVec 4) : State :=
  { s with packets := s.packets.map fun p : Packet => if p.stack = stack then { p with waited := true } else p }

/-- SELF_REFRESH_EXIT (R241). -/
def execSelfRefreshExit (stack : BitVec 4) (s : State) : Result :=
  if s.selfRefresh.mem stack.toNat then
    .next ((releaseHeld { s with selfRefresh := s.selfRefresh.remove stack.toNat } stack).report (.selfRefreshEnded stack))
  else .next s

/-- Nominal clock of an island, in MHz (R351). -/
abbrev nominalMhz : Nat := 850

/-- Key of an island of the package. -/
def islandKey (die : BitVec 2) (island : BitVec 4) : Nat := die.toNat * 16 + island.toNat

/-- ISLAND_CLOCK_LOWERING (R351): no state is lost. -/
def execIslandClockLowering (die : BitVec 2) (island : BitVec 4) (mhz : BitVec 10) (s : State) : Result :=
  let k := islandKey die island
  .next { s with mhz := Sparse.set nominalMhz s.mhz k (min (Sparse.get nominalMhz s.mhz k) mhz.toNat) }

/-- ISLAND_CLOCK_RAISE (R351): up to the nominal clock. -/
def execIslandClockRaise (die : BitVec 2) (island : BitVec 4) (mhz : BitVec 10) (s : State) : Result :=
  let k := islandKey die island
  .next { s with mhz := Sparse.set nominalMhz s.mhz k (min nominalMhz (max (Sparse.get nominalMhz s.mhz k) mhz.toNat)) }

/-- DIE_TEMPERATURE_STOP (R351): the die stops its islands and reports a machine error. -/
def execDieTemperatureStop (die : BitVec 2) (s : State) : Result :=
  if s.stoppedDies.mem die.toNat then .next s
  else .next ({ s with stoppedDies := s.stoppedDies.insert die.toNat }.report (.machineError die))

/-! ### Die failure (R269, R336) -/

/-- Whether a die homes a line (R229); a peer's lines have their home at the peer (R346). -/
def homesLine (s : State) (die : BitVec 2) (line : Nat) : Bool := !isPeer (line * 128) && homeDie s (line * 128) = die

/-- Lines, homed on other dies, that threads of a die hold under write tenure and that its cores have modified: they are lost (R269, log 18). -/
def modifiedLines (s : State) (die : BitVec 2) : List Nat :=
  let ls := claimLines (s.claims.filter fun c => c.granted && c.write && (c.tid.extractLsb' 9 2) = die)
  (s.l1.filter fun c => c.modified && coreDie c.core = die && ls.mem c.line && !homesLine s die c.line).map (·.line)

/-- What surviving threads hold in tile mode under handles of a failed directory is written back before their claims go (R265, R269). -/
def endHandles (s : State) (die : BitVec 2) : State :=
  (s.claims.filter fun c => c.granted && handleDie c.handle = die && (c.tid.extractLsb' 9 2) != die).foldl
    (fun s c => s.leaveTileMode (c.tid.extractLsb' 3 8).toNat c.ranges) s

/-- Whether a claim has a slice of a die (R258). -/
def claimOnDie (s : State) (die : BitVec 2) (c : Claim) : Bool := (slicesOf s c.ranges).any fun x => x / 64 = die.toNat

/-- Tenants that lose tenure with a die: by a handle of its directory, by a thread of it, or by a claim on its slices. -/
def tenureLosers (s : State) (die : BitVec 2) : List (BitVec 4) :=
  allTenants.filter fun t => s.claims.any fun c => c.granted && handleTenant c.handle = t &&
    (handleDie c.handle = die || (c.tid.extractLsb' 9 2) = die || claimOnDie s die c)

/-- A claim without the slices of a die (R269). It keeps the footprint's ranges, by which a split divides it (R266); those at the die's slices hold
nothing back any more. -/
def claimWithout (die : BitVec 2) (c : Claim) : Claim :=
  { c with placed := c.placed.filter fun p => p.1 / 64 != die.toNat, slices := c.slices.filter fun x => x / 64 != die.toNat }

/-- A packet at a base die of a failed die: its line is lost, so that its reply carries poison (R336). -/
def lostReply (p : Packet) : Reply :=
  { port := p.port, tag := p.tag, index := p.first.toNat,
    data := match p.access.op with
      | .read n => List.replicate n.toNat 0
      | .write _ | .publish _ => []
      | .amo _ _ _ => List.replicate 8 0,
    poisoned := true }

/-- Memory of a tenant that a die homes: its tag frames, and the CXL windows of its port that admit it. -/
def homedMemory (s : State) (die : BitVec 2) (t : BitVec 4) : List Nat :=
  ((s.frames.filter fun e => e.2 = 16 + t.toNat && e.1 / 65536 = die.toNat).map fun e =>
      frameRow (BitVec.ofNat 4 (e.1 / 16384)) (e.1 % 16384) 0) ++
    (List.range 8).filterMap fun k =>
      let ctl := s.mreg die (offHdm k + 8)
      if ctl.getLsbD 16 && ctl.getLsbD t.toNat then some (windowOf (s.mreg die (offHdm k)) 20).1 else none

/-- The least of some addresses. -/
def leastAddress : List Nat → Option Nat
  | [] => none
  | a :: r => match leastAddress r with
    | none => some a
    | some b => some (min a b)

/-- What system software is told of a die's failure: tenants that lost tenure, and tenants affected with the first poisoned address
(R269, R336). -/
def failureReports (s : State) (die : BitVec 2) : List Report :=
  ((tenureLosers s die).map fun t => Report.tenureLost die t) ++
    allTenants.filterMap fun t =>
      let homed := homedMemory s die t
      if s.threads.any (fun u => u.die = die && u.tenant = t) || !homed.isEmpty then some (.dieFailed die t (leastAddress homed)) else none

/-- What the failure takes at once: the directory, claims for its handles, of its threads and on its slices, tile-mode lines, links on its lines, its
caches and translators, its packets and ownership updates, its queues and its dispatcher. -/
def dropDie (s0 : State) (die : BitVec 2) : State :=
  let lines := modifiedLines s0 die
  let s := endHandles { s0 with l1 := s0.l1.filter fun c => coreDie c.core != die && !homesLine s0 die c.line } die
  let lost := s.packets.filter fun p => stackDie p.stack = die
  let s1 := ((List.range 256).map fun k => BitVec.ofNat 10 (die.toNat * 256 + k)).foldl (fun s q =>
    if qEnabled (qcfg s q) then s.setMreg die (offQueue q) (setField (qcfg s q) 0 1 0) else s) s
  { s1 with
    failedDies := s.failedDies.insert die.toNat
    lostLines := lines.foldl NatSet.insert s.lostLines
    tiles := s.tiles.filter fun k => k.die != die
    claims := (s.claims.filter fun c => handleDie c.handle != die && (c.tid.extractLsb' 9 2) != die).map (claimWithout die)
    l2 := s.l2.filter fun c => !homesLine s die c.line
    fetchCopies := s.fetchCopies.filter fun c => coreDie c.core != die
    leaves := s.leaves.filter fun c => if c.unit < 256 then coreDie c.unit != die else (c.unit - 256) / 4 != die.toNat
    packets := s.packets.filter fun p => stackDie p.stack != die
    replies := s.replies ++ lost.map lostReply
    ownership := s.ownership.filter fun o => stackDie o.stack != die
    tasks := s.tasks.filter fun k => queueDie k.queue != die
    threads := s.threads.map fun t =>
      { t with links := t.links.map fun k : Link => if homesLine s die k.line then { k with intact := false } else k }
    reports := s.reports ++ failureReports s die }

/-- Commands after a failure: those of the die end with CODE 0x02, SUB 0x01; TLAUNCH tickets of its tasks complete with 0x31. -/
def endCommandsOf (s : State) (die : BitVec 2) (tickets : List (BitVec 32 × BitVec 5 × BitVec 16)) : State :=
  s.commands.foldl (fun s c =>
    if c.die = die then closeCommand s c (statusOf 2 1)
    else if c.phase = .waiting && (tickets.elem (c.tid, c.slot, c.seq) || c.launch.any fun l => queueDie l.1 = die) then
      s.setCommand { c with phase := .finishing (statusOf 0x31 0) 0, launch := none }
    else s) s

/-- Ends a thread fatally with a cause that no point of its stream has (R318, R336). -/
def endWithCause (s : State) (t : Thread) (cause sub : BitVec 8) : State :=
  let f := mkFault cause sub 0 accLoad
  let t' := { t with trap := trapRegs f 0 true (scalarPoint t), sbuf := [], replay := none }
  endFatal (s.setThread t') t' f 0

/-- Ends the threads that a test names, one after another. -/
def endThreads (s : State) (p : Thread → Bool) (cause sub : BitVec 8) : State :=
  (s.threads.filter p).foldl (fun s t =>
    match s.thread? t.tid with
    | none => s
    | some u => endWithCause s u cause sub) s

/-- A die fails (R336). -/
def failDie (s : State) (die : BitVec 2) : State :=
  if s.failedDies.mem die.toNat then s
  else
    let tickets := (s.tasks.filter fun k => queueDie k.queue = die).filterMap (·.ticket)
    let s1 := endCommandsOf (dropDie s die) die tickets
    let s2 := endThreads s1 (fun t => t.die = die) 0x19 0x01
    { s2 with gangs := s2.gangs.filter fun g => g.die != die }

/-- DIE_FAILURE (R336). -/
def execDieFailure (die : BitVec 2) (s : State) : Result := .next (failDie s die)

/-! ### Soft errors (R242, R293, R334, R335) -/

/-- An error that the check corrects and counts. -/
def countCorrected (s : State) : State := { s with corrected := s.corrected + 1 }

/-- An error in a 32-byte granule of memory: poison, or a correctable error that stays until a scrub or a write. -/
def memoryError (s : State) (pa : Nat) (hard : Bool) : State :=
  let g := pa / 32 * 2
  if !(decide (pa < Config.hbmEnd) || allTenants.any fun t => (cxlPort s t pa).isSome) then s
  else if hard then { s with poison := (s.poison.insert g).insert (g + 1) }
  else { s with softErrors := s.softErrors.insert g }

/-- An uncorrectable error of a tag entry: its row is quarantined, TAGERR tells it, and it is reported (R242, R293). -/
def tagEntryError (s : State) (stack : BitVec 4) (entry : Nat) : State :=
  let off := offTown stack + 0x10
  let v := s.mreg (stackDie stack) off
  let count := min (field v 1 31 + 1) (2 ^ 31 - 1)
  let s1 := s.setMreg (stackDie stack) off (BitVec.ofNat 64 (entry * 2 ^ 32 + count * 2 + 1))
  { s1 with quarantine := s1.quarantine.insert (frameRow stack (entry / 64) (entry % 64) / 1024) }.report (.tagError stack entry)

/-- LANEERR after an error (R335). -/
def laneError (s : State) (die : BitVec 2) (core group lane : Nat) : State :=
  let off := offLane core + 8
  let count := min (field (s.mreg die off) 40 24 + 1) (2 ^ 24 - 1)
  s.setMreg die off (BitVec.ofNat 64 (count * 2 ^ 40 + group * 2 ^ 8 + lane * 2 ^ 3 + 1))

/-- Core of the package. -/
def coreOf (die : BitVec 2) (core : BitVec 6) : Nat := die.toNat * 64 + core.toNat

/-- Whether a crew's scratchpad range holds a granule. -/
def ownsGranule (core granule : Nat) (t : Thread) : Bool :=
  t.core = core && t.spadLo ≤ granule * 16 && granule * 16 < t.spadLo + t.spadLen

/-- An error of a word that a core's L1 holds: this copy gives poison, or it is corrected and counted (R242, log 89). -/
def l1Error (s : State) (core pa : Nat) (hard : Bool) : State :=
  let held := fun c : L1Line => c.core = core && c.line = lineOf pa
  if !s.l1.any held then s
  else if hard then
    { s with l1 := s.l1.map fun c => if held c && !c.bad.elem (pa % 128 / 8) then { c with bad := c.bad ++ [pa % 128 / 8] } else c }
  else countCorrected s

/-- An error of 32 bytes that a home slice's L2 holds: they are poison for every reader, or it is corrected and counted (R242, log 89). -/
def l2Error (s : State) (pa : Nat) (hard : Bool) : State :=
  if !s.l2.any fun c => c.line = lineOf pa then s
  else if hard then { s with poison := poisonAt s.poison pa }
  else countCorrected s

/-- The packet at a place of a base die's buffer loses its data. -/
def damagePacket (stack : BitVec 4) : Nat → List Packet → List Packet
  | _, [] => []
  | n, p :: r =>
    if p.stack != stack then p :: damagePacket stack n r
    else match n with
      | 0 => { p with damaged := true } :: r
      | k + 1 => p :: damagePacket stack k r

/-- The oldest sector that the row buffer holds for a command is lost: it is carried as poison (R237, R242). Of a row command it is the next
sector that moves through the buffer. -/
def damageSector (c : Command) : Command :=
  if c.op = .rcopy then
    match (List.range (unitCount c)).find? fun k => !c.unitDone k && !c.rowInside (k / 32) with
    | some k => { c with sectors := c.sectors ++ [{ line := bufferKey k, bytes := [], bad := List.range 32 }] }
    | none => c
  else
    match c.sectors with
    | [] => c
    | x :: r => { c with sectors := { x with bad := List.range x.bytes.length } :: r }

/-- SOFT_ERROR (R242): an error at a site, correctable or hard. -/
def execSoftError (site : ErrorSite) (s : State) : Result :=
  .next (match site with
    | .memory pa hard => memoryError s pa.toNat hard
    | .tag stack entry hard => if hard then tagEntryError s stack entry.toNat else s
    | .vectorRegister tid reg dword hard =>
      if hard then s.update tid fun t => { t with badVregs := t.badVregs.insert (reg.toNat * 1024 + dword.toNat) } else countCorrected s
    | .maskRegister tid reg dword hard =>
      if hard then s.update tid fun t => { t with badMasks := t.badMasks.insert (reg.toNat * 1024 + dword.toNat) } else countCorrected s
    | .scalarEntry tid entry hard =>
      if hard then s.update tid fun t => { t with badScal := t.badScal.insert entry.toNat } else countCorrected s
    | .scratchpad die core granule hard =>
      if Config.spadBytes ≤ granule.toNat * 16 then s
      else if hard then { s with poison := s.poison.insert (spadLoc (coreOf die core) (granule.toNat * 16) / 16) }
      else countCorrected s
    | .fullEmpty die core granule => endThreads s (ownsGranule (coreOf die core) granule.toNat) 0x19 0x02
    | .accumulator die core tile row =>
      { s with accPoison := s.accPoison.insert ((coreOf die core * 2 + tile.toNat) * 128 + row.toNat) }
    | .lane die core group lane => laneError s die core.toNat group.toNat lane.toNat
    | .directory die hard => if hard then failDie s die else s
    | .l1Data die core pa hard =>
      l1Error s (coreOf die core) pa.toNat hard
    | .l2Data pa hard => l2Error s pa.toNat hard
    | .packetBuffer stack place hard => if hard then { s with packets := damagePacket stack place.toNat s.packets } else s
    | .rowBuffer tid slot hard =>
      if hard then
        match s.command? tid slot with
        | none => s
        | some c => s.setCommand (damageSector c)
      else s
    | .tileFetch die core => { s with fetchBad := s.fetchBad.insert (coreOf die core) })

/-! ### Attestation (R344, R350) -/

/-- The SPLIT, HDM and aperture settings, each with its place in management space. -/
def attestedSettings (s : State) : List (Nat × Dword) :=
  (allTenants.map fun t => (offSplit t, s.mreg 0 (offSplit t))) ++
    ([0, 1, 2, 3].flatMap fun d : BitVec 2 => (List.range 16).map fun k => (d.toNat * 65536 + 0xA000 + 8 * k, s.mreg d (0xA000 + 8 * k))) ++
    (List.range 128).map fun k => (0xB000 + 8 * k, s.mreg 0 (0xB000 + 8 * k))

/-- The measurements of every image (R350). -/
def measurements (s : State) : List (BitVec 256) :=
  if s.firmware.isEmpty then [Config.ownMeasurement] else s.firmware.map measure

/-- The bytes of a report that are digested. -/
def reportBytes (nonce : BitVec 256) (measured : List (BitVec 256)) (settings : List (Nat × Dword)) (hostSigned : Bool) : List Byte :=
  leBytes 32 nonce.toNat ++ (measured.flatMap fun m => leBytes 32 m.toNat) ++ (settings.flatMap fun p => leBytes 8 p.2.toNat) ++
    [if hostSigned then 1 else 0]

/-- ATTESTATION_REQUEST (R350): a report of the verifier's nonce, the measurements, the settings and the mode, signed over its SHAKE256
digest by firmware, with the identity key, or through the host driver. A device that is not up answers none. -/
def execAttestationRequest (nonce : BitVec 256) (s : State) : Result :=
  if s.bringUp != 6 then .next s
  else
    let measured := measurements s
    let settings := attestedSettings s
    let host := s.splitBit 0 5
    let digest := Config.shake256 (reportBytes nonce measured settings host)
    let signed := if host then Config.hostSignature digest
      else Config.signature (Config.identityKey Config.fusedSecret measured) digest
    let r : Attestation := ⟨nonce, measured, settings, host, signed⟩
    .next { s with attested := s.attested ++ [r] }

end Sys2Proof.Machine
end

