-- ==== Sys2Proof/Machine/VectorIssue.lean ====
section
/-! DEFINITION. Pushing a vector instruction (R20, R63, R126 to R128, R288): its checks on VTYPE, groups and operands, what it
captures, and its place in the queue. -/

namespace Sys2Proof.Machine

/-! ### Checks at push -/

/-- The lowest of the subcauses that apply (R63). -/
def lowest (subs : List (BitVec 8)) : Option (BitVec 8) :=
  subs.foldl (fun acc x => match acc with
    | none => some x
    | some y => if x < y then some x else some y) none

/-- A subcause when a condition holds. -/
def subIf (b : Bool) (sub : BitVec 8) : List (BitVec 8) := if b then [sub] else []

/-- A field that names a group of n registers (R24, R127). -/
def groupFault (f : BitVec 7) (n : Nat) : List (BitVec 8) :=
  subIf (128 < f.toNat + n) 0x04 ++ subIf (f.toNat % n != 0) 0x07

/-- A field that names a group at the width of the vector type. -/
def narrow (vt : BitVec 14) (f : BitVec 7) : List (BitVec 8) := groupFault f (vtGroup vt)

/-- A field that names a wide group of W × G registers (R127). -/
def wide (vt : BitVec 14) (f : BitVec 7) : List (BitVec 8) :=
  let n := 32 / vtSew vt * vtGroup vt
  subIf (8 < n) 0x05 ++ groupFault f n

/-- The formats that an instruction accepts (R127). -/
def formats (vt : BitVec 14) (fs : List Nat) : List (BitVec 8) := subIf (!fs.elem (vtFmt vt)) 0x05

abbrev intFormats : List Nat := [0, 1]
abbrev fpFormats : List Nat := [2, 3, 4]
abbrev lawFormats : List Nat := [0, 1, 2, 3, 4]
abbrev anyFormats : List Nat := [0, 1, 2, 3, 4, 5, 6]

/-! ### Pushing -/

/-- What an instruction asks of its push: the operation, its M bit, the registers of its captured scalars, the scalars, its slots, and
the subcauses that apply. -/
structure Push where
  op      : VOp
  masked  : Bool
  reads   : List (BitVec 7)
  scalar  : Dword
  scalar2 : Dword
  slots   : Nat
  faults  : List (BitVec 8)
  deriving DecidableEq, Repr

/-- What the accesses of an entry pushed now wait for (R167). -/
def pushWait (t : Thread) (op : VOp) : Nat :=
  match op with
  | .mem op _ _ => if op.stores then t.fences.vsSs else t.fences.vlSs
  | _ => 0

/-- The queue entry of a push, with every value it captures (R20). -/
def entryOf (t : Thread) (i : Instr) (p : Push) : VEntry :=
  { instr := i, addr := t.pc, op := p.op, masked := p.masked, scalar := p.scalar, scalar2 := p.scalar2, vl := t.vl, vtype := t.vtype,
    vwb := t.vwb, rm := Flags.rm t.fcsr, xcls := t.xcls, epoch := t.epoch, order := t.order, start := none, began := none, badBlock := none,
    badScalar := p.reads.any t.badG, flags := 0, gov := none, owed := [], early := [],
    waitStores := pushWait t p.op }

/-- The thread with the entry at the end of its queue, past the instruction. -/
def Thread.pushed (t : Thread) (e : VEntry) (slots : Nat) : Thread :=
  { t.advance slots with vq := t.vq ++ [e], order := t.order + 1, repeats := t.queuedRepeats }

/-- Pushes an entry; the queue then runs as far as it goes, unless the vector stream is held and the entry's result is not awaited. -/
def pushEntry (s : State) (t : Thread) (i : Instr) (p : Push) : State :=
  let u := t.pushed (entryOf t i p) p.slots
  let s1 := s.setThread u
  if u.holdVec && !(entryOf t i p).counts then s1 else (drainVector s1 u).1

/-- Pushes a vector instruction: a full queue is executed first, and while it stays full the instruction waits (R288). -/
def pushVector (s : State) (t : Thread) (i : Instr) (f : Thread → Push) : State :=
  let room := if t.vq.length < Config.vectorQueueSize then (s, HeadEnd.committed) else drainVector s t
  match room with
  | (s1, .trapped) => s1
  | (s1, _) =>
    match s1.thread? t.tid with
    | none => s1
    | some u =>
      if Config.vectorQueueSize ≤ u.vq.length then s1
      else
        match lowest (f u).faults with
        | some sub => illegal s1 u sub
        | none => pushEntry s1 u i (f u)

/-- A vector instruction. -/
def vectorOp (s : State) (i : Instr) (f : Thread → Push) : Result := onThread s fun t => pushVector s t i f

/-! ### Shapes -/

/-- An instruction on groups d, a and the group b. -/
def groupsPush (op : VOp) (m : Bool) (d a b : BitVec 7) (fs : List Nat) (t : Thread) : Push :=
  { op := op, masked := m, reads := [], scalar := 0, scalar2 := 0, slots := 1,
    faults := formats t.vtype fs ++ narrow t.vtype d ++ narrow t.vtype a ++ narrow t.vtype b }

/-- An instruction on groups d and a and a captured scalar. -/
def scalarPush (op : VOp) (m : Bool) (d a : BitVec 7) (b : Src) (fs : List Nat) (t : Thread) : Push :=
  { op := op, masked := m, reads := b.reads, scalar := t.src b, scalar2 := 0, slots := b.slots,
    faults := formats t.vtype fs ++ narrow t.vtype d ++ narrow t.vtype a }

/-- A comparison of groups a and b into a mask. -/
def groupsMaskPush (op : VOp) (m : Bool) (a b : BitVec 7) (fs : List Nat) (t : Thread) : Push :=
  { op := op, masked := m, reads := [], scalar := 0, scalar2 := 0, slots := 1,
    faults := formats t.vtype fs ++ narrow t.vtype a ++ narrow t.vtype b }

/-- A comparison of a group and a captured scalar into a mask. -/
def scalarMaskPush (op : VOp) (m : Bool) (a : BitVec 7) (b : Src) (fs : List Nat) (t : Thread) : Push :=
  { op := op, masked := m, reads := b.reads, scalar := t.src b, scalar2 := 0, slots := b.slots,
    faults := formats t.vtype fs ++ narrow t.vtype a }

/-- An instruction with one source group and one destination group. -/
def unaryPush (op : VOp) (m : Bool) (d a : BitVec 7) (fs : List Nat) (t : Thread) : Push :=
  { op := op, masked := m, reads := [], scalar := 0, scalar2 := 0, slots := 1,
    faults := formats t.vtype fs ++ narrow t.vtype d ++ narrow t.vtype a }

/-- An instruction with one group and no other operand that needs a check. -/
def onePush (op : VOp) (m : Bool) (f : BitVec 7) (fs : List Nat) (t : Thread) : Push :=
  { op := op, masked := m, reads := [], scalar := 0, scalar2 := 0, slots := 1,
    faults := formats t.vtype fs ++ narrow t.vtype f }

/-- Mask logic: no group and no mask (R145). -/
def maskPush (op : VOp) (_t : Thread) : Push :=
  { op := op, masked := false, reads := [], scalar := 0, scalar2 := 0, slots := 1, faults := [] }

/-- A memory instruction with its base, stride or row, and its groups (R146). -/
def memPush (op : VMemOp) (m : Bool) (d a b : BitVec 7) (y : Option Src) (t : Thread) : Push :=
  { op := .mem op d b, masked := m
    reads := a :: (match y with | some y => y.reads | none => [])
    scalar := t.g a
    scalar2 := match y with | some y => t.src y | none => 0
    slots := match y with | some y => y.slots | none => 1
    faults := (if op = .pf then [] else narrow t.vtype d) ++ (if op.indexed then narrow t.vtype b else []) }

end Sys2Proof.Machine
end

