-- ==== Sys2Proof/Machine/MatrixIssue.lean ====
section
/-! DEFINITION. Pushing the instructions of the core's matrix queue (R30, R168, R184, R186, R192). -/

namespace Sys2Proof.Machine

/-- Pushes a matrix instruction: the tile must be the thread's (R168); while the core's queue is full the instruction waits. -/
def pushOwned (s : State) (t : Thread) (i : Instr) (op : MOp) (z : BitVec 1) (a b : Dword) (slots : Nat) : State :=
  if !ownsTile s t z then scalarTrap s t (mkFault 0x0A 0 0 accLoad)
  else
    let s1 := if (coreQueue s t).length < Config.matrixQueueSize then s else drainMatrix s t.tid
    match s1.thread? t.tid with
    | none => s1
    | some u =>
      if Config.matrixQueueSize ≤ (coreQueue s1 u).length then s1
      else
        let s2 := pushMatrix s1 u i op z a b slots
        if u.holdMat then s2 else drainMatrix s2 t.tid

/-- MZERO (R184). -/
def execMzero (d : BitVec 7) (s : State) : Result :=
  scalarOp s [] fun t => pushOwned s t (.mzero d) .zero (d.extractLsb' 0 1) 0 0 1

/-- MMA (R186). -/
def execMma (d a : BitVec 7) (b : Src) (s : State) : Result :=
  scalarOp s (a :: b.reads) fun t => pushOwned s t (.mma d a b) .mma (d.extractLsb' 0 1) (t.g a) (t.src b) b.slots

/-- MMAI (R186). -/
def execMmai (d a : BitVec 7) (b : Src) (s : State) : Result :=
  scalarOp s (a :: b.reads) fun t => pushOwned s t (.mmai d a b) .mmai (d.extractLsb' 0 1) (t.g a) (t.src b) b.slots

/-- MMAG (R186): only in a tile gang. -/
def execMmag (d a : BitVec 7) (b : Src) (s : State) : Result :=
  scalarOp s (a :: b.reads) fun t =>
    if !t.tileg then illegal s t 0x10
    else pushOwned s t (.mmag d a b) .mmag (d.extractLsb' 0 1) (t.g a) (t.src b) b.slots

/-- MLDA (R192). -/
def execMlda (d a : BitVec 7) (s : State) : Result :=
  scalarOp s [a] fun t => pushOwned s t (.mlda d a) .lda (d.extractLsb' 0 1) (t.g a) 0 1

/-- MSTA (R192). -/
def execMsta (d a : BitVec 7) (s : State) : Result :=
  scalarOp s [a] fun t => pushOwned s t (.msta d a) .sta (d.extractLsb' 0 1) (t.g a) 0 1

end Sys2Proof.Machine
end

