-- ==== Sys2Proof/Machine/Scalar.lean ====
section
/-! DEFINITION. Majors ALU, ALUI, UPPER and LDST (R97 to R102). -/

namespace Sys2Proof.Machine

/-! ### Results -/

/-- High 64 bits of the product of two i64 (R97). -/
def mulHigh (a y : Dword) : Dword := BitVec.ofInt 64 (a.toInt * y.toInt / 2 ^ 64)

/-- High 64 bits of the product of two n64 (R97). -/
def mulHighN (a y : Dword) : Dword := BitVec.ofNat 64 (a.toNat * y.toNat / 2 ^ 64)

/-- Quotient toward zero as i64; −1 for y = 0 (R98). -/
def quotI (a y : Dword) : Dword := if y = 0 then BitVec.allOnes 64 else BitVec.ofInt 64 (a.toInt.tdiv y.toInt)

/-- Quotient as n64; all ones for y = 0 (R98). -/
def quotN (a y : Dword) : Dword := if y = 0 then BitVec.allOnes 64 else BitVec.ofNat 64 (a.toNat / y.toNat)

/-- Remainder of a quotient (R97); g(a) for y = 0 (R98). -/
def remI (a y : Dword) : Dword := if y = 0 then a else a - quotI a y * y

def remN (a y : Dword) : Dword := if y = 0 then a else a - quotN a y * y

def minI (a y : Dword) : Dword := if a.toInt < y.toInt then a else y
def maxI (a y : Dword) : Dword := if y.toInt < a.toInt then a else y
def minN (a y : Dword) : Dword := if a.toNat < y.toNat then a else y
def maxN (a y : Dword) : Dword := if y.toNat < a.toNat then a else y

/-- 1 or 0 (R97). -/
def truth (b : Bool) : Dword := if b then 1 else 0

/-- y[5:0] (R97). -/
def shiftOf (y : Dword) : Nat := y.toNat % 64

def shl (a y : Dword) : Dword := a <<< shiftOf y
def shr (a y : Dword) : Dword := a >>> shiftOf y
def sar (a y : Dword) : Dword := a.sshiftRight (shiftOf y)
def ror (a y : Dword) : Dword := a.rotateRight (shiftOf y)

/-- Leading zero bits from bit n − 1 down. -/
def leadingZeros (a : Dword) : Nat → Nat
  | 0 => 0
  | n + 1 => if a.getLsbD n then 0 else 1 + leadingZeros a n

/-- Trailing zero bits of the n bits from bit i up. -/
def trailingZeros (a : Dword) : Nat → Nat → Nat
  | 0, _ => 0
  | n + 1, i => if a.getLsbD i then 0 else 1 + trailingZeros a n (i + 1)

/-- Set bits among the lowest n. -/
def popCount (a : Dword) : Nat → Nat
  | 0 => 0
  | n + 1 => (if a.getLsbD n then 1 else 0) + popCount a n

/-- BFX: a field of a, zero- or sign-extended (R99). -/
def bitField (a y : Dword) : Dword :=
  let pos := field y 0 6
  let len := field y 6 6 + 1
  let v := bits a.toNat pos len
  if y.getLsbD 12 && v.testBit (len - 1) then BitVec.ofNat 64 (v + (2 ^ 64 - 2 ^ len)) else BitVec.ofNat 64 v

/-- BFI: d with the present bits of a field replaced by a's low bits (R99). -/
def bitInsert (d a y : Dword) : Dword :=
  let pos := field y 0 6
  let len := field y 6 6 + 1
  let mask : Dword := BitVec.ofNat 64 ((2 ^ len - 1) * 2 ^ pos)
  (d &&& ~~~mask) ||| ((a <<< pos) &&& mask)

/-- An ALU instruction: g(d) ← f(g(a), y) (R97). -/
def aluOp (d a : BitVec 7) (b : Src) (s : State) (f : Dword → Dword → Dword) : Result :=
  writeOp s (a :: b.reads) d b.slots fun t => f (t.g a) (t.src b)

/-- An ALUI instruction: g(d) ← f(g(a), sext(imm)) (R97). -/
def aluiOp (d a : BitVec 7) (imm : Imm11) (s : State) (f : Dword → Dword → Dword) : Result :=
  writeOp s [a] d imm.slots fun t => f (t.g a) imm.value

/-! ### Meanings -/

/-- ADD (R97). -/
def execAdd (d a : BitVec 7) (b : Src) (s : State) : Result := aluOp d a b s (· + ·)

/-- SUB (R97). -/
def execSub (d a : BitVec 7) (b : Src) (s : State) : Result := aluOp d a b s (· - ·)

/-- AND (R97). -/
def execAnd (d a : BitVec 7) (b : Src) (s : State) : Result := aluOp d a b s (· &&& ·)

/-- OR (R97). -/
def execOr (d a : BitVec 7) (b : Src) (s : State) : Result := aluOp d a b s (· ||| ·)

/-- XOR (R97). -/
def execXor (d a : BitVec 7) (b : Src) (s : State) : Result := aluOp d a b s (· ^^^ ·)

/-- ANDN (R97). -/
def execAndn (d a : BitVec 7) (b : Src) (s : State) : Result := aluOp d a b s (fun x y => x &&& ~~~y)

/-- ORN (R97). -/
def execOrn (d a : BitVec 7) (b : Src) (s : State) : Result := aluOp d a b s (fun x y => x ||| ~~~y)

/-- SLL (R97). -/
def execSll (d a : BitVec 7) (b : Src) (s : State) : Result := aluOp d a b s shl

/-- SRL (R97). -/
def execSrl (d a : BitVec 7) (b : Src) (s : State) : Result := aluOp d a b s shr

/-- SRA (R97). -/
def execSra (d a : BitVec 7) (b : Src) (s : State) : Result := aluOp d a b s sar

/-- ROR (R97). -/
def execRor (d a : BitVec 7) (b : Src) (s : State) : Result := aluOp d a b s ror

/-- MUL (R97). -/
def execMul (d a : BitVec 7) (b : Src) (s : State) : Result := aluOp d a b s (· * ·)

/-- MULH (R97). -/
def execMulh (d a : BitVec 7) (b : Src) (s : State) : Result := aluOp d a b s mulHigh

/-- MULHN (R97). -/
def execMulhn (d a : BitVec 7) (b : Src) (s : State) : Result := aluOp d a b s mulHighN

/-- DIV (R97). -/
def execDiv (d a : BitVec 7) (b : Src) (s : State) : Result := aluOp d a b s quotI

/-- DIVN (R97). -/
def execDivn (d a : BitVec 7) (b : Src) (s : State) : Result := aluOp d a b s quotN

/-- REM (R97). -/
def execRem (d a : BitVec 7) (b : Src) (s : State) : Result := aluOp d a b s remI

/-- REMN (R97). -/
def execRemn (d a : BitVec 7) (b : Src) (s : State) : Result := aluOp d a b s remN

/-- MIN (R97). -/
def execMin (d a : BitVec 7) (b : Src) (s : State) : Result := aluOp d a b s minI

/-- MAX (R97). -/
def execMax (d a : BitVec 7) (b : Src) (s : State) : Result := aluOp d a b s maxI

/-- MINN (R97). -/
def execMinn (d a : BitVec 7) (b : Src) (s : State) : Result := aluOp d a b s minN

/-- MAXN (R97). -/
def execMaxn (d a : BitVec 7) (b : Src) (s : State) : Result := aluOp d a b s maxN

/-- SLT (R97). -/
def execSlt (d a : BitVec 7) (b : Src) (s : State) : Result := aluOp d a b s (fun x y => truth (x.toInt < y.toInt))

/-- SLTN (R97). -/
def execSltn (d a : BitVec 7) (b : Src) (s : State) : Result := aluOp d a b s (fun x y => truth (x.toNat < y.toNat))

/-- SEQ (R97). -/
def execSeq (d a : BitVec 7) (b : Src) (s : State) : Result := aluOp d a b s (fun x y => truth (x == y))

/-- SNE (R97). -/
def execSne (d a : BitVec 7) (b : Src) (s : State) : Result := aluOp d a b s (fun x y => truth (x != y))

/-- BFX (R99). -/
def execBfx (d a : BitVec 7) (b : Src) (s : State) : Result := aluOp d a b s bitField

/-- CLZ (R97). -/
def execClz (d a : BitVec 7) (s : State) : Result := writeOp s [a] d 1 fun t => BitVec.ofNat 64 (leadingZeros (t.g a) 64)

/-- CTZ (R97). -/
def execCtz (d a : BitVec 7) (s : State) : Result := writeOp s [a] d 1 fun t => BitVec.ofNat 64 (trailingZeros (t.g a) 64 0)

/-- POPC (R97). -/
def execPopc (d a : BitVec 7) (s : State) : Result := writeOp s [a] d 1 fun t => BitVec.ofNat 64 (popCount (t.g a) 64)

/-- BFI (R99): it reads g(d) before it writes it. -/
def execBfi (d a : BitVec 7) (b : Src) (s : State) : Result :=
  writeOp s (d :: a :: b.reads) d b.slots fun t => bitInsert (t.g d) (t.g a) (t.src b)

/-- ADDI (R97). -/
def execAddi (d a : BitVec 7) (imm : Imm11) (s : State) : Result := aluiOp d a imm s (· + ·)

/-- ANDI (R97). -/
def execAndi (d a : BitVec 7) (imm : Imm11) (s : State) : Result := aluiOp d a imm s (· &&& ·)

/-- ORI (R97). -/
def execOri (d a : BitVec 7) (imm : Imm11) (s : State) : Result := aluiOp d a imm s (· ||| ·)

/-- XORI (R97). -/
def execXori (d a : BitVec 7) (imm : Imm11) (s : State) : Result := aluiOp d a imm s (· ^^^ ·)

/-- SLLI (R97). -/
def execSlli (d a : BitVec 7) (imm : Imm11) (s : State) : Result := aluiOp d a imm s shl

/-- SRLI (R97). -/
def execSrli (d a : BitVec 7) (imm : Imm11) (s : State) : Result := aluiOp d a imm s shr

/-- SRAI (R97). -/
def execSrai (d a : BitVec 7) (imm : Imm11) (s : State) : Result := aluiOp d a imm s sar

/-- SLTI (R97). -/
def execSlti (d a : BitVec 7) (imm : Imm11) (s : State) : Result := aluiOp d a imm s (fun x y => truth (x.toInt < y.toInt))

/-- LIH (R100): the immediate at bit 16. -/
def execLih (d : BitVec 7) (imm : Imm20) (s : State) : Result := writeOp s [] d imm.slots fun _ => imm.value <<< 16

/-- ADDPC (R100): the instruction's address plus the immediate. -/
def execAddpc (d : BitVec 7) (imm : Imm20) (s : State) : Result := writeOp s [] d imm.slots fun t => t.pc.setWidth 64 + imm.value

/-- LDD (R102). -/
def execLdd (d a : BitVec 7) (imm : Imm11) (s : State) : Result := loadOp s d a imm 8

/-- LDW (R102). -/
def execLdw (d a : BitVec 7) (imm : Imm11) (s : State) : Result := loadOp s d a imm 4

/-- LDH (R102). -/
def execLdh (d a : BitVec 7) (imm : Imm11) (s : State) : Result := loadOp s d a imm 2

/-- LDB (R102). -/
def execLdb (d a : BitVec 7) (imm : Imm11) (s : State) : Result := loadOp s d a imm 1

/-- STD (R102). -/
def execStd (d a : BitVec 7) (imm : Imm11) (s : State) : Result := storeOp s d a imm 8

/-- STW (R102). -/
def execStw (d a : BitVec 7) (imm : Imm11) (s : State) : Result := storeOp s d a imm 4

/-- STH (R102). -/
def execSth (d a : BitVec 7) (imm : Imm11) (s : State) : Result := storeOp s d a imm 2

/-- STB (R102). -/
def execStb (d a : BitVec 7) (imm : Imm11) (s : State) : Result := storeOp s d a imm 1

end Sys2Proof.Machine
end

