-- ==== Sys2Proof/Machine/VectorFp.lean ====
section
/-! DEFINITION. Major VFP (R132 to R136). -/

namespace Sys2Proof.Machine

/-- VFADD.vv. -/
def execVfaddVV (d a b : BitVec 7) (m : Bool) (s : State) : Result :=
  vectorOp s (.vfaddVV d a b m) (groupsPush (.fp .add d a (.vec b)) m d a b fpFormats)

/-- VFADD.vg. -/
def execVfaddVG (d a : BitVec 7) (b : Src) (m : Bool) (s : State) : Result :=
  vectorOp s (.vfaddVG d a b m) (scalarPush (.fp .add d a .scalar) m d a b fpFormats)

/-- VFSUB.vv. -/
def execVfsubVV (d a b : BitVec 7) (m : Bool) (s : State) : Result :=
  vectorOp s (.vfsubVV d a b m) (groupsPush (.fp .sub d a (.vec b)) m d a b fpFormats)

/-- VFSUB.vg. -/
def execVfsubVG (d a : BitVec 7) (b : Src) (m : Bool) (s : State) : Result :=
  vectorOp s (.vfsubVG d a b m) (scalarPush (.fp .sub d a .scalar) m d a b fpFormats)

/-- VFMUL.vv. -/
def execVfmulVV (d a b : BitVec 7) (m : Bool) (s : State) : Result :=
  vectorOp s (.vfmulVV d a b m) (groupsPush (.fp .mul d a (.vec b)) m d a b fpFormats)

/-- VFMUL.vg. -/
def execVfmulVG (d a : BitVec 7) (b : Src) (m : Bool) (s : State) : Result :=
  vectorOp s (.vfmulVG d a b m) (scalarPush (.fp .mul d a .scalar) m d a b fpFormats)

/-- VFMA.vv. -/
def execVfmaVV (d a b : BitVec 7) (m : Bool) (s : State) : Result :=
  vectorOp s (.vfmaVV d a b m) (groupsPush (.fp .fma d a (.vec b)) m d a b fpFormats)

/-- VFMA.vg. -/
def execVfmaVG (d a : BitVec 7) (b : Src) (m : Bool) (s : State) : Result :=
  vectorOp s (.vfmaVG d a b m) (scalarPush (.fp .fma d a .scalar) m d a b fpFormats)

/-- VFNMS.vv. -/
def execVfnmsVV (d a b : BitVec 7) (m : Bool) (s : State) : Result :=
  vectorOp s (.vfnmsVV d a b m) (groupsPush (.fp .fnms d a (.vec b)) m d a b fpFormats)

/-- VFNMS.vg. -/
def execVfnmsVG (d a : BitVec 7) (b : Src) (m : Bool) (s : State) : Result :=
  vectorOp s (.vfnmsVG d a b m) (scalarPush (.fp .fnms d a .scalar) m d a b fpFormats)

/-- VFMIN.vv. -/
def execVfminVV (d a b : BitVec 7) (m : Bool) (s : State) : Result :=
  vectorOp s (.vfminVV d a b m) (groupsPush (.fp .min d a (.vec b)) m d a b fpFormats)

/-- VFMIN.vg. -/
def execVfminVG (d a : BitVec 7) (b : Src) (m : Bool) (s : State) : Result :=
  vectorOp s (.vfminVG d a b m) (scalarPush (.fp .min d a .scalar) m d a b fpFormats)

/-- VFMAX.vv. -/
def execVfmaxVV (d a b : BitVec 7) (m : Bool) (s : State) : Result :=
  vectorOp s (.vfmaxVV d a b m) (groupsPush (.fp .max d a (.vec b)) m d a b fpFormats)

/-- VFMAX.vg. -/
def execVfmaxVG (d a : BitVec 7) (b : Src) (m : Bool) (s : State) : Result :=
  vectorOp s (.vfmaxVG d a b m) (scalarPush (.fp .max d a .scalar) m d a b fpFormats)

/-- VFDIV.vv. -/
def execVfdivVV (d a b : BitVec 7) (m : Bool) (s : State) : Result :=
  vectorOp s (.vfdivVV d a b m) (groupsPush (.fp .div d a (.vec b)) m d a b fpFormats)

/-- VFDIV.vg. -/
def execVfdivVG (d a : BitVec 7) (b : Src) (m : Bool) (s : State) : Result :=
  vectorOp s (.vfdivVG d a b m) (scalarPush (.fp .div d a .scalar) m d a b fpFormats)

/-- VFSGNJ.vv. -/
def execVfsgnjVV (d a b : BitVec 7) (m : Bool) (s : State) : Result :=
  vectorOp s (.vfsgnjVV d a b m) (groupsPush (.fp .sgnj d a (.vec b)) m d a b fpFormats)

/-- VFSGNJ.vg. -/
def execVfsgnjVG (d a : BitVec 7) (b : Src) (m : Bool) (s : State) : Result :=
  vectorOp s (.vfsgnjVG d a b m) (scalarPush (.fp .sgnj d a .scalar) m d a b fpFormats)

/-- VFSGNN.vv. -/
def execVfsgnnVV (d a b : BitVec 7) (m : Bool) (s : State) : Result :=
  vectorOp s (.vfsgnnVV d a b m) (groupsPush (.fp .sgnn d a (.vec b)) m d a b fpFormats)

/-- VFSGNN.vg. -/
def execVfsgnnVG (d a : BitVec 7) (b : Src) (m : Bool) (s : State) : Result :=
  vectorOp s (.vfsgnnVG d a b m) (scalarPush (.fp .sgnn d a .scalar) m d a b fpFormats)

/-- VFSGNX.vv. -/
def execVfsgnxVV (d a b : BitVec 7) (m : Bool) (s : State) : Result :=
  vectorOp s (.vfsgnxVV d a b m) (groupsPush (.fp .sgnx d a (.vec b)) m d a b fpFormats)

/-- VFSGNX.vg. -/
def execVfsgnxVG (d a : BitVec 7) (b : Src) (m : Bool) (s : State) : Result :=
  vectorOp s (.vfsgnxVG d a b m) (scalarPush (.fp .sgnx d a .scalar) m d a b fpFormats)

/-- VFEQ.vv: a mask. -/
def execVfeqVV (d a b : BitVec 7) (m : Bool) (s : State) : Result :=
  vectorOp s (.vfeqVV d a b m) (groupsMaskPush (.fpCmp .eq d a (.vec b)) m a b fpFormats)

/-- VFEQ.vg: a mask. -/
def execVfeqVG (d a : BitVec 7) (b : Src) (m : Bool) (s : State) : Result :=
  vectorOp s (.vfeqVG d a b m) (scalarMaskPush (.fpCmp .eq d a .scalar) m a b fpFormats)

/-- VFLT.vv: a mask. -/
def execVfltVV (d a b : BitVec 7) (m : Bool) (s : State) : Result :=
  vectorOp s (.vfltVV d a b m) (groupsMaskPush (.fpCmp .lt d a (.vec b)) m a b fpFormats)

/-- VFLT.vg: a mask. -/
def execVfltVG (d a : BitVec 7) (b : Src) (m : Bool) (s : State) : Result :=
  vectorOp s (.vfltVG d a b m) (scalarMaskPush (.fpCmp .lt d a .scalar) m a b fpFormats)

/-- VFLE.vv: a mask. -/
def execVfleVV (d a b : BitVec 7) (m : Bool) (s : State) : Result :=
  vectorOp s (.vfleVV d a b m) (groupsMaskPush (.fpCmp .le d a (.vec b)) m a b fpFormats)

/-- VFLE.vg: a mask. -/
def execVfleVG (d a : BitVec 7) (b : Src) (m : Bool) (s : State) : Result :=
  vectorOp s (.vfleVG d a b m) (scalarMaskPush (.fpCmp .le d a .scalar) m a b fpFormats)

/-- VFSQRT. -/
def execVfsqrt (d a : BitVec 7) (m : Bool) (s : State) : Result :=
  vectorOp s (.vfsqrt d a m) (unaryPush (.fpUn .sqrt d a) m d a fpFormats)

/-- VFRSQRTE. -/
def execVfrsqrte (d a : BitVec 7) (m : Bool) (s : State) : Result :=
  vectorOp s (.vfrsqrte d a m) (unaryPush (.fpUn .rsqrte d a) m d a [2])

/-- VFRECE. -/
def execVfrece (d a : BitVec 7) (m : Bool) (s : State) : Result :=
  vectorOp s (.vfrece d a m) (unaryPush (.fpUn .rece d a) m d a [2])

/-- VFCLASS. -/
def execVfclass (d a : BitVec 7) (m : Bool) (s : State) : Result :=
  vectorOp s (.vfclass d a m) (unaryPush (.fpUn .cls d a) m d a fpFormats)

/-- VFCVTIF. -/
def execVfcvtif (d a : BitVec 7) (m : Bool) (s : State) : Result :=
  vectorOp s (.vfcvtif d a m) (unaryPush (.fpUn .cvtif d a) m d a fpFormats)

/-- VFCVTFI. -/
def execVfcvtfi (d a : BitVec 7) (m : Bool) (s : State) : Result :=
  vectorOp s (.vfcvtfi d a m) (unaryPush (.fpUn .cvtfi d a) m d a fpFormats)

/-- VFCVTW (R134): the source is a wide group of FP32. -/
def execVfcvtw (d a : BitVec 7) (m : Bool) (s : State) : Result :=
  vectorOp s (.vfcvtw d a m) fun t =>
    { op := .fpUn .cvtw d a, masked := m, reads := [], scalar := 0, scalar2 := 0, slots := 1,
      faults := formats t.vtype [3, 4, 5, 6] ++ narrow t.vtype d ++ wide t.vtype a }

end Sys2Proof.Machine
end

