-- ==== Sys2Proof/Machine/VectorInt.lean ====
section
/-! DEFINITION. Major VALU (R130, R131). -/

namespace Sys2Proof.Machine

/-- VADD.vv. -/
def execVaddVV (d a b : BitVec 7) (m : Bool) (s : State) : Result :=
  vectorOp s (.vaddVV d a b m) (groupsPush (.int .add d a (.vec b)) m d a b intFormats)

/-- VADD.vg. -/
def execVaddVG (d a : BitVec 7) (b : Src) (m : Bool) (s : State) : Result :=
  vectorOp s (.vaddVG d a b m) (scalarPush (.int .add d a .scalar) m d a b intFormats)

/-- VSUB.vv. -/
def execVsubVV (d a b : BitVec 7) (m : Bool) (s : State) : Result :=
  vectorOp s (.vsubVV d a b m) (groupsPush (.int .sub d a (.vec b)) m d a b intFormats)

/-- VSUB.vg. -/
def execVsubVG (d a : BitVec 7) (b : Src) (m : Bool) (s : State) : Result :=
  vectorOp s (.vsubVG d a b m) (scalarPush (.int .sub d a .scalar) m d a b intFormats)

/-- VMUL.vv. -/
def execVmulVV (d a b : BitVec 7) (m : Bool) (s : State) : Result :=
  vectorOp s (.vmulVV d a b m) (groupsPush (.int .mul d a (.vec b)) m d a b intFormats)

/-- VMUL.vg. -/
def execVmulVG (d a : BitVec 7) (b : Src) (m : Bool) (s : State) : Result :=
  vectorOp s (.vmulVG d a b m) (scalarPush (.int .mul d a .scalar) m d a b intFormats)

/-- VMULH.vv. -/
def execVmulhVV (d a b : BitVec 7) (m : Bool) (s : State) : Result :=
  vectorOp s (.vmulhVV d a b m) (groupsPush (.int .mulh d a (.vec b)) m d a b intFormats)

/-- VMULH.vg. -/
def execVmulhVG (d a : BitVec 7) (b : Src) (m : Bool) (s : State) : Result :=
  vectorOp s (.vmulhVG d a b m) (scalarPush (.int .mulh d a .scalar) m d a b intFormats)

/-- VMACC.vv. -/
def execVmaccVV (d a b : BitVec 7) (m : Bool) (s : State) : Result :=
  vectorOp s (.vmaccVV d a b m) (groupsPush (.int .macc d a (.vec b)) m d a b intFormats)

/-- VMACC.vg. -/
def execVmaccVG (d a : BitVec 7) (b : Src) (m : Bool) (s : State) : Result :=
  vectorOp s (.vmaccVG d a b m) (scalarPush (.int .macc d a .scalar) m d a b intFormats)

/-- VAND.vv. -/
def execVandVV (d a b : BitVec 7) (m : Bool) (s : State) : Result :=
  vectorOp s (.vandVV d a b m) (groupsPush (.int .and d a (.vec b)) m d a b anyFormats)

/-- VAND.vg. -/
def execVandVG (d a : BitVec 7) (b : Src) (m : Bool) (s : State) : Result :=
  vectorOp s (.vandVG d a b m) (scalarPush (.int .and d a .scalar) m d a b anyFormats)

/-- VOR.vv. -/
def execVorVV (d a b : BitVec 7) (m : Bool) (s : State) : Result :=
  vectorOp s (.vorVV d a b m) (groupsPush (.int .or d a (.vec b)) m d a b anyFormats)

/-- VOR.vg. -/
def execVorVG (d a : BitVec 7) (b : Src) (m : Bool) (s : State) : Result :=
  vectorOp s (.vorVG d a b m) (scalarPush (.int .or d a .scalar) m d a b anyFormats)

/-- VXOR.vv. -/
def execVxorVV (d a b : BitVec 7) (m : Bool) (s : State) : Result :=
  vectorOp s (.vxorVV d a b m) (groupsPush (.int .xor d a (.vec b)) m d a b anyFormats)

/-- VXOR.vg. -/
def execVxorVG (d a : BitVec 7) (b : Src) (m : Bool) (s : State) : Result :=
  vectorOp s (.vxorVG d a b m) (scalarPush (.int .xor d a .scalar) m d a b anyFormats)

/-- VSLL.vv. -/
def execVsllVV (d a b : BitVec 7) (m : Bool) (s : State) : Result :=
  vectorOp s (.vsllVV d a b m) (groupsPush (.int .sll d a (.vec b)) m d a b intFormats)

/-- VSLL.vg. -/
def execVsllVG (d a : BitVec 7) (b : Src) (m : Bool) (s : State) : Result :=
  vectorOp s (.vsllVG d a b m) (scalarPush (.int .sll d a .scalar) m d a b intFormats)

/-- VSRL.vv. -/
def execVsrlVV (d a b : BitVec 7) (m : Bool) (s : State) : Result :=
  vectorOp s (.vsrlVV d a b m) (groupsPush (.int .srl d a (.vec b)) m d a b intFormats)

/-- VSRL.vg. -/
def execVsrlVG (d a : BitVec 7) (b : Src) (m : Bool) (s : State) : Result :=
  vectorOp s (.vsrlVG d a b m) (scalarPush (.int .srl d a .scalar) m d a b intFormats)

/-- VSRA.vv. -/
def execVsraVV (d a b : BitVec 7) (m : Bool) (s : State) : Result :=
  vectorOp s (.vsraVV d a b m) (groupsPush (.int .sra d a (.vec b)) m d a b intFormats)

/-- VSRA.vg. -/
def execVsraVG (d a : BitVec 7) (b : Src) (m : Bool) (s : State) : Result :=
  vectorOp s (.vsraVG d a b m) (scalarPush (.int .sra d a .scalar) m d a b intFormats)

/-- VMIN.vv. -/
def execVminVV (d a b : BitVec 7) (m : Bool) (s : State) : Result :=
  vectorOp s (.vminVV d a b m) (groupsPush (.int .min d a (.vec b)) m d a b intFormats)

/-- VMIN.vg. -/
def execVminVG (d a : BitVec 7) (b : Src) (m : Bool) (s : State) : Result :=
  vectorOp s (.vminVG d a b m) (scalarPush (.int .min d a .scalar) m d a b intFormats)

/-- VMAX.vv. -/
def execVmaxVV (d a b : BitVec 7) (m : Bool) (s : State) : Result :=
  vectorOp s (.vmaxVV d a b m) (groupsPush (.int .max d a (.vec b)) m d a b intFormats)

/-- VMAX.vg. -/
def execVmaxVG (d a : BitVec 7) (b : Src) (m : Bool) (s : State) : Result :=
  vectorOp s (.vmaxVG d a b m) (scalarPush (.int .max d a .scalar) m d a b intFormats)

/-- VMINN.vv. -/
def execVminnVV (d a b : BitVec 7) (m : Bool) (s : State) : Result :=
  vectorOp s (.vminnVV d a b m) (groupsPush (.int .minn d a (.vec b)) m d a b intFormats)

/-- VMINN.vg. -/
def execVminnVG (d a : BitVec 7) (b : Src) (m : Bool) (s : State) : Result :=
  vectorOp s (.vminnVG d a b m) (scalarPush (.int .minn d a .scalar) m d a b intFormats)

/-- VMAXN.vv. -/
def execVmaxnVV (d a b : BitVec 7) (m : Bool) (s : State) : Result :=
  vectorOp s (.vmaxnVV d a b m) (groupsPush (.int .maxn d a (.vec b)) m d a b intFormats)

/-- VMAXN.vg. -/
def execVmaxnVG (d a : BitVec 7) (b : Src) (m : Bool) (s : State) : Result :=
  vectorOp s (.vmaxnVG d a b m) (scalarPush (.int .maxn d a .scalar) m d a b intFormats)

/-- VSADD.vv. -/
def execVsaddVV (d a b : BitVec 7) (m : Bool) (s : State) : Result :=
  vectorOp s (.vsaddVV d a b m) (groupsPush (.int .sadd d a (.vec b)) m d a b intFormats)

/-- VSADD.vg. -/
def execVsaddVG (d a : BitVec 7) (b : Src) (m : Bool) (s : State) : Result :=
  vectorOp s (.vsaddVG d a b m) (scalarPush (.int .sadd d a .scalar) m d a b intFormats)

/-- VSSUB.vv. -/
def execVssubVV (d a b : BitVec 7) (m : Bool) (s : State) : Result :=
  vectorOp s (.vssubVV d a b m) (groupsPush (.int .ssub d a (.vec b)) m d a b intFormats)

/-- VSSUB.vg. -/
def execVssubVG (d a : BitVec 7) (b : Src) (m : Bool) (s : State) : Result :=
  vectorOp s (.vssubVG d a b m) (scalarPush (.int .ssub d a .scalar) m d a b intFormats)

/-- VSEQ.vv: a mask. -/
def execVseqVV (d a b : BitVec 7) (m : Bool) (s : State) : Result :=
  vectorOp s (.vseqVV d a b m) (groupsMaskPush (.intCmp .eq d a (.vec b)) m a b anyFormats)

/-- VSEQ.vg: a mask. -/
def execVseqVG (d a : BitVec 7) (b : Src) (m : Bool) (s : State) : Result :=
  vectorOp s (.vseqVG d a b m) (scalarMaskPush (.intCmp .eq d a .scalar) m a b anyFormats)

/-- VSNE.vv: a mask. -/
def execVsneVV (d a b : BitVec 7) (m : Bool) (s : State) : Result :=
  vectorOp s (.vsneVV d a b m) (groupsMaskPush (.intCmp .ne d a (.vec b)) m a b anyFormats)

/-- VSNE.vg: a mask. -/
def execVsneVG (d a : BitVec 7) (b : Src) (m : Bool) (s : State) : Result :=
  vectorOp s (.vsneVG d a b m) (scalarMaskPush (.intCmp .ne d a .scalar) m a b anyFormats)

/-- VSLT.vv: a mask. -/
def execVsltVV (d a b : BitVec 7) (m : Bool) (s : State) : Result :=
  vectorOp s (.vsltVV d a b m) (groupsMaskPush (.intCmp .lt d a (.vec b)) m a b intFormats)

/-- VSLT.vg: a mask. -/
def execVsltVG (d a : BitVec 7) (b : Src) (m : Bool) (s : State) : Result :=
  vectorOp s (.vsltVG d a b m) (scalarMaskPush (.intCmp .lt d a .scalar) m a b intFormats)

/-- VSLTN.vv: a mask. -/
def execVsltnVV (d a b : BitVec 7) (m : Bool) (s : State) : Result :=
  vectorOp s (.vsltnVV d a b m) (groupsMaskPush (.intCmp .ltn d a (.vec b)) m a b intFormats)

/-- VSLTN.vg: a mask. -/
def execVsltnVG (d a : BitVec 7) (b : Src) (m : Bool) (s : State) : Result :=
  vectorOp s (.vsltnVG d a b m) (scalarMaskPush (.intCmp .ltn d a .scalar) m a b intFormats)

/-- VMERGE.vv. -/
def execVmergeVV (d a b : BitVec 7) (m : Bool) (s : State) : Result :=
  vectorOp s (.vmergeVV d a b m) (groupsPush (.merge d a (.vec b)) m d a b anyFormats)

/-- VMERGE.vg. -/
def execVmergeVG (d a : BitVec 7) (b : Src) (m : Bool) (s : State) : Result :=
  vectorOp s (.vmergeVG d a b m) (scalarPush (.merge d a .scalar) m d a b anyFormats)

/-- VMV.vv. -/
def execVmvVV (d b : BitVec 7) (m : Bool) (s : State) : Result :=
  vectorOp s (.vmvVV d b m) (unaryPush (.move d (.vec b) false) m d b anyFormats)

/-- VMV.vg. -/
def execVmvVG (d : BitVec 7) (b : Src) (m : Bool) (s : State) : Result :=
  vectorOp s (.vmvVG d b m) (scalarPush (.move d .scalar false) m d d b anyFormats)

/-- VMV.vv with the mask inverted (R69, R131). -/
def execVmvVVInverted (d b : BitVec 7) (s : State) : Result :=
  vectorOp s (.vmvVVInverted d b) (unaryPush (.move d (.vec b) true) true d b anyFormats)

/-- VMV.vg with the mask inverted (R69, R131). -/
def execVmvVGInverted (d : BitVec 7) (b : Src) (s : State) : Result :=
  vectorOp s (.vmvVGInverted d b) (scalarPush (.move d .scalar true) true d d b anyFormats)

end Sys2Proof.Machine
end

