-- ==== Sys2Proof/Machine/VectorLoads.lean ====
section
/-! DEFINITION. Major VMEM (R146 to R165) and the moves between accumulator rows and vector groups (R191). -/

namespace Sys2Proof.Machine

/-- VLD (R154). -/
def execVld (d a : BitVec 7) (m : Bool) (s : State) : Result := vectorOp s (.vld d a m) (memPush .ld m d a 0 none)

/-- VLDS (R154). -/
def execVlds (d a : BitVec 7) (b : Src) (m : Bool) (s : State) : Result := vectorOp s (.vlds d a b m) (memPush .lds m d a 0 (some b))

/-- VLDX (R154). -/
def execVldx (d a b : BitVec 7) (m : Bool) (s : State) : Result := vectorOp s (.vldx d a b m) (memPush .ldx m d a b none)

/-- VST (R154). -/
def execVst (d a : BitVec 7) (m : Bool) (s : State) : Result := vectorOp s (.vst d a m) (memPush .st m d a 0 none)

/-- VSTS (R154). -/
def execVsts (d a : BitVec 7) (b : Src) (m : Bool) (s : State) : Result := vectorOp s (.vsts d a b m) (memPush .sts m d a 0 (some b))

/-- VSTX (R154). -/
def execVstx (d a b : BitVec 7) (m : Bool) (s : State) : Result := vectorOp s (.vstx d a b m) (memPush .stx m d a b none)

/-- VLDFF (R155). -/
def execVldff (d a : BitVec 7) (m : Bool) (s : State) : Result := vectorOp s (.vldff d a m) (memPush .ldff m d a 0 none)

/-- VLDNR (R156). -/
def execVldnr (d a : BitVec 7) (m : Bool) (s : State) : Result := vectorOp s (.vldnr d a m) (memPush .ldnr m d a 0 none)

/-- VLDFE (R159). -/
def execVldfe (d a : BitVec 7) (m : Bool) (s : State) : Result := vectorOp s (.vldfe d a m) (memPush .ldfe m d a 0 none)

/-- VLDFEC (R159). -/
def execVldfec (d a : BitVec 7) (m : Bool) (s : State) : Result := vectorOp s (.vldfec d a m) (memPush .ldfec m d a 0 none)

/-- VGL (R160). -/
def execVgl (d a b : BitVec 7) (m : Bool) (s : State) : Result := vectorOp s (.vgl d a b m) (memPush .gl m d a b none)

/-- VSC (R162). -/
def execVsc (d a b : BitVec 7) (m : Bool) (s : State) : Result := vectorOp s (.vsc d a b m) (memPush .sc m d a b none)

/-- VLDT (R164). -/
def execVldt (d a : BitVec 7) (b : Src) (m : Bool) (s : State) : Result := vectorOp s (.vldt d a b m) (memPush .ldt m d a 0 (some b))

/-- VPF (R165). -/
def execVpf (a : BitVec 7) (m : Bool) (s : State) : Result := vectorOp s (.vpf a m) (memPush .pf m 0 a 0 none)

/-! ### Accumulator moves (R191) -/

/-- The limits of an accumulator move at push. -/
def movePush (op : VOp) (f : BitVec 7) (b : Src) (t : Thread) : Push :=
  { op := op, masked := false, reads := b.reads, scalar := t.src b, scalar2 := 0, slots := b.slots,
    faults := formats t.vtype [0, 1, 2] ++ subIf (vtSew t.vtype != 32) 0x05 ++ narrow t.vtype f ++
      subIf (127 < (t.src b).toNat || 512 < t.vl.toNat) 0x13 }

/-- An accumulator move: the front end checks it and then the ownership of its tile (R28, R168). -/
def moveOp (s : State) (i : Instr) (z : BitVec 1) (f : Thread → Push) : Result :=
  onThread s fun t =>
    if (lowest (f t).faults).isNone && !ownsTile s t z then scalarTrap s t (mkFault 0x0A 0 0 accLoad) else pushVector s t i f

/-- MATV (R191). -/
def execMatv (d a : BitVec 7) (b : Src) (s : State) : Result :=
  moveOp s (.matv d a b) (a.extractLsb' 0 1) (movePush (.matv d (a.extractLsb' 0 1)) d b)

/-- MVTA (R191). -/
def execMvta (d a : BitVec 7) (b : Src) (s : State) : Result :=
  moveOp s (.mvta d a b) (d.extractLsb' 0 1) (movePush (.mvta (d.extractLsb' 0 1) a) a b)

end Sys2Proof.Machine
end

