-- ==== Sys2Proof/Machine/VectorMisc.lean ====
section
/-! DEFINITION. Major VMISC: blocks and the Hadamard chain, permutations, reductions, segments, selection, masks (R137 to R145). -/

namespace Sys2Proof.Machine

/-! ### Blocks and the Hadamard chain (R137 to R140) -/

/-- The group size that VCVTB accepts (R137). -/
def blockGroup (vt : BitVec 14) : List (BitVec 8) := subIf (2 < vtGroup vt) 0x05

/-- Blocks that do not fit the bytes that the grant reaches (R137). -/
def blockRoom (t : Thread) (code : Byte) : List (BitVec 8) :=
  subIf (t.grant.toNat * 128 * vtGroup t.vtype < blockCount t.vl.toNat code * 64) 0x13

/-- VCVTB (R137). -/
def execVcvtb (d a : BitVec 7) (m : Bool) (s : State) : Result :=
  vectorOp s (.vcvtb d a m) fun t =>
    { op := .toBlocks d a, masked := m, reads := [], scalar := 0, scalar2 := 0, slots := 1,
      faults := formats t.vtype [0, 1, 5, 6] ++ subIf (vtSew t.vtype != 8) 0x05 ++ blockGroup t.vtype ++ narrow t.vtype d ++
        wide t.vtype a ++ blockRoom t (targetCode (vtFmt t.vtype)) }

/-- VCVTX (R138): widening into a wide group, or decoding a block stream. -/
def execVcvtx (d a : BitVec 7) (m : Bool) (s : State) : Result :=
  vectorOp s (.vcvtx d a m) fun t =>
    { op := .widen d a, masked := m, reads := [], scalar := 0, scalar2 := 0, slots := 1,
      faults := formats t.vtype [2, 3, 4, 5, 6] ++ wide t.vtype d ++ narrow t.vtype a }

/-- The limits of a Hadamard distance (R139). -/
def distanceFault (h vl : Nat) : List (BitVec 8) :=
  subIf (!((List.range 16).any fun k => h = 2 ^ k) || vl % (2 * h) != 0) 0x13

/-- VBFLY (R139). -/
def execVbfly (d a : BitVec 7) (b : Src) (m : Bool) (s : State) : Result :=
  vectorOp s (.vbfly d a b m) fun t =>
    { op := .butterfly d a, masked := m, reads := b.reads, scalar := t.src b, scalar2 := 0, slots := b.slots,
      faults := formats t.vtype lawFormats ++ narrow t.vtype d ++ narrow t.vtype a ++
        distanceFault (field (t.src b) 0 16) t.vl.toNat ++ subIf (field (t.src b) 16 48 != 0) 0x13 }

/-- What a VBFLYC with its VCVTBC pushes (R140), and the subcauses that apply to it. -/
def fusedPush (a : BitVec 7) (b : Src) (pair : Option (BitVec 7 × Bool)) (t : Thread) : Push :=
  let y := t.src b
  let code := field y 16 3
  let d := match pair with
    | some p => p.1
    | none => 0
  let m := match pair with
    | some p => p.2
    | none => false
  { op := .chain a d m, masked := m, reads := b.reads, scalar := y, scalar2 := 0, slots := b.slots + 1,
    faults := subIf pair.isNone 0x14 ++ formats t.vtype [2] ++ narrow t.vtype d ++ narrow t.vtype a ++
      distanceFault (field y 0 16) t.vl.toNat ++ subIf (code = 0 || 4 < code || field y 19 45 != 0) 0x13 ++
      (if code = 0 then [] else blockRoom t (BitVec.ofNat 8 code)) }

/-- VBFLYC with its VCVTBC as one instruction (R140); without one it is a broken pair. -/
def execVbflyc (a : BitVec 7) (b : Src) (pair : Option (BitVec 7 × Bool)) (s : State) : Result :=
  vectorOp s (.vbflyc a b pair) (fusedPush a b pair)

/-- The subcauses that apply to a VCVTBC without its VBFLYC: the broken pair, its format and its group (R63, R140). -/
def unpairedFaults (vt : BitVec 14) (d : BitVec 7) : List (BitVec 8) := 0x14 :: formats vt [2] ++ narrow vt d

/-- A VCVTBC that does not follow its VBFLYC (R140): subcause 0x14, or a lower one that holds as well (R63). -/
def execUnpairedVcvtbc (d : BitVec 7) (_m : Bool) (s : State) : Result :=
  scalarOp s [] fun t => illegal s t ((lowest (unpairedFaults t.vtype d)).getD 0x14)

/-! ### Permutations (R141) -/

/-- VPERM (R141). -/
def execVperm (d a b : BitVec 7) (m : Bool) (s : State) : Result :=
  vectorOp s (.vperm d a b m) (groupsPush (.perm .perm d a b) m d a b anyFormats)

/-- VSLUP (R141). -/
def execVslup (d a : BitVec 7) (b : Src) (m : Bool) (s : State) : Result :=
  vectorOp s (.vslup d a b m) (scalarPush (.perm .slup d a 0) m d a b anyFormats)

/-- VSLDN (R141). -/
def execVsldn (d a : BitVec 7) (b : Src) (m : Bool) (s : State) : Result :=
  vectorOp s (.vsldn d a b m) (scalarPush (.perm .sldn d a 0) m d a b anyFormats)

/-- VCOMP (R141). -/
def execVcomp (d a : BitVec 7) (m : Bool) (s : State) : Result :=
  vectorOp s (.vcomp d a m) (unaryPush (.perm .comp d a 0) m d a anyFormats)

/-- VEXPD (R141). -/
def execVexpd (d a : BitVec 7) (m : Bool) (s : State) : Result :=
  vectorOp s (.vexpd d a m) (unaryPush (.perm .expd d a 0) m d a anyFormats)

/-- VIOTA (R141). -/
def execViota (d a : BitVec 7) (m : Bool) (s : State) : Result :=
  vectorOp s (.viota d a m) (onePush (.perm .iota d a 0) m d anyFormats)

/-- VID (R141). -/
def execVid (d : BitVec 7) (m : Bool) (s : State) : Result :=
  vectorOp s (.vid d m) (onePush (.perm .id d 0 0) m d anyFormats)

/-! ### Reductions and segments (R142, R143) -/

/-- VREDSUM (R142). -/
def execVredsum (d a : BitVec 7) (m : Bool) (s : State) : Result :=
  vectorOp s (.vredsum d a m) (unaryPush (.reduce .sum d a) m d a intFormats)

/-- VREDMAX (R142). -/
def execVredmax (d a : BitVec 7) (m : Bool) (s : State) : Result :=
  vectorOp s (.vredmax d a m) (unaryPush (.reduce .max d a) m d a intFormats)

/-- VREDMIN (R142). -/
def execVredmin (d a : BitVec 7) (m : Bool) (s : State) : Result :=
  vectorOp s (.vredmin d a m) (unaryPush (.reduce .min d a) m d a intFormats)

/-- VFREDSUM (R142). -/
def execVfredsum (d a : BitVec 7) (m : Bool) (s : State) : Result :=
  vectorOp s (.vfredsum d a m) (unaryPush (.reduce .fsum d a) m d a fpFormats)

/-- VFREDMAX (R142). -/
def execVfredmax (d a : BitVec 7) (m : Bool) (s : State) : Result :=
  vectorOp s (.vfredmax d a m) (unaryPush (.reduce .fmax d a) m d a fpFormats)

/-- VSEGSUM (R143). -/
def execVsegsum (d a b : BitVec 7) (m : Bool) (s : State) : Result :=
  vectorOp s (.vsegsum d a b m) (unaryPush (.segment false d a b) m d a lawFormats)

/-- VSEGSCAN (R143). -/
def execVsegscan (d a b : BitVec 7) (m : Bool) (s : State) : Result :=
  vectorOp s (.vsegscan d a b m) (unaryPush (.segment true d a b) m d a lawFormats)

/-! ### Selection (R144) -/

/-- A field that names a register pair of VCSWI. -/
def pairFault (vt : BitVec 14) (f : BitVec 7) : List (BitVec 8) :=
  subIf (128 < f.toNat + 2 * vtGroup vt) 0x04 ++ subIf (f.toNat % vtGroup vt != 0) 0x07

/-- VCSWI (R144). -/
def execVcswi (d a b : BitVec 7) (m : Bool) (s : State) : Result :=
  vectorOp s (.vcswi d a b m) fun t =>
    { op := .swap d a b, masked := m, reads := [], scalar := 0, scalar2 := 0, slots := 1,
      faults := formats t.vtype lawFormats ++ pairFault t.vtype d ++ pairFault t.vtype a ++ pairFault t.vtype b ++
        subIf (overlap d.toNat (2 * vtGroup t.vtype) b.toNat (2 * vtGroup t.vtype)) 0x15 }

/-! ### Masks (R145) -/

/-- MAND (R145). -/
def execMand (d a b : BitVec 7) (s : State) : Result := vectorOp s (.mand d a b) (maskPush (.maskLogic .and d a b))

/-- MOR (R145). -/
def execMor (d a b : BitVec 7) (s : State) : Result := vectorOp s (.mor d a b) (maskPush (.maskLogic .or d a b))

/-- MXOR (R145). -/
def execMxor (d a b : BitVec 7) (s : State) : Result := vectorOp s (.mxor d a b) (maskPush (.maskLogic .xor d a b))

/-- MANDN (R145). -/
def execMandn (d a b : BitVec 7) (s : State) : Result := vectorOp s (.mandn d a b) (maskPush (.maskLogic .andn d a b))

/-- MNOT (R145). -/
def execMnot (d a : BitVec 7) (s : State) : Result := vectorOp s (.mnot d a) (maskPush (.maskLogic .not d a a))

/-- MTOV (R145). -/
def execMtov (d a : BitVec 7) (m : Bool) (s : State) : Result :=
  vectorOp s (.mtov d a m) (onePush (.maskToVec d a) m d intFormats)

/-- MFRV (R145). -/
def execMfrv (d a : BitVec 7) (m : Bool) (s : State) : Result :=
  vectorOp s (.mfrv d a m) (onePush (.vecToMask d a) m a anyFormats)

/-- MPOPC (R145): the scalar stream waits until it commits (R19). -/
def execMpopc (d a : BitVec 7) (s : State) : Result := vectorOp s (.mpopc d a) (maskPush (.count false d a))

/-- MFIRST (R145): the scalar stream waits until it commits (R19). -/
def execMfirst (d a : BitVec 7) (s : State) : Result := vectorOp s (.mfirst d a) (maskPush (.count true d a))

end Sys2Proof.Machine
end

