-- ==== Sys2Proof/Machine/Dispatch.lean ====
section
/-! DEFINITION. The meaning of each instruction and event, one arm per constructor. -/

namespace Sys2Proof.Machine

def exec (i : Instr) (s : State) : Host.Outcome State Fault Refusal :=
  match i with
  | .nop => Sys2Proof.Machine.execNop s
  | .exit => Sys2Proof.Machine.execExit s
  | .trap n => Sys2Proof.Machine.execTrap n s
  | .ecall => Sys2Proof.Machine.execEcall s
  | .brk => Sys2Proof.Machine.execBrk s
  | .eret => Sys2Proof.Machine.execEret s
  | .fence kinds scope => Sys2Proof.Machine.execFence kinds scope s
  | .fencesv kind => Sys2Proof.Machine.execFencesv kind s
  | .barc => Sys2Proof.Machine.execBarc s
  | .barg => Sys2Proof.Machine.execBarg s
  | .bara a => Sys2Proof.Machine.execBara a s
  | .barw a b => Sys2Proof.Machine.execBarw a b s
  | .yield => Sys2Proof.Machine.execYield s
  | .pause => Sys2Proof.Machine.execPause s
  | .kill a => Sys2Proof.Machine.execKill a s
  | .pubwm d a => Sys2Proof.Machine.execPubwm d a s
  | .waitwm d a => Sys2Proof.Machine.execWaitwm d a s
  | .asw a => Sys2Proof.Machine.execAsw a s
  | .tlbi a b => Sys2Proof.Machine.execTlbi a b s
  | .idle => Sys2Proof.Machine.execIdle s
  | .cyc d => Sys2Proof.Machine.execCyc d s
  | .tid d => Sys2Proof.Machine.execTid d s
  | .hint n d a b => Sys2Proof.Machine.execHint n d a b s
  | .add d a b => Sys2Proof.Machine.execAdd d a b s
  | .sub d a b => Sys2Proof.Machine.execSub d a b s
  | .and d a b => Sys2Proof.Machine.execAnd d a b s
  | .or d a b => Sys2Proof.Machine.execOr d a b s
  | .xor d a b => Sys2Proof.Machine.execXor d a b s
  | .andn d a b => Sys2Proof.Machine.execAndn d a b s
  | .orn d a b => Sys2Proof.Machine.execOrn d a b s
  | .sll d a b => Sys2Proof.Machine.execSll d a b s
  | .srl d a b => Sys2Proof.Machine.execSrl d a b s
  | .sra d a b => Sys2Proof.Machine.execSra d a b s
  | .ror d a b => Sys2Proof.Machine.execRor d a b s
  | .mul d a b => Sys2Proof.Machine.execMul d a b s
  | .mulh d a b => Sys2Proof.Machine.execMulh d a b s
  | .mulhn d a b => Sys2Proof.Machine.execMulhn d a b s
  | .div d a b => Sys2Proof.Machine.execDiv d a b s
  | .divn d a b => Sys2Proof.Machine.execDivn d a b s
  | .rem d a b => Sys2Proof.Machine.execRem d a b s
  | .remn d a b => Sys2Proof.Machine.execRemn d a b s
  | .min d a b => Sys2Proof.Machine.execMin d a b s
  | .max d a b => Sys2Proof.Machine.execMax d a b s
  | .minn d a b => Sys2Proof.Machine.execMinn d a b s
  | .maxn d a b => Sys2Proof.Machine.execMaxn d a b s
  | .slt d a b => Sys2Proof.Machine.execSlt d a b s
  | .sltn d a b => Sys2Proof.Machine.execSltn d a b s
  | .seq d a b => Sys2Proof.Machine.execSeq d a b s
  | .sne d a b => Sys2Proof.Machine.execSne d a b s
  | .clz d a => Sys2Proof.Machine.execClz d a s
  | .ctz d a => Sys2Proof.Machine.execCtz d a s
  | .popc d a => Sys2Proof.Machine.execPopc d a s
  | .bfx d a b => Sys2Proof.Machine.execBfx d a b s
  | .bfi d a b => Sys2Proof.Machine.execBfi d a b s
  | .addi d a imm => Sys2Proof.Machine.execAddi d a imm s
  | .andi d a imm => Sys2Proof.Machine.execAndi d a imm s
  | .ori d a imm => Sys2Proof.Machine.execOri d a imm s
  | .xori d a imm => Sys2Proof.Machine.execXori d a imm s
  | .slli d a imm => Sys2Proof.Machine.execSlli d a imm s
  | .srli d a imm => Sys2Proof.Machine.execSrli d a imm s
  | .srai d a imm => Sys2Proof.Machine.execSrai d a imm s
  | .slti d a imm => Sys2Proof.Machine.execSlti d a imm s
  | .lih d imm => Sys2Proof.Machine.execLih d imm s
  | .addpc d imm => Sys2Proof.Machine.execAddpc d imm s
  | .beq a b off => Sys2Proof.Machine.execBeq a b off s
  | .bne a b off => Sys2Proof.Machine.execBne a b off s
  | .blt a b off => Sys2Proof.Machine.execBlt a b off s
  | .bge a b off => Sys2Proof.Machine.execBge a b off s
  | .bltn a b off => Sys2Proof.Machine.execBltn a b off s
  | .bgen a b off => Sys2Proof.Machine.execBgen a b off s
  | .bbs a n off => Sys2Proof.Machine.execBbs a n off s
  | .bbc a n off => Sys2Proof.Machine.execBbc a n off s
  | .jal d off => Sys2Proof.Machine.execJal d off s
  | .jalr d a => Sys2Proof.Machine.execJalr d a s
  | .ldd d a imm => Sys2Proof.Machine.execLdd d a imm s
  | .ldw d a imm => Sys2Proof.Machine.execLdw d a imm s
  | .ldh d a imm => Sys2Proof.Machine.execLdh d a imm s
  | .ldb d a imm => Sys2Proof.Machine.execLdb d a imm s
  | .std d a imm => Sys2Proof.Machine.execStd d a imm s
  | .stw d a imm => Sys2Proof.Machine.execStw d a imm s
  | .sth d a imm => Sys2Proof.Machine.execSth d a imm s
  | .stb d a imm => Sys2Proof.Machine.execStb d a imm s
  | .amoadd d a b o dev => Sys2Proof.Machine.execAmoadd d a b o dev s
  | .amoswp d a b o dev => Sys2Proof.Machine.execAmoswp d a b o dev s
  | .amocas d a b o dev => Sys2Proof.Machine.execAmocas d a b o dev s
  | .amoand d a b o dev => Sys2Proof.Machine.execAmoand d a b o dev s
  | .amoor d a b o dev => Sys2Proof.Machine.execAmoor d a b o dev s
  | .amoxor d a b o dev => Sys2Proof.Machine.execAmoxor d a b o dev s
  | .amomin d a b o dev => Sys2Proof.Machine.execAmomin d a b o dev s
  | .amomax d a b o dev => Sys2Proof.Machine.execAmomax d a b o dev s
  | .setvl d a b => Sys2Proof.Machine.execSetvl d a b s
  | .setvlmax d b => Sys2Proof.Machine.execSetvlmax d b s
  | .csrr d csr => Sys2Proof.Machine.execCsrr d csr s
  | .csrw csr b => Sys2Proof.Machine.execCsrw csr b s
  | .csrs csr b => Sys2Proof.Machine.execCsrs csr b s
  | .csrc csr b => Sys2Proof.Machine.execCsrc csr b s
  | .winsg b => Sys2Proof.Machine.execWinsg b s
  | .winsv b => Sys2Proof.Machine.execWinsv b s
  | .lat d a => Sys2Proof.Machine.execLat d a s
  | .vaddVV d a b m => Sys2Proof.Machine.execVaddVV d a b m s
  | .vaddVG d a b m => Sys2Proof.Machine.execVaddVG d a b m s
  | .vsubVV d a b m => Sys2Proof.Machine.execVsubVV d a b m s
  | .vsubVG d a b m => Sys2Proof.Machine.execVsubVG d a b m s
  | .vmulVV d a b m => Sys2Proof.Machine.execVmulVV d a b m s
  | .vmulVG d a b m => Sys2Proof.Machine.execVmulVG d a b m s
  | .vmulhVV d a b m => Sys2Proof.Machine.execVmulhVV d a b m s
  | .vmulhVG d a b m => Sys2Proof.Machine.execVmulhVG d a b m s
  | .vmaccVV d a b m => Sys2Proof.Machine.execVmaccVV d a b m s
  | .vmaccVG d a b m => Sys2Proof.Machine.execVmaccVG d a b m s
  | .vandVV d a b m => Sys2Proof.Machine.execVandVV d a b m s
  | .vandVG d a b m => Sys2Proof.Machine.execVandVG d a b m s
  | .vorVV d a b m => Sys2Proof.Machine.execVorVV d a b m s
  | .vorVG d a b m => Sys2Proof.Machine.execVorVG d a b m s
  | .vxorVV d a b m => Sys2Proof.Machine.execVxorVV d a b m s
  | .vxorVG d a b m => Sys2Proof.Machine.execVxorVG d a b m s
  | .vsllVV d a b m => Sys2Proof.Machine.execVsllVV d a b m s
  | .vsllVG d a b m => Sys2Proof.Machine.execVsllVG d a b m s
  | .vsrlVV d a b m => Sys2Proof.Machine.execVsrlVV d a b m s
  | .vsrlVG d a b m => Sys2Proof.Machine.execVsrlVG d a b m s
  | .vsraVV d a b m => Sys2Proof.Machine.execVsraVV d a b m s
  | .vsraVG d a b m => Sys2Proof.Machine.execVsraVG d a b m s
  | .vminVV d a b m => Sys2Proof.Machine.execVminVV d a b m s
  | .vminVG d a b m => Sys2Proof.Machine.execVminVG d a b m s
  | .vmaxVV d a b m => Sys2Proof.Machine.execVmaxVV d a b m s
  | .vmaxVG d a b m => Sys2Proof.Machine.execVmaxVG d a b m s
  | .vminnVV d a b m => Sys2Proof.Machine.execVminnVV d a b m s
  | .vminnVG d a b m => Sys2Proof.Machine.execVminnVG d a b m s
  | .vmaxnVV d a b m => Sys2Proof.Machine.execVmaxnVV d a b m s
  | .vmaxnVG d a b m => Sys2Proof.Machine.execVmaxnVG d a b m s
  | .vsaddVV d a b m => Sys2Proof.Machine.execVsaddVV d a b m s
  | .vsaddVG d a b m => Sys2Proof.Machine.execVsaddVG d a b m s
  | .vssubVV d a b m => Sys2Proof.Machine.execVssubVV d a b m s
  | .vssubVG d a b m => Sys2Proof.Machine.execVssubVG d a b m s
  | .vseqVV d a b m => Sys2Proof.Machine.execVseqVV d a b m s
  | .vseqVG d a b m => Sys2Proof.Machine.execVseqVG d a b m s
  | .vsneVV d a b m => Sys2Proof.Machine.execVsneVV d a b m s
  | .vsneVG d a b m => Sys2Proof.Machine.execVsneVG d a b m s
  | .vsltVV d a b m => Sys2Proof.Machine.execVsltVV d a b m s
  | .vsltVG d a b m => Sys2Proof.Machine.execVsltVG d a b m s
  | .vsltnVV d a b m => Sys2Proof.Machine.execVsltnVV d a b m s
  | .vsltnVG d a b m => Sys2Proof.Machine.execVsltnVG d a b m s
  | .vmergeVV d a b m => Sys2Proof.Machine.execVmergeVV d a b m s
  | .vmergeVG d a b m => Sys2Proof.Machine.execVmergeVG d a b m s
  | .vmvVV d b m => Sys2Proof.Machine.execVmvVV d b m s
  | .vmvVG d b m => Sys2Proof.Machine.execVmvVG d b m s
  | .vmvVVInverted d b => Sys2Proof.Machine.execVmvVVInverted d b s
  | .vmvVGInverted d b => Sys2Proof.Machine.execVmvVGInverted d b s
  | .vfaddVV d a b m => Sys2Proof.Machine.execVfaddVV d a b m s
  | .vfaddVG d a b m => Sys2Proof.Machine.execVfaddVG d a b m s
  | .vfsubVV d a b m => Sys2Proof.Machine.execVfsubVV d a b m s
  | .vfsubVG d a b m => Sys2Proof.Machine.execVfsubVG d a b m s
  | .vfmulVV d a b m => Sys2Proof.Machine.execVfmulVV d a b m s
  | .vfmulVG d a b m => Sys2Proof.Machine.execVfmulVG d a b m s
  | .vfmaVV d a b m => Sys2Proof.Machine.execVfmaVV d a b m s
  | .vfmaVG d a b m => Sys2Proof.Machine.execVfmaVG d a b m s
  | .vfnmsVV d a b m => Sys2Proof.Machine.execVfnmsVV d a b m s
  | .vfnmsVG d a b m => Sys2Proof.Machine.execVfnmsVG d a b m s
  | .vfminVV d a b m => Sys2Proof.Machine.execVfminVV d a b m s
  | .vfminVG d a b m => Sys2Proof.Machine.execVfminVG d a b m s
  | .vfmaxVV d a b m => Sys2Proof.Machine.execVfmaxVV d a b m s
  | .vfmaxVG d a b m => Sys2Proof.Machine.execVfmaxVG d a b m s
  | .vfdivVV d a b m => Sys2Proof.Machine.execVfdivVV d a b m s
  | .vfdivVG d a b m => Sys2Proof.Machine.execVfdivVG d a b m s
  | .vfsqrt d a m => Sys2Proof.Machine.execVfsqrt d a m s
  | .vfrsqrte d a m => Sys2Proof.Machine.execVfrsqrte d a m s
  | .vfrece d a m => Sys2Proof.Machine.execVfrece d a m s
  | .vfsgnjVV d a b m => Sys2Proof.Machine.execVfsgnjVV d a b m s
  | .vfsgnjVG d a b m => Sys2Proof.Machine.execVfsgnjVG d a b m s
  | .vfsgnnVV d a b m => Sys2Proof.Machine.execVfsgnnVV d a b m s
  | .vfsgnnVG d a b m => Sys2Proof.Machine.execVfsgnnVG d a b m s
  | .vfsgnxVV d a b m => Sys2Proof.Machine.execVfsgnxVV d a b m s
  | .vfsgnxVG d a b m => Sys2Proof.Machine.execVfsgnxVG d a b m s
  | .vfeqVV d a b m => Sys2Proof.Machine.execVfeqVV d a b m s
  | .vfeqVG d a b m => Sys2Proof.Machine.execVfeqVG d a b m s
  | .vfltVV d a b m => Sys2Proof.Machine.execVfltVV d a b m s
  | .vfltVG d a b m => Sys2Proof.Machine.execVfltVG d a b m s
  | .vfleVV d a b m => Sys2Proof.Machine.execVfleVV d a b m s
  | .vfleVG d a b m => Sys2Proof.Machine.execVfleVG d a b m s
  | .vfclass d a m => Sys2Proof.Machine.execVfclass d a m s
  | .vfcvtif d a m => Sys2Proof.Machine.execVfcvtif d a m s
  | .vfcvtfi d a m => Sys2Proof.Machine.execVfcvtfi d a m s
  | .vfcvtw d a m => Sys2Proof.Machine.execVfcvtw d a m s
  | .vcvtb d a m => Sys2Proof.Machine.execVcvtb d a m s
  | .vcvtx d a m => Sys2Proof.Machine.execVcvtx d a m s
  | .vbfly d a b m => Sys2Proof.Machine.execVbfly d a b m s
  | .vbflyc a b pair => Sys2Proof.Machine.execVbflyc a b pair s
  | .vperm d a b m => Sys2Proof.Machine.execVperm d a b m s
  | .vslup d a b m => Sys2Proof.Machine.execVslup d a b m s
  | .vsldn d a b m => Sys2Proof.Machine.execVsldn d a b m s
  | .vcomp d a m => Sys2Proof.Machine.execVcomp d a m s
  | .vexpd d a m => Sys2Proof.Machine.execVexpd d a m s
  | .viota d a m => Sys2Proof.Machine.execViota d a m s
  | .vid d m => Sys2Proof.Machine.execVid d m s
  | .vredsum d a m => Sys2Proof.Machine.execVredsum d a m s
  | .vredmax d a m => Sys2Proof.Machine.execVredmax d a m s
  | .vredmin d a m => Sys2Proof.Machine.execVredmin d a m s
  | .vfredsum d a m => Sys2Proof.Machine.execVfredsum d a m s
  | .vfredmax d a m => Sys2Proof.Machine.execVfredmax d a m s
  | .vcswi d a b m => Sys2Proof.Machine.execVcswi d a b m s
  | .vsegsum d a b m => Sys2Proof.Machine.execVsegsum d a b m s
  | .vsegscan d a b m => Sys2Proof.Machine.execVsegscan d a b m s
  | .mand d a b => Sys2Proof.Machine.execMand d a b s
  | .mor d a b => Sys2Proof.Machine.execMor d a b s
  | .mxor d a b => Sys2Proof.Machine.execMxor d a b s
  | .mandn d a b => Sys2Proof.Machine.execMandn d a b s
  | .mnot d a => Sys2Proof.Machine.execMnot d a s
  | .mpopc d a => Sys2Proof.Machine.execMpopc d a s
  | .mfirst d a => Sys2Proof.Machine.execMfirst d a s
  | .mtov d a m => Sys2Proof.Machine.execMtov d a m s
  | .mfrv d a m => Sys2Proof.Machine.execMfrv d a m s
  | .vld d a m => Sys2Proof.Machine.execVld d a m s
  | .vlds d a b m => Sys2Proof.Machine.execVlds d a b m s
  | .vldx d a b m => Sys2Proof.Machine.execVldx d a b m s
  | .vst d a m => Sys2Proof.Machine.execVst d a m s
  | .vsts d a b m => Sys2Proof.Machine.execVsts d a b m s
  | .vstx d a b m => Sys2Proof.Machine.execVstx d a b m s
  | .vldff d a m => Sys2Proof.Machine.execVldff d a m s
  | .vldnr d a m => Sys2Proof.Machine.execVldnr d a m s
  | .vldfe d a m => Sys2Proof.Machine.execVldfe d a m s
  | .vldfec d a m => Sys2Proof.Machine.execVldfec d a m s
  | .vgl d a b m => Sys2Proof.Machine.execVgl d a b m s
  | .vsc d a b m => Sys2Proof.Machine.execVsc d a b m s
  | .vldt d a b m => Sys2Proof.Machine.execVldt d a b m s
  | .vpf a m => Sys2Proof.Machine.execVpf a m s
  | .thnew d a => Sys2Proof.Machine.execThnew d a s
  | .thfree a => Sys2Proof.Machine.execThfree a s
  | .thacqr a => Sys2Proof.Machine.execThacqr a s
  | .thacqw a => Sys2Proof.Machine.execThacqw a s
  | .threl a => Sys2Proof.Machine.execThrel a s
  | .thsplit d a b => Sys2Proof.Machine.execThsplit d a b s
  | .thinfo d a => Sys2Proof.Machine.execThinfo d a s
  | .macq d => Sys2Proof.Machine.execMacq d s
  | .mrelz d => Sys2Proof.Machine.execMrelz d s
  | .mzero d => Sys2Proof.Machine.execMzero d s
  | .mma d a b => Sys2Proof.Machine.execMma d a b s
  | .mmai d a b => Sys2Proof.Machine.execMmai d a b s
  | .mmag d a b => Sys2Proof.Machine.execMmag d a b s
  | .matv d a b => Sys2Proof.Machine.execMatv d a b s
  | .mvta d a b => Sys2Proof.Machine.execMvta d a b s
  | .mlda d a => Sys2Proof.Machine.execMlda d a s
  | .msta d a => Sys2Proof.Machine.execMsta d a s
  | .tagst d a b o => Sys2Proof.Machine.execTagst d a b o s
  | .tagld d a b o => Sys2Proof.Machine.execTagld d a b o s
  | .tcnt d a b o => Sys2Proof.Machine.execTcnt d a b o s
  | .tclr d a b o => Sys2Proof.Machine.execTclr d a b o s
  | .tfill d a b o => Sys2Proof.Machine.execTfill d a b o s
  | .tretag d a b o => Sys2Proof.Machine.execTretag d a b o s
  | .tinc d a b o => Sys2Proof.Machine.execTinc d a b o s
  | .tcomp d a b o => Sys2Proof.Machine.execTcomp d a b o s
  | .tsum d a b o => Sys2Proof.Machine.execTsum d a b o s
  | .rcopy d a b o => Sys2Proof.Machine.execRcopy d a b o s
  | .rcopys d a b o => Sys2Proof.Machine.execRcopys d a b o s
  | .rzero d a b o => Sys2Proof.Machine.execRzero d a b o s
  | .cpy d a b o => Sys2Proof.Machine.execCpy d a b o s
  | .vstrm d a b o => Sys2Proof.Machine.execVstrm d a b o s
  | .rhist d a b o => Sys2Proof.Machine.execRhist d a b o s
  | .rscan d a b o => Sys2Proof.Machine.execRscan d a b o s
  | .rsort d a b o => Sys2Proof.Machine.execRsort d a b o s
  | .rcomb d a b o => Sys2Proof.Machine.execRcomb d a b o s
  | .expq d b o => Sys2Proof.Machine.execExpq d b o s
  | .exppark d a b o => Sys2Proof.Machine.execExppark d a b o s
  | .exppoll d a b o => Sys2Proof.Machine.execExppoll d a b o s
  | .exprel d b o => Sys2Proof.Machine.execExprel d b o s
  | .pgreq d b o => Sys2Proof.Machine.execPgreq d b o s
  | .tlaunch d a b o => Sys2Proof.Machine.execTlaunch d a b o s
  | .engwait d a => Sys2Proof.Machine.execEngwait d a s
  | .engtest d a => Sys2Proof.Machine.execEngtest d a s
  | .commandAccept tid slot => Sys2Proof.Machine.execCommandAccept tid slot s
  | .commandCompletion tid slot => Sys2Proof.Machine.execCommandCompletion tid slot s
  | .accordPacket tid stack => Sys2Proof.Machine.execAccordPacket tid stack s
  | .matchAndAct tid row => Sys2Proof.Machine.execMatchAndAct tid row s
  | .requestPacket stack => Sys2Proof.Machine.execRequestPacket stack s
  | .readReply port reply => Sys2Proof.Machine.execReadReply port reply s
  | .tenureGrant tid => Sys2Proof.Machine.execTenureGrant tid s
  | .dispatchRound die => Sys2Proof.Machine.execDispatchRound die s
  | .pauseExpiry tid => Sys2Proof.Machine.execPauseExpiry tid s
  | .idleExpiry tid => Sys2Proof.Machine.execIdleExpiry tid s
  | .tqreplayReplay tenant sel => Sys2Proof.Machine.execTqreplayReplay tenant sel s
  | .tqreplayAnswer tenant sel => Sys2Proof.Machine.execTqreplayAnswer tenant sel s
  | .tqreplayDeliver tenant sel => Sys2Proof.Machine.execTqreplayDeliver tenant sel s
  | .tqreplayEnd tenant sel => Sys2Proof.Machine.execTqreplayEnd tenant sel s
  | .tqcfgWrite tenant value => Sys2Proof.Machine.execTqcfgWrite tenant value s
  | .tqptrHeadWrite tenant value => Sys2Proof.Machine.execTqptrHeadWrite tenant value s
  | .expertFetchDone tenant expert => Sys2Proof.Machine.execExpertFetchDone tenant expert s
  | .expertFetchFailure tenant expert => Sys2Proof.Machine.execExpertFetchFailure tenant expert s
  | .evictionEnd tenant expert => Sys2Proof.Machine.execEvictionEnd tenant expert s
  | .expdoneWrite tenant value => Sys2Proof.Machine.execExpdoneWrite tenant value s
  | .harptrHeadWrite tenant value => Sys2Proof.Machine.execHarptrHeadWrite tenant value s
  | .ertcfgWrite tenant value => Sys2Proof.Machine.execErtcfgWrite tenant value s
  | .exppoolWrite tenant value => Sys2Proof.Machine.execExppoolWrite tenant value s
  | .townctlAssign stack frame countM1 tenant => Sys2Proof.Machine.execTownctlAssign stack frame countM1 tenant s
  | .townctlRelease stack frame countM1 => Sys2Proof.Machine.execTownctlRelease stack frame countM1 s
  | .ownershipRowChange stack => Sys2Proof.Machine.execOwnershipRowChange stack s
  | .qcfgWrite queue value => Sys2Proof.Machine.execQcfgWrite queue value s
  | .qtailWrite queue value => Sys2Proof.Machine.execQtailWrite queue value s
  | .doorbell vf value width => Sys2Proof.Machine.execDoorbell vf value width s
  | .l2wqWrite die tenant value => Sys2Proof.Machine.execL2wqWrite die tenant value s
  | .dirqWrite die tenant value => Sys2Proof.Machine.execDirqWrite die tenant value s
  | .ctxpoolWrite die tenant value => Sys2Proof.Machine.execCtxpoolWrite die tenant value s
  | .lanedisWrite die core value => Sys2Proof.Machine.execLanedisWrite die core value s
  | .hdmbaseWrite die k value => Sys2Proof.Machine.execHdmbaseWrite die k value s
  | .hdmctlWrite die k value => Sys2Proof.Machine.execHdmctlWrite die k value s
  | .apbaseWrite k value => Sys2Proof.Machine.execApbaseWrite k value s
  | .apctlWrite k value => Sys2Proof.Machine.execApctlWrite k value s
  | .splitWrite tenant value => Sys2Proof.Machine.execSplitWrite tenant value s
  | .managementRegisterWrite die offset value => Sys2Proof.Machine.execManagementRegisterWrite die offset value s
  | .vfFunctionLevelReset tenant => Sys2Proof.Machine.execVfFunctionLevelReset tenant s
  | .bringUp => Sys2Proof.Machine.execBringUp s
  | .refresh stack bank row => Sys2Proof.Machine.execRefresh stack bank row s
  | .patrolScrub stack bank row => Sys2Proof.Machine.execPatrolScrub stack bank row s
  | .stackTemperatureHigh stack => Sys2Proof.Machine.execStackTemperatureHigh stack s
  | .activationCountBackOff stack bank row => Sys2Proof.Machine.execActivationCountBackOff stack bank row s
  | .criticalTemperature stack => Sys2Proof.Machine.execCriticalTemperature stack s
  | .selfRefreshExit stack => Sys2Proof.Machine.execSelfRefreshExit stack s
  | .islandClockLowering die island mhz => Sys2Proof.Machine.execIslandClockLowering die island mhz s
  | .dieTemperatureStop die => Sys2Proof.Machine.execDieTemperatureStop die s
  | .dieFailure die => Sys2Proof.Machine.execDieFailure die s
  | .linkLevelReplay link => Sys2Proof.Machine.execLinkLevelReplay link s
  | .pathFailure peer => Sys2Proof.Machine.execPathFailure peer s
  | .pathTimeout peer => Sys2Proof.Machine.execPathTimeout peer s
  | .bruronLinkPacket peer seq access => Sys2Proof.Machine.execBruronLinkPacket peer seq access s
  | .packetAcknowledgement peer seq => Sys2Proof.Machine.execPacketAcknowledgement peer seq s
  | .hostAccess port access => Sys2Proof.Machine.execHostAccess port access s
  | .backInvalidateSnoop port line => Sys2Proof.Machine.execBackInvalidateSnoop port line s
  | .unassignedFunctionCode sub => Sys2Proof.Machine.execUnassignedFunctionCode sub s
  | .lPrefixMisplaced => Sys2Proof.Machine.execLPrefixMisplaced s
  | .unpairedVcvtbc d m => Sys2Proof.Machine.execUnpairedVcvtbc d m s
  | .softError site => Sys2Proof.Machine.execSoftError site s
  | .stackTemperatureNormal stack => Sys2Proof.Machine.execStackTemperatureNormal stack s
  | .islandClockRaise die island mhz => Sys2Proof.Machine.execIslandClockRaise die island mhz s
  | .tenantRemoval tenant => Sys2Proof.Machine.execTenantRemoval tenant s
  | .attestationRequest nonce => Sys2Proof.Machine.execAttestationRequest nonce s

end Sys2Proof.Machine
end

