-- ==== Sys2Proof/Machine/Turn.lean ====
section
/-! DEFINITION. What one step does: the device's own work, the choice of a thread, its turn, and the moves of the agenda (R18 to R20,
R45 to R52, R188, R285, R286, R322; logs 3 and 7). -/

namespace Sys2Proof.Machine

/-! ### Time -/

/-- Cycles of the step pass at every core of a die that runs: each core has a count of its own (R31, R351, logs 7 and 76). -/
def passCycles (s : State) : State :=
  { s with cyc := (s.cyc.zip (List.range 256)).map fun p =>
      if s.stoppedDies.mem (p.2 / 64) then p.1 else p.1 + Config.freeCycles (256 * s.steps + p.2) }

/-! ### The device's own work -/

/-- Tenure requests go on as far as they can (R260), unless the agenda makes their moves; the directory of a die that has stopped stands still
(R351). -/
def grantWork (s : State) : Option State :=
  let s1 := grantClaims s
  if s1.claims = s.claims then none else some s1

/-- A thread's executed stores go on to perform, as far as nothing holds them back, unless the agenda holds them (R247). -/
def storeWork (s : State) (t : Thread) : Option State :=
  match t.sbuf with
  | [] => none
  | p :: _ =>
    if t.holdStore || !dieUp s t.die || heldBack s t.tid true p.loc p.bytes.length then none
    else
      let s1 := flushStores s t
      if (s1.thread? t.tid).any fun u => u.sbuf = t.sbuf then none else some s1

/-- The vector elements of a thread whose scalar instruction waits go on; a trap among them is taken when that instruction has completed. -/
def vectorOnly (s : State) (t : Thread) : State :=
  match drainVector s t with
  | (_, .trapped) => s
  | (s1, _) => s1

/-- The vector elements of a thread that waits for tenure go on as their bytes become free (R262). -/
def vectorWork (s : State) (t : Thread) : Option State :=
  if t.vq.isEmpty || t.parked || t.holdVec || t.replay.isSome || (pendingClaim s t.tid).isNone then none
  else if (vectorOnly s t).threads = s.threads then none
  else some (vectorOnly s t)

/-- A killed thread ends once its accord in flight is done and its stores have performed (R116). -/
def killedWork (s : State) (t : Thread) : Option State :=
  match s.accord? t.tid with
  | some a =>
    let s1 := runAccord s a
    if s.deferAccords || s1.accords = s.accords then none else some s1
  | none =>
    let s1 := endStores s t
    if storesDone s1 t.tid then some (killThread s1 t) else none

/-- A thread whose fatal record had no room ends when there is room (R333). -/
def dyingWork (s : State) (t : Thread) (f : Flt) (count : Nat) : Option State :=
  if storesDone (endStores s t) t.tid && fatalRoom s t.tenant then some (endFatal s t f count) else none

/-- What is to be done for a thread without its turn. -/
def threadWork (s : State) (t : Thread) : Option State :=
  match t.wait with
  | .dying f count => dyingWork s t f count
  | .killed => killedWork s t
  | _ =>
    match storeWork s t with
    | some s1 => some s1
    | none => if dieUp s t.die then vectorWork s t else none

/-- Bring-up, while it has not been done (R352). -/
def bringUpWork (s : State) : Option State :=
  if s.bringUp = 6 || !s.firmwareOk then none
  else
    match execBringUp s with
    | .next s1 => some s1
    | _ => none

/-- The device's own work, in the order in which it comes about while the agenda says nothing (log 3). -/
def ownWork (s : State) : Option State :=
  firstSome (fun work : State → Option State => work s)
    [bringUpWork, grantWork, recordWork, imageWork, expertWork, commandWork, ownershipWork, packetWork, replyWork, portWork, linkWork,
      fun s => firstSome (threadWork s) s.threads, taskWork, removalWork]

/-! ### The choice of a thread (R117, R283, R286) -/

/-- Whether a thread's wait lets it have a turn. -/
def waitOver (s : State) (t : Thread) : Bool :=
  match t.wait with
  | .none | .starting | .entering | .unreachable | .killing _ | .barw _ _ => true
  | .barc left | .barg left => left
  | .pause _ _ => true
  | .idle c expired => expired || ticketReady t || c + 65536 ≤ cyclesOf s t
  | .debugger | .dying _ _ | .killed => false

/-- Whether a thread issues: it holds a slot of a die that runs, it is in no replay-wait, and it waits neither at a THACQ for tenure nor for a
command's acceptance (R203). -/
def runnable (s : State) (t : Thread) : Bool :=
  !t.parked && t.replay.isNone && waitOver s t && dieUp s t.die &&
    !(s.claims.any fun c => c.waiter t && !c.granted) &&
    !(s.commands.any fun c => c.tid = t.tid && c.acq && c.phase = .issued)

/-- Whether a thread that has yielded stands behind another ready thread of its core (R117). Which threads are ready to issue in a cycle is
free, and of two threads that have both yielded R117 does not say which stands behind: neither does (log 17). -/
def standsBehind (s : State) (t : Thread) : Bool :=
  t.yielded && (s.threads.any fun u => u.tid != t.tid && u.core = t.core && !u.yielded && runnable s u) && !Config.freeChoice s.steps

/-- The threads in the order of the round robin after the current one. -/
def rotation (s : State) : List Thread :=
  (s.threads.dropWhile fun t => t.tid != s.cur).drop 1 ++ (s.threads.takeWhile fun t => t.tid != s.cur) ++
    s.threads.filter fun t => t.tid = s.cur

/-- The thread whose turn is next. -/
def nextThread (s : State) : Option Thread := (rotation s).find? fun t => runnable s t && !standsBehind s t

/-! ### A thread's turn -/

/-- Slots of a line from a slot on, with their START bits (R45). -/
def lineSlots (line : List Byte) (slot : Nat) : List Slot :=
  ((List.range 30).drop slot).map fun k => ⟨lineWord line (k + 2), (lineWord line 0).getLsbD k⟩

/-- Whether the instruction at a slot, with its prefix if it has one, ends in slot 29 and is one that the next line may complete: a VBFLYC
that is illegal for no other reason than its missing VCVTBC (R49, R63, R140). -/
noncomputable def wantsNext (t : Thread) (line : List Byte) (slot : Nat) : Bool :=
  match decode (lineSlots line slot) [] with
  | .ok (.vbflyc a b none, n) => slot + n = 30 && lowest (fusedPush a b none t).faults = some 0x14
  | _ => false

/-- The slots of the next line and its leaf entry, where they are wanted. The pair is one instruction at the VBFLYC's address: a control-flow
fault of the next line leaves it unpaired (0x14), any other fault of that line is taken at that address. R52 and R140 do not say so (log 96). -/
noncomputable def nextSlots (s : State) (t : Thread) (line : List Byte) : Res (List Slot × Option LeafRef) :=
  if wantsNext t line (slotOf t.pc) then
    match arrive s t .fall false (slotAfter t.pc (30 - slotOf t.pc)) with
    | .wait => .wait
    | .fault f => if f.cause = 0x02 then .ok ([], none) else .fault f
    | .ok l => .ok (lineSlots l.1 0, l.2)
  else .ok ([], none)

/-- The instruction that a thread has reached, decoded; an encoding that is none is the row of the table it falls under (R63). -/
noncomputable def instrOf (line : List Byte) (slot : Nat) (next : List Slot) : Instr :=
  match decode (lineSlots line slot) next with
  | .ok r => r.1
  | .error r => r.instr

/-- How the thread arrives at its pc: a handler's or a launch's entry, else by fall-through; jumps have made their checks. -/
def arrivalOf (t : Thread) : How := if t.wait = .entering then .entry else .fall

/-- A control-flow fault of a launch: fatal whatever handler the thread has, and reported to system software with the launch block (R51, R275). -/
def launchFault (s : State) (t : Thread) (f : Flt) : State :=
  let u := { t with trap := trapRegs f 0 true (scalarPoint t) }
  (endFatal ((s.noteFault f).setThread u) u f.noted 0).report (.launchFault t.queue t.taskSeq.toNat ((taskOf s t).map fun k => k.block))

/-- A fault of a fetch (R51). -/
def fetchFault (s : State) (t : Thread) (f : Flt) : State :=
  if t.wait = .entering && !t.inHandler && f.cause = 0x02 then launchFault s t f else scalarTrap s t f

/-- The arrival is over: the line's leaf is marked and an entry is no longer due. -/
def arrived (s : State) (t : Thread) (entry : Option LeafRef) : State :=
  let s1 := s.markLeaf accFetch entry
  if t.wait = .entering then s1.update t.tid fun u => { u with wait := .none } else s1

/-- The line of a thread's next instruction: the one its last transfer arrived in, or that of a new arrival (R48, R50). -/
def reach (s : State) (t : Thread) : Res (List Byte × Option LeafRef) :=
  match arrivedLine t with
  | some line => .ok (line, none)
  | none => arrive s t (arrivalOf t) false t.pc

/-- Whether an instruction reaches into the line after its own: a fused pair does when its VBFLYC stands last (R140). -/
def isPair : Instr → Bool
  | .vbflyc _ _ (some _) => true
  | _ => false

/-- Fetches, decodes and executes one instruction of the current thread (R45, R50). A pair's arrival in the next line marks its leaf too
(R326). -/
noncomputable def fetchAndRun (s : State) (t : Thread) : Result :=
  match reach s t with
  | .wait => .next s
  | .fault f => .next (fetchFault s t f)
  | .ok l =>
    match nextSlots s t l.1 with
    | .wait => .next s
    | .fault f => .next (scalarTrap s t f)
    | .ok next =>
      let i := instrOf l.1 (slotOf t.pc) next.1
      let s1 := arrived s t l.2
      exec i { (if isPair i then s1.markLeaf accFetch next.2 else s1) with cur := t.tid }

/-- Whether a thread's scalar stream waits for a result of its vector queue (R19, R145). -/
def awaitsCount (t : Thread) : Bool := t.vq.any VEntry.counts

/-- The queues of a thread go on before its scalar stream does: the vector queue (R18 to R20), then the matrix queue (R168). Answers whether
the turn goes on: a trap ends it, and so does a result that the stream waits for. -/
def drainQueues (s : State) (t : Thread) : State × Bool :=
  let r := if t.holdVec && !awaitsCount t then (s, HeadEnd.committed) else drainVector s t
  match r.2 with
  | .trapped => (r.1, false)
  | _ =>
    let s2 := if t.holdMat then r.1 else drainMatrix r.1 t.tid
    (s2, (dueMatrix s2 t.tid).isNone && !((s2.thread? t.tid).any awaitsCount))

/-- The turn of a thread that has started: a matrix trap that is due (R188), its queues, then one instruction. -/
noncomputable def runThread (s : State) (t : Thread) : Result :=
  match dueMatrix s t.tid with
  | some d => .next (takeMatrixTrap s t d.1 d.2)
  | none =>
    let r := drainQueues (resumeMatrix s t) t
    match r.2, r.1.thread? t.tid with
    | true, some u => fetchAndRun r.1 u
    | _, _ => .next r.1

/-- The state at the beginning of a thread's turn. -/
def beginTurn (s : State) (t : Thread) : State := { passCycles s with cur := t.tid }

/-- A thread's turn: a start reads ARGS (R280), a PAUSE or an IDLE whose time has come ends, and any other thread runs. -/
noncomputable def threadTurn (s : State) (t : Thread) : Result :=
  let s1 := beginTurn s t
  match t.wait with
  | .starting => .next (startArgs s1 t)
  | .pause _ false => .next (expireWait s1 t)
  | .idle _ false => if ticketReady t then runThread s1 t else .next (expireWait s1 t)
  | _ => runThread s1 t

/-! ### Idle time and rounds (R117, R282) -/

/-- Dispatch rounds of every die that is up. -/
def allRounds (s : State) : State := [0, 1, 2, 3].foldl (fun s die => if dieUp s die then endRound s die else s) s

/-- No thread has a turn: an IDLE runs out, or a round ends. -/
def idleStep (s : State) : State :=
  match s.threads.find? fun t => !t.parked && (match t.wait with | .idle _ false => true | _ => false) with
  | some t => expireWait (passCycles s) t
  | none => allRounds (passCycles s)

/-- While the agenda says nothing, a round of each die ends with every 1,024th step (log 21). -/
def roundDue (s : State) : Bool := s.steps % 1024 = 0

/-! ### The agenda (log 3) -/

/-- Rows of the opcode table that are events, not instructions of a scalar stream: those that no encoding names. -/
def isEvent : Instr → Bool
  | .unassignedFunctionCode _ | .lPrefixMisplaced => false
  | i => (encode i).isEmpty

/-- Performs the k-th executed store of a thread, when no older one shares a byte with it or lies like it on a strongly ordered page (R247). -/
def performOne (s : State) (t : Thread) (k : Nat) : State :=
  match t.sbuf[k]? with
  | none => s
  | some p =>
    if (t.sbuf.take k).any (fun q => q.before p.loc p.bytes.length (p.kind = 1)) ||
        !dieUp s t.die then s
    else (performPending (s.update t.tid fun u => { u with sbuf := u.sbuf.take k ++ u.sbuf.drop (k + 1) }) t p).getD s

/-- A core keeps a copy of the line that a thread would fetch at an address, of no strongly ordered page (R48, R49, R247). -/
def keepCopy (s : State) (t : Thread) (va : Nat) : State :=
  let at_ : Dword := BitVec.ofNat 64 (va / 128 * 128)
  match translate s t.agent accFetch at_, findLeaf s t.agent accFetch at_ with
  | .ok tr, .ok leaf =>
    match readable s t.agent accFetch at_ tr 128 with
    | .ok tr =>
      let c : FetchCopy :=
        { core := t.core, va := va / 128 * 128, page := leafSize leaf.2.1, asid := t.atp.extractLsb' 44 16, pa := tr.pa,
          bytes := s.loadBytes tr.loc 128 }
      let s1 := s.noteReads (tr.reads ++ [(tr.loc, 128)])
      if tr.kind = 1 then s else { s1 with fetchCopies := c :: s1.fetchCopies.filter fun x => !(x.core = c.core && x.va = c.va && x.asid = c.asid) }
    | _ => s
  | _, _ => s

/-- A translator, that of a thread's core or the stream translator of a base die, caches the valid leaf of an address (R326 to R328). -/
def cacheOne (s : State) (t : Thread) (va : Nat) (stream : Option (BitVec 4)) : State :=
  match walk s t.agent accLoad (BitVec.ofNat 64 va) 4 (field t.atp 0 44 * 4096) with
  | .ok (e, level, entry) =>
    let c : CachedLeaf :=
      { unit := match stream with
          | some k => 256 + k.toNat
          | none => t.core,
        asid := t.atp.extractLsb' 44 16, va := va % 2 ^ 57 / leafSize level, level := level, leaf := e, entry := entry.loc }
    let s1 := s.noteReads entry.reads
    if validLeaf s t.tenant e level then { s1 with leaves := c :: s1.leaves } else s1
  | _ => s

/-! ### Loads before their turn (R151, R369) -/

/-- Loads that may go before older entries: those whose addresses were captured at push. -/
def VMemOp.direct (op : VMemOp) : Bool := op = .ld || op = .lds || op = .ldfe || op = .ldfec

/-- An entry with the registers that do not matter to where it loads from: it begins at element 0. -/
def youngView (t : Thread) (e : VEntry) : VView := { viewOf t e with vstart := 0 }

/-- The location that element i of a direct load reads, where no event stops it. -/
def directAt (s : State) (t : Thread) (v : VView) (op : VMemOp) (i : Nat) : Option Trans :=
  match memBase s t v op with
  | .error _ => none
  | .ok (base, _) =>
    let va := elemAddress v op 0 base i
    match (locateElement s t v op va).bind fun tr => readable s t.agent accLoad va tr (v.sew / 8) with
    | .ok tr => some tr
    | _ => none

/-- Whether an older entry lets a read pass: it accesses no memory, or it is a direct load none of whose elements meets an event or reads a
common byte (R150 to R152). -/
def letsPass (s : State) (t : Thread) (l : Loc) (n : Nat) (x : VEntry) : Bool :=
  match x.op with
  | .mem op _ _ =>
    op.direct && (List.range x.vl.toNat).all fun j => (directAt s t (youngView t x) op j).any fun tr =>
      !overlap tr.loc ((youngView t x).sew / 8) l n
  | _ => true

/-- The elements that load with element i: those of its granule for VLDFE and VLDFEC, whose read of a granule is one event (R159). -/
def loadsWith (s : State) (t : Thread) (v : VView) (op : VMemOp) (tr : Trans) (i : Nat) : List (Nat × Trans) :=
  if op = .ldfe || op = .ldfec then
    (List.range v.vl).filterMap fun j => (directAt s t v op j).bind fun x => if x.loc / 16 = tr.loc / 16 then some (j, x) else none
  else [(i, tr)]

/-- The elements below element i that lie in other granules (R159). -/
def loadsBelow (s : State) (t : Thread) (v : VView) (op : VMemOp) (tr : Trans) (i : Nat) : List Nat :=
  (List.range i).filter fun j => (directAt s t v op j).all fun x => x.loc / 16 != tr.loc / 16

/-- Whether an entry may still trap although it accesses no memory: a block that is not valid, or a poisoned source (R129). -/
def mayTrap (t : Thread) (x : VEntry) : Bool :=
  x.badScalar || !t.badVregs.isEmpty || !t.badMasks.isEmpty ||
    match x.op with
    | .widen _ _ => vtFmt x.vtype = 2
    | _ => false

/-- Physical slots of a lane group that run-ahead loads may fill (R289, log 95). -/
abbrev aheadSlots : Nat := 96

/-- Whether the lane groups have slots for one more load that runs ahead: each holds G slots of every group (R289). -/
def slotsFree (q : List VEntry) (e : VEntry) : Bool :=
  let ahead := q.filter fun x => !x.early.isEmpty
  !e.early.isEmpty || (ahead.map fun x => vtGroup x.vtype).sum + vtGroup e.vtype ≤ aheadSlots

/-- The entry at a place of a queue with the values of elements that have loaded. -/
def putEarly (k : Nat) (vals : List EarlyLoad) (q : List VEntry) : List VEntry :=
  ((List.range q.length).zip q).map fun p => if p.1 = k then { p.2 with early := p.2.early ++ vals } else p.2

/-- Element i of the k-th entry of a thread's vector queue loads before the older entries have committed (R151), or, of the head, before lower
elements that something holds back (R262): an unmasked direct load, on no
strongly ordered page, that nothing makes wait and for which slots are free; where they are not, address generation stops until some are freed
(R289). A VLDFE or VLDFEC takes its granules in ascending order
(R159), and a VLDFEC passes no entry that may trap. -/
def loadEarly (s : State) (t : Thread) (k i : Nat) : State :=
  match t.vq[k]? with
  | none => s
  | some e =>
    match e.op with
    | .mem op _ _ =>
      let v := youngView t e
      match directAt s t v op i with
      | none => s
      | some tr =>
        let n := v.sew / 8
        let consumes := op = .ldfe || op = .ldfec
        let l := if consumes then tr.loc / 16 * 16 else tr.loc
        let lower := consumes && (loadsBelow s t v op tr i).any fun j => (earlyLoad e j).isNone
        if (k = 0 && (consumes || i < t.vstart.toNat)) || !op.direct || e.masked || e.badScalar || v.vl ≤ i || (earlyLoad e i).isSome || tr.kind = 1 || waitsForMatrix s t e ||
            waitsForStores s t e.waitStores || (consumes && !s.full.mem (tr.loc / 16)) || lower || t.noAhead ||
            (op = .ldfec && (t.vq.take k).any (mayTrap t)) || !(t.vq.take k).all (letsPass s t l (if consumes then 16 else n)) then s
        else if !slotsFree t.vq e then s.setThread { t with noAhead := true }
        else
          match sendOne s (accessPort t.core) t.tenant (.read (BitVec.ofNat 8 n)) tr n with
          | none => s
          | some s1 =>
            let vals := (loadsWith s1 t v op tr i).map fun x =>
              { elem := x.1, value := leNat (s1.loadBytes x.2.loc n), loc := x.2.loc, entry := x.2.entry : EarlyLoad }
            let s2 := if op = .ldfec then { s1 with full := s1.full.remove (tr.loc / 16) } else s1
            s2.update t.tid fun u => { u with vq := putEarly k vals u.vq }
    | _ => s

/-! ### Caches -/

/-- The line of an address that a cache may hold: a thread's load of it is translated and no claim holds it back (R262), and it is no streaming line
(R231) and on no strongly ordered page, on which the device makes only the accesses that the program asks for (R247). -/
def cachedLine (s : State) (t : Thread) (va : Dword) : Option Nat :=
  match translate s t.agent accLoad va with
  | .ok tr => if tr.streaming || tr.kind = 1 || claimHolds s t.tid false tr.loc 1 then none else some (lineOf tr.loc)
  | _ => none

/-- The host takes a copy of a line of the HBM that is exposed to it, unless a claim holds the read back (R262, R340). -/
def copyToHost (s : State) (line : Nat) : State :=
  if s.bringUp = 6 && 128 * line + 128 ≤ hostedEnd && !claimHolds s deviceTid false (128 * line) 128 then
    { s with hostCopies := s.hostCopies.insert line }
  else s

/-- Whether a thread's queues can go on: it holds a slot of a die that runs and is in no replay-wait. -/
def goesOn (s : State) (t : Thread) : Bool := !t.parked && t.replay.isNone && waitOver s t && dieUp s t.die

/-- What a move makes of a thread, where it exists. -/
def State.withThread (s : State) (tid : BitVec 32) (f : Thread → State) : State :=
  match s.thread? tid with
  | none => s
  | some t => f t

/-- A thread at the debugger goes on (R118). -/
def resumeDebugger (u : Thread) : Thread := if u.wait = .debugger then { u with wait := .none } else u

/-- A move that is not a thread's turn and not an event. -/
def moveOf (s : State) : Act → State
  | .performStore tid k => s.withThread tid fun t => performOne s t k
  | .performVector tid => s.withThread tid fun t =>
    if runnable s t then (drainVector s t).1 else if goesOn s t then vectorOnly s t else s
  | .performMatrix tid => s.withThread tid fun t => if dieUp s t.die && !t.over then drainMatrix s tid else s
  | .performRow tid => s.withThread tid fun t => if dieUp s t.die && !t.over then runMatrixRow s tid else s
  | .loadEarly tid k i => s.withThread tid fun t => if goesOn s t then loadEarly s t k i else s
  | .engineUnit tid slot k =>
    match s.command? tid slot with
    | none => s
    | some c => if c.phase = .accepted && c.replay.isNone && !acqHolds s c && dieUp s c.die then earlyUnit s c k else s
  | .holdStores tid on => s.update tid fun u => { u with holdStore := on }
  | .holdVector tid on => s.update tid fun u => { u with holdVec := on }
  | .holdMatrix tid on => s.update tid fun u => { u with holdMat := on }
  | .deferAccords on => { s with deferAccords := on }
  | .queueEvents tid stack => queueEvents s tid stack
  | .deferReplies on => { s with deferReplies := on }
  | .deferClaims on => { s with deferClaims := on }
  | .claimStep tid => stepRequest s tid
  | .fillL1 tid va => s.withThread tid fun t => ((cachedLine s t va).map fun line => fillL1 s t.core line).getD s
  | .fillL2 tid va => s.withThread tid fun t => ((cachedLine s t va).map fun line => fillL2 s t.tenant line).getD s
  | .dropL1 core line => s.discardL1 fun c => c.core = core && c.line = line
  | .pinLine line on => { s with l2 := s.l2.map fun c : L2Line => if c.line = line then { c with pinned := on } else c }
  | .hostCopy line => copyToHost s line
  | .keepFetchCopy tid va => s.withThread tid fun t => keepCopy s t va
  | .dropFetchCopy core va => { s with fetchCopies := s.fetchCopies.filter fun c => !(c.core = core && c.va = va) }
  | .cacheLeaf tid va stream => s.withThread tid fun t => cacheOne s t va stream
  | .dropLeaf u va => { s with leaves := s.leaves.filter fun c => !(c.unit = u && c.va = va % 2 ^ 57 / leafSize c.level) }
  | .setLaunchAtp tenant atp => { s with launchAtp := Sparse.set 0 s.launchAtp tenant.toNat atp }
  | .setDebugger tenant on => { s with debuggers := s.debuggers.put tenant.toNat on }
  | .debuggerResume tid => s.update tid resumeDebugger
  | .newPath peer => choosePath s peer.toNat
  | .loadFirmware image => if s.bringUp = 6 then s else { s with firmware := s.firmware ++ [image] }
  | .supplyRows stack bank row fast => if s.bringUp = 6 then s else { s with rowLists := s.rowLists ++ [(bankKey stack bank, row, fast)] }
  | .writeMsix tenant k v => s.writeMsix tenant k.toNat v
  | .systemWrite pa data => bufferAccess s systemPort { pa := pa, op := .write data, release := false }
  | .peerWrite peer address data =>
    let l := peerLoc peer.toNat address.toNat
    { s.breakLinksAt l data.length with mem := s.mem.writeBytes l data }
  | .event _ | .run _ => s

/-- A move of the agenda. A thread that cannot issue has no turn. -/
noncomputable def act (s : State) : Act → Result
  | .event i => if isEvent i then exec i s else .next s
  | .run tid =>
    match s.thread? tid with
    | none => .next s
    | some t => if runnable s t then threadTurn s t else .next s
  | a => .next (moveOf s a)

/-! ### The step -/

/-- The next move while the agenda says nothing: the device's own work, a round that is due, the next thread's turn, or idle time. -/
noncomputable def ownMove (s : State) : Result :=
  match ownWork s with
  | some s1 => .next s1
  | none =>
    if roundDue s then .next (allRounds s)
    else
      match nextThread s with
      | some t => threadTurn s t
      | none => .next (idleStep s)

/-- The head of the agenda, else the next move of its own. -/
noncomputable def moveNext (s : State) : Result :=
  match s.agenda with
  | a :: r => act { s with agenda := r } a
  | [] => ownMove s

/-! ### Where the next instruction lies (log 9) -/

/-- A thread that the next step can run: it issues, nothing of it is queued, and it fetches by fall-through. -/
def issuing (s : State) (t : Thread) : Bool := runnable s t && t.wait = .none && t.vq.isEmpty && (matrixOf s t.tid).isEmpty

/-- The bytes of a line whose slot 0 begins the words, the others NOP: a function entry (R45). -/
def firstLine (ws : List Word) : List Byte :=
  let slots := slotsOf true (ws ++ List.replicate 27 0)
  let start := ((List.range 30).zip slots).foldl (fun n p => if p.2.start then n + 2 ^ p.1 else n) 0
  leBytes 4 (2 ^ 31 + start) ++ leBytes 4 1 ++ slots.flatMap fun x => leBytes 4 x.word.toNat

/-- A thread at the first slot of the line at 0x1_0000, its root at page 1. -/
def firstThread : Thread := { Thread.blank with pc := 0x10008, atp := 0xA000000000000001 }

/-- A machine that has been brought up, with a first thread of tenant 0 whose pages map every address to itself: the leaf in entry 0 of its
root permits every access. Its line holds the words. It has the next turn. -/
def placeFirst (s : State) (ws : List Word) : State :=
  let s1 := (s.storeBytes 0x1000 (leBytes 8 0xDF)).storeBytes 0x10000 (firstLine ws)
  let s2 := { s1 with bringUp := 6 }.addThread 0 firstThread
  { s2 with cur := nextTid s 0, agenda := .run (nextTid s 0) :: s2.agenda }

/-- Sets the START bit of a slot in a header word. -/
def setStart (h slot : Nat) (b : Bool) : Nat := h - bits h slot 1 * 2 ^ slot + (if b then 2 ^ slot else 0)

/-- Writes a slot of the line that holds an address, at the line's location: the word and its START bit. -/
def placeSlot (s : State) (t : Thread) (at_ : BitVec 57) (x : Slot) : State :=
  match translate s t.agent accFetch (BitVec.ofNat 64 (at_.toNat / 128 * 128)) with
  | .ok tr =>
    let h := leNat (s.loadBytes tr.loc 4)
    (s.storeBytes tr.loc (leBytes 4 (setStart (bits h 0 30 + 2 ^ 31) (slotOf at_) x.start))).storeBytes (tr.loc + 8 + 4 * slotOf at_)
      (leBytes 4 x.word.toNat)
  | _ => s

/-- The words at the pc of a thread, which has the next turn. -/
def placeAt (s : State) (t : Thread) (ws : List Word) : State :=
  let s1 := (((List.range ws.length).zip (slotsOf true ws))).foldl (fun s p => placeSlot s t (slotAfter t.pc p.1) p.2)
    { s with fetchCopies := [] }
  { s1 with agenda := .run t.tid :: s1.agenda }

end Sys2Proof.Machine
end

