-- ==== Sys2Proof/Machine/Step.lean ====
section
/-! DEFINITION. One step of the package, and where it fetches its next instruction. -/

namespace Sys2Proof.Machine

/-- One step: the head of the agenda, else the device's own work or the turn of the next thread. -/
noncomputable def step (s : State) : Host.Outcome State Fault Refusal := moveNext { s with steps := s.steps + 1 }

/-- The instruction of `nbits` table bits `w`, its further bits zero, where the next step fetches: at the pc of the current thread, or, when
there is none that issues, in slot 0 of a line for a first thread (log 9). -/
def State.withFetchWord (s : State) (nbits w : Nat) : State :=
  match s.thread? s.cur with
  | some t => if issuing s t then placeAt s t (tableWords (w % 2 ^ nbits)) else placeFirst s (tableWords (w % 2 ^ nbits))
  | none => placeFirst s (tableWords (w % 2 ^ nbits))

end Sys2Proof.Machine
end

