-- ==== Sys2Proof/Safety.lean ====
section
/-! DEFINITION. The terms that claims use: the current thread, unpoisoned operands, a thread with nothing outstanding, what one
instruction may change, the invariant, and what a safe run is. -/

namespace Sys2Proof

open Machine

/-! ### Conditions -/

/-- The current thread of a state is t. -/
def Runs (s : State) (t : Thread) : Prop := s.thread? s.cur = some t

/-- None of the registers that an instruction reads is poisoned (R242). -/
def Clean (t : Thread) (reads : List (BitVec 7)) : Prop := reads.any t.badG = false

/-- Nothing of a thread is outstanding: no queued vector or matrix instruction and no executed store. -/
def AtRest (s : State) (t : Thread) : Prop := t.vq = [] ∧ matrixOf s t.tid = [] ∧ t.sbuf = []

/-! ### What an instruction changes -/

/-- A thread past an instruction of n slots, otherwise as it was (R47). The count of R332 of an access at the instruction's own address
is over. -/
def Stepped (t u : Thread) (n : Nat) : Prop :=
  u.pc = slotAfter t.pc n ∧ u.repeats = t.laterRepeats ∧ u = { t with pc := u.pc, arrived := none, repeats := u.repeats }

/-- The scalar registers after v has been written to g(d): register 0 keeps reading zero, every other entry keeps its value, and the
entry written holds no poison (R22, R242). -/
def WroteG (t u : Thread) (d : BitVec 7) (v : Dword) : Prop :=
  u.g 0 = 0 ∧ (d ≠ 0 → u.g d = v) ∧
    (∀ k, d = 0 ∨ k ≠ t.entryOf d → Sparse.get 0 u.scal k = Sparse.get 0 t.scal k ∧ u.badScal.mem k = t.badScal.mem k) ∧
    (d ≠ 0 → u.badScal.mem (t.entryOf d) = false)

/-- A thread past an instruction of n slots that wrote v to g(d), otherwise as it was. -/
def Wrote (t u : Thread) (d : BitVec 7) (v : Dword) (n : Nat) : Prop :=
  u.pc = slotAfter t.pc n ∧ u.repeats = t.laterRepeats ∧ WroteG t u d v ∧
    u = { t with pc := u.pc, arrived := none, repeats := u.repeats, scal := u.scal, badScal := u.badScal }

/-- The state after an instruction that changed one thread and nothing else: every other thread and every byte of memory is as it
was. -/
def Only (s s' : State) (t u : Thread) : Prop :=
  s'.thread? t.tid = some u ∧ (∀ tid, tid ≠ t.tid → s'.thread? tid = s.thread? tid) ∧ (∀ a, s'.mem.read a = s.mem.read a) ∧
    s' = { s with threads := s'.threads }

/-- An instruction completes by a change of its own thread alone, of which P holds. -/
def Completes (i : Instr) (s : State) (t : Thread) (P : Thread → Prop) : Prop :=
  ∃ s' u, exec i s = .next s' ∧ Only s s' t u ∧ P u

/-- A thread but for its gather links. -/
def unlinked (t : Thread) : Thread := { t with links := [] }

/-- The state after an access: another thread changes at most in its links; memory outside the stored bytes changes at most in the A and
D bits of the leaf entry used (R326); besides, packets go and use their tenant's bandwidth, copies in caches go or change, and correctable
errors are counted. -/
def Accessed (s s' : State) (t u : Thread) (entry : Option LeafRef) (stored : Loc → Prop) : Prop :=
  s'.thread? t.tid = some u ∧
    (∀ tid, tid ≠ t.tid → (s'.thread? tid).map unlinked = (s.thread? tid).map unlinked) ∧
    (∀ a, ¬ stored a → some a ≠ entry.map (·.loc) → s'.mem.read a = s.mem.read a) ∧
    (∀ e, entry = some e → ¬ stored e.loc → s'.mem.read e.loc ||| 0xC0 = s.mem.read e.loc ||| 0xC0) ∧
    s' = { s with threads := s'.threads, mem := s'.mem, poison := s'.poison, softErrors := s'.softErrors, corrected := s'.corrected,
                  reports := s'.reports, sendSeq := s'.sendSeq, unacked := s'.unacked, inflight := s'.inflight, l1 := s'.l1, l2 := s'.l2,
                  hbmDeficit := s'.hbmDeficit, hostCopies := s'.hostCopies }

/-- The n bytes at a location. -/
def bytesAt (l : Loc) (n : Nat) (a : Loc) : Prop := l ≤ a ∧ a < l + n

/-- Whether a write to a location is lost because no path to its peer is left (R348). -/
def lost (s : State) (l : Loc) : Prop := isPeer l = true ∧ s.deadPaths.mem (peerOf l) = true

/-- Every link of every thread on the lines of n bytes is broken (R103, R161). -/
def LinksBroken (s : State) (l : Loc) (n : Nat) : Prop :=
  ∀ t ∈ s.threads, ∀ k ∈ t.links, lineOf l ≤ k.line → k.line ≤ lineOf (l + n - 1) → k.intact = false

/-- A thread past an instruction of n slots that accessed memory: its links apart, it is as it was. -/
def SteppedA (t u : Thread) (n : Nat) : Prop :=
  u.pc = slotAfter t.pc n ∧ u.repeats = t.laterRepeats ∧ u = { t with pc := u.pc, arrived := none, repeats := u.repeats, links := u.links }

/-- A thread past an instruction of n slots that accessed memory and wrote v to g(d): its links apart, the rest is as it was. -/
def WroteA (t u : Thread) (d : BitVec 7) (v : Dword) (n : Nat) : Prop :=
  u.pc = slotAfter t.pc n ∧ u.repeats = t.laterRepeats ∧ WroteG t u d v ∧
    u = { t with pc := u.pc, arrived := none, repeats := u.repeats, scal := u.scal, badScal := u.badScal, links := u.links }

/-- An instruction completes by an access through a leaf entry that stores at most to the bytes named; of its thread and the state after
it P holds. -/
def CompletesA (i : Instr) (s : State) (t : Thread) (entry : Option LeafRef) (stored : Loc → Prop) (P : State → Thread → Prop) : Prop :=
  ∃ s' u, exec i s = .next s' ∧ Accessed s s' t u entry stored ∧ P s' u

/-- An instruction, after the thread's own stores to the bytes that it reads have performed, which leaves the state s1 and the thread t1,
completes by an access through a leaf entry; of its thread and the state after it P holds. -/
def CompletesAfter (i : Instr) (s s1 : State) (t1 : Thread) (entry : Option LeafRef) (P : State → Thread → Prop) : Prop :=
  ∃ s' u, exec i s = .next s' ∧ Accessed s1 s' t1 u entry (fun _ => False) ∧ P s' u

/-- The thread's own executed stores that share a byte with a range, or, for a range of a strongly ordered page, lie on such pages, have performed
(R247): s1 is the state then, t1 the thread. -/
def Settled (s : State) (t : Thread) (l : Loc) (n : Nat) (strong : Bool) (s1 : State) (t1 : Thread) : Prop :=
  settle s t.tid l n strong = (s1, true) ∧ s1.thread? t.tid = some t1

/-- A scalar access goes out at once: the core's own L1 holds the line, or neither its line nor the core's L1 miss port keeps it waiting for a
tag or behind other tenants' packets (R230, R234, R343). -/
def PortFree (s : State) (t : Thread) (tr : Trans) : Prop :=
  (∃ c ∈ s.l1, c.core = t.core ∧ c.line = lineOf tr.loc) ∨ portHeld s (missPort t.core) t.tenant tr = false

/-- A thread at the entry of its handler (R32, R320): the trap registers, the snapshot, the mark, an empty vector queue in which nothing keeps address
generation from running ahead, and slot 0 of TRAPVEC.LINE, whose arrival checks are made with the next fetch; the rest is as it was. -/
def Entered (t u : Thread) (cause sub : BitVec 8) (pc save : BitVec 57) (addr : Dword) (elem : BitVec 17) : Prop :=
  u.trap.cause = (0 : BitVec 48) ++ sub ++ cause ∧ u.trap.pc = pc ∧ u.trap.save = save ∧ u.trap.addr = addr ∧ u.trap.elem = elem ∧
    u.snapshot = some { vl := t.vl, vtype := t.vtype, vstart := t.vstart, vwb := t.vwb, swb := t.swb, vq := t.vq, epoch := t.epoch } ∧
    u.inHandler = true ∧ u.vq = [] ∧ u.pc = t.trapVec + 8 ∧ u.wait = .entering ∧
    (∃ va, u.repeats = t.otherRepeats pc va elem) ∧
    u = { t with trap := u.trap, snapshot := u.snapshot, inHandler := true, vq := [], pc := u.pc, arrived := none, wait := u.wait, replay := none,
                 repeats := u.repeats, noAhead := false }

/-- A thread that has a handler and is not in it (R320). -/
def Handles (t : Thread) : Prop := t.inHandler = false ∧ t.trapVec ≠ 0

/-- An instruction takes a trap from a state, and changes nothing else. -/
def Traps (i : Instr) (s s1 : State) (t : Thread) (P : Thread → Prop) : Prop :=
  ∃ s' u, exec i s = .next s' ∧ Only s1 s' t u ∧ P u

/-! ### Vector registers -/

namespace Claims

/-- A thread whose next vector instruction executes at once: nothing is queued or held, no vector or mask register is poisoned, and the
grant and VL lie in their ranges (R12, R17). -/
def LanesReady (t : Thread) : Prop :=
  t.vq = [] ∧ t.holdVec = false ∧ t.badVregs = [] ∧ t.badMasks = [] ∧ t.grant.toNat ≤ 64 ∧ t.vl.toNat ≤ 65536

/-- No FENCESV makes the vector accesses that a thread pushes next wait for a scalar store (R167). -/
def Unfenced (s : State) (t : Thread) : Prop := waitsForStores s t t.fences.vlSs = false ∧ waitsForStores s t t.fences.vsSs = false

/-- A field that names a group of n registers (R24, R127). -/
def Names (f : BitVec 7) (n : Nat) : Prop := f.toNat % n = 0 ∧ f.toNat + n ≤ 128

/-- Element i of a thread's group, at a width of w bits. -/
def elemOf (t : Thread) (w : Nat) (f : BitVec 7) (i : Nat) : Nat := readElem t.vregs t.vwb f t.grant.toNat w i

/-- Whether the governing mask, or no mask, enables element i (R7). -/
def enabledAt (t : Thread) (m : Bool) (i : Nat) : Bool := !m || maskBit t.masks (vtMsel t.vtype) i

/-- Whether element i lies between VSTART and VL. -/
def inSpan (t : Thread) (i : Nat) : Prop := t.vstart.toNat ≤ i ∧ i < t.vl.toNat

/-- The enabled elements below i that pass a test, counted from element 0 (R141). -/
def countBelow (t : Thread) (m : Bool) (test : Nat → Bool) (i : Nat) : Nat :=
  ((List.range i).filter fun j => enabledAt t m j && test j).length

/-- What an element or mask bit of a destination holds (R12, R15, R16): nothing is written while VL is 0; from VSTART to VL − 1 those that
take part receive results and the others are zeroed if IZ says so; the tail is zeroed if TZ says so. -/
def Dest {α : Type} (t : Thread) (on : Nat → Bool) (i : Nat) (result zero old new : α) : Prop :=
  (t.vl = 0 → new = old) ∧
  (inSpan t i → on i = true → new = result) ∧
  (inSpan t i → on i = false → new = if vtIz t.vtype then zero else old) ∧
  (t.vl ≠ 0 → t.vl.toNat ≤ i → t.vstart.toNat ≤ i → i < vlMax t.grant.toNat t.vtype → new = if vtTz t.vtype then zero else old) ∧
  (i < t.vstart.toNat ∨ (t.vl.toNat ≤ i ∧ vlMax t.grant.toNat t.vtype ≤ i) → new = old)

/-- Outside the group d of w-bit elements every byte of the vector registers is as it was. -/
def OthersKept (t u : Thread) (d : BitVec 7) (w : Nat) : Prop :=
  ∀ a, (∀ i j, i < max t.vl.toNat (vlMax t.grant.toNat t.vtype) → j < w / 8 → a ≠ groupByte t.vwb d t.grant.toNat (elemByte w i) + j) →
    u.vregs.read a = t.vregs.read a

/-- The group d of w-bit elements after an instruction; every other byte of the vector registers is as it was. -/
def GroupWritten (t u : Thread) (d : BitVec 7) (w : Nat) (on : Nat → Bool) (result : Nat → Nat) : Prop :=
  (∀ i, Dest t on i (result i % 2 ^ w) 0 (elemOf t w d i) (elemOf u w d i)) ∧ OthersKept t u d w

/-- Mask register d after an instruction; every other mask register is as it was. -/
def MaskWritten (t u : Thread) (d : BitVec 7) (on : Nat → Bool) (result : Nat → Bool) : Prop :=
  ∀ m i, i < 65536 →
    (m = d.toNat → Dest t on i (result i) false (maskBit t.masks m i) (maskBit u.masks m i)) ∧
    (m ≠ d.toNat → maskBit u.masks m i = maskBit t.masks m i)

/-- A thread past a vector instruction of n slots that has committed: the vector and mask registers and FCSR apart, only VSTART, the commit
pointer and the count of its pushes have changed. -/
def Committed (t u : Thread) (n : Nat) : Prop :=
  u.pc = slotAfter t.pc n ∧ u.repeats = t.laterRepeats ∧
    u = { t with pc := u.pc, arrived := none, repeats := u.repeats, vregs := u.vregs, masks := u.masks, vstart := 0, vcpAddr := t.pc, fcsr := u.fcsr,
                 order := t.order + 1 }

/-- The flags that the active elements are charged with (R21): FCSR collects them, and where XCLS names a class m14 reports it for each active
element. A mask register that the instruction itself writes is left to that result. -/
def Charged (t u : Thread) (on : Nat → Bool) (fl : Nat → Flags) (own : Option (BitVec 7)) : Prop :=
  u.fcsr.extractLsb' 0 2 = t.fcsr.extractLsb' 0 2 ∧
  (∀ k, k < 5 → (u.fcsr.getLsbD (k + 2) = true ↔
    t.fcsr.getLsbD (k + 2) = true ∨ ∃ i, inSpan t i ∧ on i = true ∧ (fl i).getLsbD k = true)) ∧
  ∀ m i, i < 65536 → (∀ d, own = some d → m ≠ d.toNat) →
    (m = 14 ∧ t.xcls.extractLsb' 0 3 ≠ 0 ∧ inSpan t i ∧ on i = true → maskBit u.masks m i = classBit t.xcls (maskBit t.masks m i) (fl i)) ∧
    (¬ (m = 14 ∧ t.xcls.extractLsb' 0 3 ≠ 0 ∧ inSpan t i ∧ on i = true) → maskBit u.masks m i = maskBit t.masks m i)

/-- No mask register and no flag has changed. -/
def Quiet (t u : Thread) : Prop := u.masks = t.masks ∧ u.fcsr = t.fcsr

end Claims

/-! ### Runs -/

/-- The invariant of the state's data: memory in canonical form. -/
def Inv (s : State) : Prop := Memory.wf s.mem = true

/-- A state from which the next step answers a next state. -/
def GoesOn (s : State) : Prop := ∃ t, step s = .next t

/-- A run of n steps that no fault and no refusal ends. -/
def SafeRun (n : Nat) (s : State) : Prop := ∃ t, Host.Core.run Sys2Proof.core n s = .next t

end Sys2Proof
end

