-- ==== Sys2Proof/WellFormed.lean ====
section
/-! DEFINITION. Which terms of Instr stand for an encodable instruction: every field within the legal range of its
kind (R56, R57, R64, R66). -/

namespace Sys2Proof

/-- A mask register field names m0 to m15 (R56). -/
def maskField (f : BitVec 7) : Bool := FieldKind.inRange .m f

/-- A tile field names za0 or za1 (R56). -/
def tileField (f : BitVec 7) : Bool := FieldKind.inRange .z f

/-- A bit number is 0 to 63 (R66). -/
def bitField (f : BitVec 7) : Bool := f.toNat < 64

/-- Every field lies in the range that its kind allows. -/
def Instr.wf : Instr → Bool
  | .nop => true
  | .exit => true
  | .trap _ => true
  | .ecall => true
  | .brk => true
  | .eret => true
  | .fence _ scope => decide (scope.toNat ≤ 4)
  | .fencesv kind => decide (kind.toNat < 32)
  | .barc => true
  | .barg => true
  | .bara _ => true
  | .barw _ _ => true
  | .yield => true
  | .pause => true
  | .kill _ => true
  | .pubwm _ _ => true
  | .waitwm _ _ => true
  | .asw _ => true
  | .tlbi _ _ => true
  | .idle => true
  | .cyc _ => true
  | .tid _ => true
  | .hint _ _ _ _ => true
  | .add _ _ _ => true
  | .sub _ _ _ => true
  | .and _ _ _ => true
  | .or _ _ _ => true
  | .xor _ _ _ => true
  | .andn _ _ _ => true
  | .orn _ _ _ => true
  | .sll _ _ _ => true
  | .srl _ _ _ => true
  | .sra _ _ _ => true
  | .ror _ _ _ => true
  | .mul _ _ _ => true
  | .mulh _ _ _ => true
  | .mulhn _ _ _ => true
  | .div _ _ _ => true
  | .divn _ _ _ => true
  | .rem _ _ _ => true
  | .remn _ _ _ => true
  | .min _ _ _ => true
  | .max _ _ _ => true
  | .minn _ _ _ => true
  | .maxn _ _ _ => true
  | .slt _ _ _ => true
  | .sltn _ _ _ => true
  | .seq _ _ _ => true
  | .sne _ _ _ => true
  | .clz _ _ => true
  | .ctz _ _ => true
  | .popc _ _ => true
  | .bfx _ _ _ => true
  | .bfi _ _ _ => true
  | .addi _ _ _ => true
  | .andi _ _ _ => true
  | .ori _ _ _ => true
  | .xori _ _ _ => true
  | .slli _ _ imm => decide (imm.value.toNat < 64)
  | .srli _ _ imm => decide (imm.value.toNat < 64)
  | .srai _ _ imm => decide (imm.value.toNat < 64)
  | .slti _ _ _ => true
  | .lih _ _ => true
  | .addpc _ _ => true
  | .beq _ _ _ => true
  | .bne _ _ _ => true
  | .blt _ _ _ => true
  | .bge _ _ _ => true
  | .bltn _ _ _ => true
  | .bgen _ _ _ => true
  | .bbs _ n _ => bitField n
  | .bbc _ n _ => bitField n
  | .jal _ _ => true
  | .jalr _ _ => true
  | .ldd _ _ _ => true
  | .ldw _ _ _ => true
  | .ldh _ _ _ => true
  | .ldb _ _ _ => true
  | .std _ _ _ => true
  | .stw _ _ _ => true
  | .sth _ _ _ => true
  | .stb _ _ _ => true
  | .amoadd _ _ _ _ _ => true
  | .amoswp _ _ _ _ _ => true
  | .amocas _ _ _ _ _ => true
  | .amoand _ _ _ _ _ => true
  | .amoor _ _ _ _ _ => true
  | .amoxor _ _ _ _ _ => true
  | .amomin _ _ _ _ _ => true
  | .amomax _ _ _ _ _ => true
  | .setvl _ _ _ => true
  | .setvlmax _ _ => true
  | .csrr _ _ => true
  | .csrw _ _ => true
  | .csrs _ _ => true
  | .csrc _ _ => true
  | .winsg _ => true
  | .winsv _ => true
  | .lat _ _ => true
  | .vaddVV _ _ _ _ => true
  | .vaddVG _ _ _ _ => true
  | .vsubVV _ _ _ _ => true
  | .vsubVG _ _ _ _ => true
  | .vmulVV _ _ _ _ => true
  | .vmulVG _ _ _ _ => true
  | .vmulhVV _ _ _ _ => true
  | .vmulhVG _ _ _ _ => true
  | .vmaccVV _ _ _ _ => true
  | .vmaccVG _ _ _ _ => true
  | .vandVV _ _ _ _ => true
  | .vandVG _ _ _ _ => true
  | .vorVV _ _ _ _ => true
  | .vorVG _ _ _ _ => true
  | .vxorVV _ _ _ _ => true
  | .vxorVG _ _ _ _ => true
  | .vsllVV _ _ _ _ => true
  | .vsllVG _ _ _ _ => true
  | .vsrlVV _ _ _ _ => true
  | .vsrlVG _ _ _ _ => true
  | .vsraVV _ _ _ _ => true
  | .vsraVG _ _ _ _ => true
  | .vminVV _ _ _ _ => true
  | .vminVG _ _ _ _ => true
  | .vmaxVV _ _ _ _ => true
  | .vmaxVG _ _ _ _ => true
  | .vminnVV _ _ _ _ => true
  | .vminnVG _ _ _ _ => true
  | .vmaxnVV _ _ _ _ => true
  | .vmaxnVG _ _ _ _ => true
  | .vsaddVV _ _ _ _ => true
  | .vsaddVG _ _ _ _ => true
  | .vssubVV _ _ _ _ => true
  | .vssubVG _ _ _ _ => true
  | .vseqVV d _ _ _ => maskField d
  | .vseqVG d _ _ _ => maskField d
  | .vsneVV d _ _ _ => maskField d
  | .vsneVG d _ _ _ => maskField d
  | .vsltVV d _ _ _ => maskField d
  | .vsltVG d _ _ _ => maskField d
  | .vsltnVV d _ _ _ => maskField d
  | .vsltnVG d _ _ _ => maskField d
  | .vmergeVV _ _ _ _ => true
  | .vmergeVG _ _ _ _ => true
  | .vmvVV _ _ _ => true
  | .vmvVG _ _ _ => true
  | .vmvVVInverted _ _ => true
  | .vmvVGInverted _ _ => true
  | .vfaddVV _ _ _ _ => true
  | .vfaddVG _ _ _ _ => true
  | .vfsubVV _ _ _ _ => true
  | .vfsubVG _ _ _ _ => true
  | .vfmulVV _ _ _ _ => true
  | .vfmulVG _ _ _ _ => true
  | .vfmaVV _ _ _ _ => true
  | .vfmaVG _ _ _ _ => true
  | .vfnmsVV _ _ _ _ => true
  | .vfnmsVG _ _ _ _ => true
  | .vfminVV _ _ _ _ => true
  | .vfminVG _ _ _ _ => true
  | .vfmaxVV _ _ _ _ => true
  | .vfmaxVG _ _ _ _ => true
  | .vfdivVV _ _ _ _ => true
  | .vfdivVG _ _ _ _ => true
  | .vfsqrt _ _ _ => true
  | .vfrsqrte _ _ _ => true
  | .vfrece _ _ _ => true
  | .vfsgnjVV _ _ _ _ => true
  | .vfsgnjVG _ _ _ _ => true
  | .vfsgnnVV _ _ _ _ => true
  | .vfsgnnVG _ _ _ _ => true
  | .vfsgnxVV _ _ _ _ => true
  | .vfsgnxVG _ _ _ _ => true
  | .vfeqVV d _ _ _ => maskField d
  | .vfeqVG d _ _ _ => maskField d
  | .vfltVV d _ _ _ => maskField d
  | .vfltVG d _ _ _ => maskField d
  | .vfleVV d _ _ _ => maskField d
  | .vfleVG d _ _ _ => maskField d
  | .vfclass _ _ _ => true
  | .vfcvtif _ _ _ => true
  | .vfcvtfi _ _ _ => true
  | .vfcvtw _ _ _ => true
  | .vcvtb _ _ _ => true
  | .vcvtx _ _ _ => true
  | .vbfly _ _ _ _ => true
  | .vbflyc _ _ _ => true
  | .vperm _ _ _ _ => true
  | .vslup _ _ _ _ => true
  | .vsldn _ _ _ _ => true
  | .vcomp _ _ _ => true
  | .vexpd _ _ _ => true
  | .viota _ a _ => maskField a
  | .vid _ _ => true
  | .vredsum _ _ _ => true
  | .vredmax _ _ _ => true
  | .vredmin _ _ _ => true
  | .vfredsum _ _ _ => true
  | .vfredmax _ _ _ => true
  | .vcswi _ _ _ _ => true
  | .vsegsum _ _ b _ => maskField b
  | .vsegscan _ _ b _ => maskField b
  | .mand d a b => maskField d && maskField a && maskField b
  | .mor d a b => maskField d && maskField a && maskField b
  | .mxor d a b => maskField d && maskField a && maskField b
  | .mandn d a b => maskField d && maskField a && maskField b
  | .mnot d a => maskField d && maskField a
  | .mpopc _ a => maskField a
  | .mfirst _ a => maskField a
  | .mtov _ a _ => maskField a
  | .mfrv d _ _ => maskField d
  | .vld _ _ _ => true
  | .vlds _ _ _ _ => true
  | .vldx _ _ _ _ => true
  | .vst _ _ _ => true
  | .vsts _ _ _ _ => true
  | .vstx _ _ _ _ => true
  | .vldff _ _ _ => true
  | .vldnr _ _ _ => true
  | .vldfe _ _ _ => true
  | .vldfec _ _ _ => true
  | .vgl _ _ _ _ => true
  | .vsc _ _ _ _ => true
  | .vldt _ _ _ _ => true
  | .vpf _ _ => true
  | .thnew _ _ => true
  | .thfree _ => true
  | .thacqr _ => true
  | .thacqw _ => true
  | .threl _ => true
  | .thsplit _ _ _ => true
  | .thinfo _ _ => true
  | .macq d => tileField d
  | .mrelz d => tileField d
  | .mzero d => tileField d
  | .mma d _ _ => tileField d
  | .mmai d _ _ => tileField d
  | .mmag d _ _ => tileField d
  | .matv _ a _ => tileField a
  | .mvta d _ _ => tileField d
  | .mlda d _ => tileField d
  | .msta d _ => tileField d
  | .tagst _ _ _ _ => true
  | .tagld _ _ _ _ => true
  | .tcnt _ _ _ _ => true
  | .tclr _ _ _ _ => true
  | .tfill _ _ _ _ => true
  | .tretag _ _ _ _ => true
  | .tinc _ _ _ _ => true
  | .tcomp _ _ _ _ => true
  | .tsum _ _ _ _ => true
  | .rcopy _ _ _ _ => true
  | .rcopys _ _ _ _ => true
  | .rzero _ _ _ _ => true
  | .cpy _ _ _ _ => true
  | .vstrm _ _ _ _ => true
  | .rhist _ _ _ _ => true
  | .rscan _ _ _ _ => true
  | .rsort _ _ _ _ => true
  | .rcomb _ _ _ _ => true
  | .expq _ _ _ => true
  | .exppark _ _ _ _ => true
  | .exppoll _ _ _ _ => true
  | .exprel _ _ _ => true
  | .pgreq _ _ _ => true
  | .tlaunch _ _ _ _ => true
  | .engwait _ _ => true
  | .engtest _ _ => true
  | .commandAccept _ _ => true
  | .commandCompletion _ _ => true
  | .accordPacket _ _ => true
  | .matchAndAct _ _ => true
  | .requestPacket _ => true
  | .readReply _ _ => true
  | .tenureGrant _ => true
  | .dispatchRound _ => true
  | .pauseExpiry _ => true
  | .idleExpiry _ => true
  | .tqreplayReplay _ _ => true
  | .tqreplayAnswer _ _ => true
  | .tqreplayDeliver _ _ => true
  | .tqreplayEnd _ _ => true
  | .tqcfgWrite _ _ => true
  | .tqptrHeadWrite _ _ => true
  | .expertFetchDone _ _ => true
  | .expertFetchFailure _ _ => true
  | .evictionEnd _ _ => true
  | .expdoneWrite _ _ => true
  | .harptrHeadWrite _ _ => true
  | .ertcfgWrite _ _ => true
  | .exppoolWrite _ _ => true
  | .townctlAssign _ _ _ _ => true
  | .townctlRelease _ _ _ => true
  | .ownershipRowChange _ => true
  | .qcfgWrite _ _ => true
  | .qtailWrite _ _ => true
  | .doorbell _ _ _ => true
  | .l2wqWrite _ _ _ => true
  | .dirqWrite _ _ _ => true
  | .ctxpoolWrite _ _ _ => true
  | .lanedisWrite _ _ _ => true
  | .hdmbaseWrite _ _ _ => true
  | .hdmctlWrite _ _ _ => true
  | .apbaseWrite _ _ => true
  | .apctlWrite _ _ => true
  | .splitWrite _ _ => true
  | .managementRegisterWrite _ _ _ => true
  | .vfFunctionLevelReset _ => true
  | .bringUp => true
  | .refresh _ _ _ => true
  | .patrolScrub _ _ _ => true
  | .stackTemperatureHigh _ => true
  | .activationCountBackOff _ _ _ => true
  | .criticalTemperature _ => true
  | .selfRefreshExit _ => true
  | .islandClockLowering _ _ _ => true
  | .dieTemperatureStop _ => true
  | .dieFailure _ => true
  | .linkLevelReplay _ => true
  | .pathFailure _ => true
  | .pathTimeout _ => true
  | .bruronLinkPacket _ _ _ => true
  | .packetAcknowledgement _ _ => true
  | .hostAccess _ _ => true
  | .backInvalidateSnoop _ _ => true
  | .unassignedFunctionCode _ => true
  | .lPrefixMisplaced => true
  | .unpairedVcvtbc _ _ => true
  | .softError _ => true
  | .stackTemperatureNormal _ => true
  | .islandClockRaise _ _ _ => true
  | .tenantRemoval _ => true
  | .attestationRequest _ => true

/-- Has the row an encoding? The events of the device have none. -/
def Instr.encodable (i : Instr) : Bool := !(encode i).isEmpty

end Sys2Proof
end

