-- ==== Sys2Proof/Certificates/Slice0/Obligations.lean ====
section
/-! DEFINITION. The statements for the provers, with the tables of the spec that they name. -/

open Sys2Proof Sys2Proof.Machine

namespace Sys2Proof.Claims

/-! ### Tables of scalar results (R97) -/

/-- ALU instructions on two sources with their results, written over the integers. -/
def aluRows : List ((BitVec 7 → BitVec 7 → Src → Instr) × (Dword → Dword → Dword)) :=
  [(.add, fun x y => BitVec.ofNat 64 (x.toNat + y.toNat)),
   (.sub, fun x y => BitVec.ofInt 64 (x.toNat - y.toNat)),
   (.and, fun x y => x &&& y),
   (.or, fun x y => x ||| y),
   (.xor, fun x y => x ^^^ y),
   (.andn, fun x y => x &&& ~~~y),
   (.orn, fun x y => x ||| ~~~y),
   (.sll, fun x y => BitVec.ofNat 64 (x.toNat * 2 ^ (y.toNat % 64))),
   (.srl, fun x y => BitVec.ofNat 64 (x.toNat / 2 ^ (y.toNat % 64))),
   (.sra, fun x y => BitVec.ofInt 64 (x.toInt / 2 ^ (y.toNat % 64))),
   (.ror, fun x y => BitVec.ofNat 64 (x.toNat / 2 ^ (y.toNat % 64) + x.toNat * 2 ^ (64 - y.toNat % 64))),
   (.mul, fun x y => BitVec.ofNat 64 (x.toNat * y.toNat)),
   (.mulh, fun x y => BitVec.ofInt 64 (x.toInt * y.toInt / 2 ^ 64)),
   (.mulhn, fun x y => BitVec.ofNat 64 (x.toNat * y.toNat / 2 ^ 64)),
   (.min, fun x y => if x.toInt ≤ y.toInt then x else y),
   (.max, fun x y => if x.toInt ≤ y.toInt then y else x),
   (.minn, fun x y => if x.toNat ≤ y.toNat then x else y),
   (.maxn, fun x y => if x.toNat ≤ y.toNat then y else x),
   (.slt, fun x y => if x.toInt < y.toInt then 1 else 0),
   (.sltn, fun x y => if x.toNat < y.toNat then 1 else 0),
   (.seq, fun x y => if x.toNat = y.toNat then 1 else 0),
   (.sne, fun x y => if x.toNat = y.toNat then 0 else 1)]

/-- ALUI instructions with their results on g(a) and the immediate. -/
def aluiRows : List ((BitVec 7 → BitVec 7 → Imm11 → Instr) × (Dword → Dword → Dword)) :=
  [(.addi, fun x y => BitVec.ofInt 64 (x.toInt + y.toInt)),
   (.andi, fun x y => x &&& y),
   (.ori, fun x y => x ||| y),
   (.xori, fun x y => x ^^^ y),
   (.slli, fun x y => BitVec.ofNat 64 (x.toNat * 2 ^ (y.toNat % 64))),
   (.srli, fun x y => BitVec.ofNat 64 (x.toNat / 2 ^ (y.toNat % 64))),
   (.srai, fun x y => BitVec.ofInt 64 (x.toInt / 2 ^ (y.toNat % 64))),
   (.slti, fun x y => if x.toInt < y.toInt then 1 else 0)]

/-- Divisions with their results for a divisor that is not 0. -/
def divRows : List ((BitVec 7 → BitVec 7 → Src → Instr) × (Dword → Dword → Dword)) :=
  [(.div, fun x y => BitVec.ofInt 64 (x.toInt.tdiv y.toInt)),
   (.divn, fun x y => BitVec.ofNat 64 (x.toNat / y.toNat)),
   (.rem, fun x y => BitVec.ofInt 64 (x.toInt.tmod y.toInt)),
   (.remn, fun x y => BitVec.ofNat 64 (x.toNat % y.toNat))]

/-- The smallest i64, −2⁶³. -/
abbrev minI64 : Dword := 0x8000000000000000

/-- −1, or all ones. -/
abbrev ones64 : Dword := 0xFFFFFFFFFFFFFFFF

/-- Branches on two registers with their conditions (R101). -/
def branchRows : List ((BitVec 7 → BitVec 7 → Imm11 → Instr) × (Dword → Dword → Prop)) :=
  [(.beq, fun x y => x.toNat = y.toNat),
   (.bne, fun x y => x.toNat ≠ y.toNat),
   (.blt, fun x y => x.toInt < y.toInt),
   (.bge, fun x y => y.toInt ≤ x.toInt),
   (.bltn, fun x y => x.toNat < y.toNat),
   (.bgen, fun x y => y.toNat ≤ x.toNat)]

/-- Scalar loads with their sizes in bytes (R102). -/
def loadRows : List ((BitVec 7 → BitVec 7 → Imm11 → Instr) × Nat) := [(.ldd, 8), (.ldw, 4), (.ldh, 2), (.ldb, 1)]

/-- Scalar stores with their sizes in bytes (R102). -/
def storeRows : List ((BitVec 7 → BitVec 7 → Imm11 → Instr) × Nat) := [(.std, 8), (.stw, 4), (.sth, 2), (.stb, 1)]

/-- AMOs with the doubleword they write, if any, for operand, comparand and old value (R104). -/
def amoRows : List ((BitVec 7 → BitVec 7 → Src → Order → Bool → Instr) × (Dword → Dword → Dword → Option Dword)) :=
  [(.amoadd, fun y _ old => some (BitVec.ofNat 64 (old.toNat + y.toNat))),
   (.amoswp, fun y _ _ => some y),
   (.amocas, fun y cmp old => if old = cmp then some y else none),
   (.amoand, fun y _ old => some (old &&& y)),
   (.amoor, fun y _ old => some (old ||| y)),
   (.amoxor, fun y _ old => some (old ^^^ y)),
   (.amomin, fun y _ old => some (if old.toInt ≤ y.toInt then old else y)),
   (.amomax, fun y _ old => some (if y.toInt ≤ old.toInt then old else y))]

/-- A byte with the stores of a list laid over it in order. -/
def lastStored (ps : List Pending) (x : Loc) (m : Byte) : Byte :=
  ps.foldl (fun m p => if p.loc ≤ x ∧ x < p.loc + p.bytes.length then p.bytes.getD (x - p.loc) 0 else m) m

/-- A thread that a transfer of control has brought to an address, with the line that its arrival checks have read and the size of that line's page
as it is mapped in a state; its links apart, the rest is as it was. -/
def Arrived (s : State) (t u : Thread) (target : BitVec 57) (line : List Byte) : Prop :=
  u = { t with pc := target, arrived := some (target, line), arrivedPage := pageSizeAt s t.agent accFetch target.toNat,
               repeats := t.laterRepeats, links := u.links }

end Sys2Proof.Claims

open Sys2Proof.Claims

/-! ### Encoding -/

/-- Decoding the encoding of a well-formed instruction gives the instruction and its length back. Derived from the formats and codes of
R55 to R78. -/
def Obligations.EncodeRoundTrip : Prop :=
  ∀ i : Instr, i.wf = true → encode i ≠ [] → decode (encode i) [] = .ok (i, (encode i).length)

/-! ### Scalar results -/

/-- R97: each ALU instruction writes the table's result, modulo 2⁶⁴, to g(d), changes nothing else and traps on no operands.
Each ALUI instruction does so with the table's result of g(a) and the immediate. -/
def Obligations.AluResults : Prop :=
  (∀ row ∈ aluRows, ∀ (d a : BitVec 7) (b : Src) (s : State) (t : Thread), Runs s t → Clean t (a :: b.reads) →
     Completes (row.1 d a b) s t fun u => Wrote t u d (row.2 (t.g a) (t.src b)) b.slots) ∧
  (∀ row ∈ aluiRows, ∀ (d a : BitVec 7) (imm : Imm11) (s : State) (t : Thread), Runs s t → Clean t [a] →
     Completes (row.1 d a imm) s t fun u => Wrote t u d (row.2 (t.g a) imm.value) imm.slots)

/-- R97: quotients round toward zero and remainders have the sign of g(a). -/
def Obligations.DivisionResults : Prop :=
  ∀ row ∈ divRows, ∀ (d a : BitVec 7) (b : Src) (s : State) (t : Thread), Runs s t → Clean t (a :: b.reads) → t.src b ≠ 0 →
    Completes (row.1 d a b) s t fun u => Wrote t u d (row.2 (t.g a) (t.src b)) b.slots

/-- R98: division never traps, and the borderline cases give the table's results. -/
def Obligations.DivisionCorners : Prop :=
  ∀ (d a : BitVec 7) (b : Src) (s : State) (t : Thread), Runs s t → Clean t (a :: b.reads) →
    (∀ row ∈ divRows, ∃ v, Completes (row.1 d a b) s t fun u => Wrote t u d v b.slots) ∧
    (t.src b = 0 →
      Completes (.div d a b) s t (fun u => Wrote t u d ones64 b.slots) ∧
      Completes (.divn d a b) s t (fun u => Wrote t u d ones64 b.slots) ∧
      Completes (.rem d a b) s t (fun u => Wrote t u d (t.g a) b.slots) ∧
      Completes (.remn d a b) s t (fun u => Wrote t u d (t.g a) b.slots)) ∧
    (t.g a = minI64 → t.src b = ones64 →
      Completes (.div d a b) s t (fun u => Wrote t u d minI64 b.slots) ∧
      Completes (.divn d a b) s t (fun u => Wrote t u d 0 b.slots) ∧
      Completes (.rem d a b) s t (fun u => Wrote t u d 0 b.slots) ∧
      Completes (.remn d a b) s t (fun u => Wrote t u d minI64 b.slots))

/-- R97: CLZ and CTZ count the zero bits above and below the outermost 1, and POPC the 1 bits; 64 zero bits when g(a) is 0. R100: LIH places its
immediate at bit 16 and ADDPC adds it to the instruction's own address, modulo 2⁶⁴. R115 and R31: CYC reads the count of the thread's own
core, which the model keeps as one number for each core of the package (log 76), and TID the thread's own identifier. -/
def Obligations.UnaryResults : Prop :=
  (∀ (d a : BitVec 7) (s : State) (t : Thread), Runs s t → Clean t [a] →
     (∃ n : Nat, n ≤ 64 ∧ (∀ i, i < n → (t.g a).getLsbD (63 - i) = false) ∧ (n < 64 → (t.g a).getLsbD (63 - n) = true) ∧
       Completes (.clz d a) s t fun u => Wrote t u d (BitVec.ofNat 64 n) 1) ∧
     (∃ n : Nat, n ≤ 64 ∧ (∀ i, i < n → (t.g a).getLsbD i = false) ∧ (n < 64 → (t.g a).getLsbD n = true) ∧
       Completes (.ctz d a) s t fun u => Wrote t u d (BitVec.ofNat 64 n) 1) ∧
     Completes (.popc d a) s t fun u => Wrote t u d (BitVec.ofNat 64 ((List.range 64).filter (t.g a).getLsbD).length) 1) ∧
  (∀ (d : BitVec 7) (imm : Imm20) (s : State) (t : Thread), Runs s t →
     Completes (.lih d imm) s t (fun u => Wrote t u d (BitVec.ofInt 64 (imm.value.toInt * 65536)) imm.slots) ∧
     Completes (.addpc d imm) s t (fun u => Wrote t u d (BitVec.ofInt 64 (t.pc.toNat + imm.value.toInt)) imm.slots)) ∧
  (∀ (d : BitVec 7) (s : State) (t : Thread), Runs s t →
     Completes (.cyc d) s t (fun u => Wrote t u d (BitVec.ofNat 64 (s.cyc.getD t.core 0)) 1) ∧
     Completes (.tid d) s t (fun u => Wrote t u d (BitVec.ofNat 64 t.tid.toNat) 1))

/-- R99: BFX and BFI, bit by bit, for every descriptor. -/
def Obligations.BitFields : Prop :=
  ∀ (d a : BitVec 7) (b : Src) (s : State) (t : Thread), Runs s t → Clean t (d :: a :: b.reads) →
    let y := t.src b
    let pos := (y.extractLsb' 0 6).toNat
    let len := (y.extractLsb' 6 6).toNat + 1
    (∃ v : Dword, (∀ i, i < 64 → v.getLsbD i =
        if i < len then (t.g a).getLsbD (pos + i) else y.getLsbD 12 && (t.g a).getLsbD (pos + len - 1)) ∧
      Completes (.bfx d a b) s t fun u => Wrote t u d v b.slots) ∧
    (∃ v : Dword, (∀ i, i < 64 → v.getLsbD i =
        if pos ≤ i ∧ i < pos + len then (t.g a).getLsbD (i - pos) else (t.g d).getLsbD i) ∧
      Completes (.bfi d a b) s t fun u => Wrote t u d v b.slots)

/-! ### Transfers of control -/

/-- R47, R52, R53: the slot n slots on has the next n-th ordinal, a branch target the ordinal plus the offset, both modulo the address
space's 2⁵⁰ lines, and both are slot addresses. -/
def Obligations.SlotArithmetic : Prop :=
  ∀ (a : BitVec 57) (n : Nat) (off : Dword),
    isSlot (slotAfter a n) = true ∧ ordinal (slotAfter a n) = (ordinal a + n) % (2 ^ 50 * 30) ∧
    isSlot (branchTarget a off) = true ∧ (ordinal (branchTarget a off) : Int) = (ordinal a + off.toInt) % (2 ^ 50 * 30)

/-- R101: a branch whose condition fails falls through and changes nothing else; one whose condition holds continues at its target once
the arrival checks pass. -/
def Obligations.BranchOutcomes : Prop :=
  (∀ row ∈ branchRows, ∀ (a b : BitVec 7) (off : Imm11) (s : State) (t : Thread), Runs s t → Clean t [a, b] →
    (¬ row.2 (t.g a) (t.g b) → Completes (row.1 a b off) s t fun u => Stepped t u off.slots) ∧
    (row.2 (t.g a) (t.g b) → ∀ l, arrive s t .jump false (branchTarget t.pc off.value) = .ok l →
      CompletesA (row.1 a b off) s t l.2 (fun _ => False) fun _ u => Arrived s t u (branchTarget t.pc off.value) l.1)) ∧
  (∀ (a n : BitVec 7) (off : Imm11) (s : State) (t : Thread), Runs s t → Clean t [a] →
    ((t.g a).getLsbD n.toNat = false →
      Completes (.bbs a n off) s t (fun u => Stepped t u off.slots) ∧
      ∀ l, arrive s t .jump false (branchTarget t.pc off.value) = .ok l →
        CompletesA (.bbc a n off) s t l.2 (fun _ => False) fun _ u => Arrived s t u (branchTarget t.pc off.value) l.1) ∧
    ((t.g a).getLsbD n.toNat = true →
      Completes (.bbc a n off) s t (fun u => Stepped t u off.slots) ∧
      ∀ l, arrive s t .jump false (branchTarget t.pc off.value) = .ok l →
        CompletesA (.bbs a n off) s t l.2 (fun _ => False) fun _ u => Arrived s t u (branchTarget t.pc off.value) l.1))

/-- R53, R54: JAL and JALR continue at their targets once the arrival checks pass; with d not 0 they are calls, and g(d) is the return
point. JALR reads its target before the link is written. -/
def Obligations.JumpOutcomes : Prop :=
  ∀ (d : BitVec 7) (s : State) (t : Thread), Runs s t →
    let how : How := if d = 0 then .jump else .call
    (∀ (off : Imm20) l, arrive s t how false (branchTarget t.pc off.value) = .ok l →
      CompletesA (.jal d off) s t l.2 (fun _ => False) fun _ u =>
        WroteG t u d ((slotAfter t.pc off.slots).setWidth 64) ∧
        Arrived s { t with scal := u.scal, badScal := u.badScal } u (branchTarget t.pc off.value) l.1) ∧
    (∀ (a : BitVec 7) l, Clean t [a] → arrive s t how true ((t.g a).extractLsb' 0 57) = .ok l →
      CompletesA (.jalr d a) s t l.2 (fun _ => False) fun _ u =>
        WroteG t u d ((slotAfter t.pc 1).setWidth 64) ∧
        Arrived s { t with scal := u.scal, badScal := u.badScal } u ((t.g a).extractLsb' 0 57) l.1)

/-- R50, R51, R54: a taken branch, a jump or a call whose arrival checks fail on the line traps with a control-flow fault at the transferring
instruction: TRAPADDR is the arrival address, and no register is written. What the reads behind the line do, such as the correctable errors that they
count, stands. A register target that is no slot address takes subcause 0x07. -/
def Obligations.ArrivalFaults : Prop :=
  ∀ (d a b n : BitVec 7) (off : Imm11) (far : Imm20) (s : State) (t : Thread), Runs s t → t.vq = [] → Handles t →
    let how : How := if d = 0 then .jump else .call
    let faulty := fun (i : Instr) (how : How) (target : BitVec 57) =>
      ∀ l sub, fetchLine s t target = .ok l → headerFault how target l.1 = some sub →
        Traps i s (s.noteReads (l.2.elim [] (·.reads))) t fun u => Entered t u 0x02 sub t.pc t.pc (target.setWidth 64) 0
    (Clean t [a] →
      let target := (t.g a).extractLsb' 0 57
      (isSlot target = false → Traps (.jalr d a) s s t fun u => Entered t u 0x02 0x07 t.pc t.pc (target.setWidth 64) 0) ∧
      (isSlot target = true → faulty (.jalr d a) how target)) ∧
    faulty (.jal d far) how (branchTarget t.pc far.value) ∧
    (∀ row ∈ branchRows, Clean t [a, b] → row.2 (t.g a) (t.g b) → faulty (row.1 a b off) .jump (branchTarget t.pc off.value)) ∧
    (Clean t [a] → (t.g a).getLsbD n.toNat = true → faulty (.bbs a n off) .jump (branchTarget t.pc off.value)) ∧
    (Clean t [a] → (t.g a).getLsbD n.toNat = false → faulty (.bbc a n off) .jump (branchTarget t.pc off.value))

/-! ### Scalar memory accesses -/

/-- R102, R103, R247: a load of an aligned address that may be read writes the sign-extended little-endian bytes to g(d). The thread's own
executed stores that share a byte with it perform first, in order, so that it reads what they have stored; for a load of a strongly ordered page so
do its stores to such pages. Without such a store nothing but the load performs. -/
def Obligations.ScalarLoads : Prop :=
  (∀ row ∈ loadRows, ∀ (d a : BitVec 7) (imm : Imm11) (s s1 : State) (t t1 : Thread) (tr tr' : Trans), Runs s t → Clean t [a] →
    (t.g a + imm.value).toNat % row.2 = 0 → scalarHeld s t true false = false →
    locateScalar s t.agent accLoad (t.g a + imm.value) row.2 = .ok tr → Settled s t tr.loc row.2 (tr.kind = 1) s1 t1 →
    readable s1 t.agent accLoad (t.g a + imm.value) tr row.2 (some t.core) = .ok tr' → PortFree s1 t tr →
    CompletesAfter (row.1 d a imm) s s1 t1 tr.entry fun s' u =>
      WroteA t1 u d (BitVec.ofInt 64 (signed (8 * row.2) (leNat (s'.loadBytes tr.loc row.2)))) imm.slots) ∧
  (∀ (s s1 : State) (t t1 : Thread) (l : Loc) (n : Nat) (strong : Bool), s.thread? t.tid = some t → Settled s t l n strong s1 t1 →
    t1 = { t with sbuf := t1.sbuf, links := t1.links } ∧
    ((∀ p ∈ t.sbuf, overlap l n p.loc p.bytes.length = false ∧ ¬ (strong = true ∧ p.kind = 1)) → s1 = s) ∧
    (∀ p ∈ t1.sbuf, overlap l n p.loc p.bytes.length = false ∧ ¬ (strong = true ∧ p.kind = 1)) ∧
    ((∀ p ∈ t.sbuf, ¬ lost s p.loc) → ∀ x, bytesAt l n x → s1.mem.read x = lastStored t.sbuf x (s.mem.read x)))

/-- R102, R103: a store to an aligned address that may be written stores the low bytes of g(d), least significant first, and breaks every
gather link on their lines. That such a store to a peer without a path completes, and that the write is lost, is the model's reading (log 58): R348
says only that accesses to that peer complete as poisoned data. While the thread's stores are held (log 3) a store to any but a strongly ordered page
joins those that have executed, with its page (R120), and changes no memory yet (R247); so does one that a FENCESV puts behind vector or matrix
accesses, which performs after them (R167). A line that is lost takes no store: the poisoned-data trap, subcause 0x05 (R336), for
which the reads of the walk stand. -/
def Obligations.ScalarStores : Prop :=
  ∀ row ∈ storeRows, ∀ (d a : BitVec 7) (imm : Imm11) (s : State) (t : Thread) (tr tr' : Trans), Runs s t → Clean t [d, a] →
    (t.g a + imm.value).toNat % row.2 = 0 → locateScalar s t.agent accStore (t.g a + imm.value) row.2 = .ok tr →
    let va := t.g a + imm.value
    let fenced := scalarHeld s t false true
    (t.vq = [] → Handles t → poisonSub s tr.loc row.2 = some 0x05 →
      Traps (row.1 d a imm) s (s.noteReads tr.reads) t fun u => Entered t u 0x15 0x05 t.pc t.pc va 0) ∧
    (leafHeld s t.tid accStore tr.entry = false → t.sbuf = [] → (t.holdStore = false ∨ tr.kind = 1) → fenced = false → PortFree s t tr →
      writable s t.agent (t.g a + imm.value) tr row.2 = .ok tr' →
      CompletesA (row.1 d a imm) s t tr.entry (bytesAt tr.loc row.2) fun s' u =>
        SteppedA { t with stores := t.stores + 1 } u imm.slots ∧
        (¬ lost s tr.loc → s'.loadBytes tr.loc row.2 = leBytes row.2 (t.g d).toNat ∧ LinksBroken s' tr.loc row.2)) ∧
    (poisonSub s tr.loc row.2 ≠ some 0x05 → leafHeld s t.tid accStore tr.entry = false → (t.holdStore = true ∧ tr.kind ≠ 1 ∨ fenced = true) →
      CompletesA (row.1 d a imm) s t tr.entry (fun _ => False) fun _ u =>
        u.sbuf = t.sbuf ++ [{ seq := t.stores, loc := tr.loc, bytes := leBytes row.2 (t.g d).toNat, kind := tr.kind, streaming := tr.streaming,
                              page := tr.entry.map fun _ => (va.toNat, pageSizeAt s t.agent accStore va.toNat, t.atp.extractLsb' 44 16),
                              afterVl := t.fences.ssVl, afterVs := t.fences.ssVs }] ∧
        SteppedA { t with stores := t.stores + 1, sbuf := u.sbuf } u imm.slots)

/-- R102: an access whose address is not a multiple of its size takes the misaligned-access trap before anything else, with the address in
TRAPADDR. Past the 1.5 MiB of the scratchpad its window is an access without permission, subcause 0x02; so is an address of the scratchpad
outside the crew's range (R225). -/
def Obligations.FaultingAccesses : Prop :=
  (∀ (d a : BitVec 7) (imm : Imm11) (s : State) (t : Thread), Runs s t → Clean t [d, a] → t.vq = [] → Handles t →
     ∀ row ∈ loadRows ++ storeRows, (t.g a + imm.value).toNat % row.2 ≠ 0 →
       Traps (row.1 d a imm) s s t fun u => Entered t u 0x03 0x00 t.pc t.pc (t.g a + imm.value) 0) ∧
  (∀ (d a : BitVec 7) (imm : Imm11) (s : State) (t : Thread), Runs s t → Clean t [d, a] → t.vq = [] → Handles t →
     scalarHeld s t true true = false → ∀ row ∈ loadRows ++ storeRows, (t.g a + imm.value).toNat % row.2 = 0 →
       0x00FFFF0000000000 ≤ (t.g a + imm.value).toNat → (t.g a + imm.value).toNat ≤ 0x00FFFF0000FFFFFF →
       ((t.g a + imm.value).toNat < 0x00FFFF0000000000 + t.spadLo ∨
         0x00FFFF0000000000 + t.spadLo + t.spadLen < (t.g a + imm.value).toNat + row.2 ∨
         0x00FFFF0000180000 ≤ (t.g a + imm.value).toNat) →
       Traps (row.1 d a imm) s s t fun u => Entered t u 0x04 0x02 t.pc t.pc (t.g a + imm.value) 0)

/-- R102: what a store puts into the crew's own scratchpad range, the load of the same size and address reads back, sign-extended. -/
def Obligations.StoreThenLoad : Prop :=
  ∀ pair ∈ storeRows.zip loadRows, ∀ (d e a : BitVec 7) (imm : Imm11) (s : State) (t : Thread), Runs s t → Clean t [d, a] →
    t.sbuf = [] → t.holdStore = false → scalarHeld s t true true = false →
    (t.g a + imm.value).toNat % pair.1.2 = 0 →
    0x00FFFF0000000000 + t.spadLo ≤ (t.g a + imm.value).toNat →
    (t.g a + imm.value).toNat + pair.1.2 ≤ 0x00FFFF0000000000 + t.spadLo + t.spadLen →
    (t.g a + imm.value).toNat + pair.1.2 ≤ 0x00FFFF0000180000 →
    s.poison = [] →
    ∃ s1 s2 u, exec (pair.1.1 d a imm) s = .next s1 ∧ exec (pair.2.1 e a imm) s1 = .next s2 ∧ s2.thread? t.tid = some u ∧
      (e ≠ 0 → u.g e = BitVec.ofInt 64 (signed (8 * pair.1.2) (t.g d).toNat))

/-! ### Atomic accesses -/

/-- R104, R105: an AMO reads the doubleword, writes the new value of its row to it where there is one, and the old value to g(d); every
link on the line breaks. Operands are an aligned address that may be read and written; the thread has nothing outstanding, and a release to
a peer awaits no acknowledgement (R257); the core's port can send (R234). -/
def Obligations.AtomicOperations : Prop :=
  ∀ row ∈ amoRows, ∀ (d a : BitVec 7) (b : Src) (o : Order) (dev : Bool) (s : State) (t : Thread) (tr : Trans), Runs s t →
    Clean t (d :: a :: b.reads) → AtRest s t → atomicLoc s t (t.g a) accAmo = .ok tr →
    awaitsAcks s (releases o && dev) tr.loc = false → PortFree s t tr →
    let old := (s.markLeaf accAmo tr.entry).mem64 tr.loc
    CompletesA (row.1 d a b o dev) s t tr.entry (bytesAt tr.loc 8) fun s' u =>
      WroteA t u d old b.slots ∧ s'.mem64 tr.loc = (row.2 (t.src b) (t.g d) old).getD old ∧ LinksBroken s' tr.loc 8

/-- R104, R110, R112, R113: atomic accesses to an address that is no multiple of 8 take the misaligned-access trap. -/
def Obligations.MisalignedAtomics : Prop :=
  ∀ (d a : BitVec 7) (b : Src) (o : Order) (dev : Bool) (s : State) (t : Thread), Runs s t → Clean t (d :: a :: b.reads) →
    AtRest s t → Handles t → t.wait ≠ .unreachable → (t.g a).toNat % 8 ≠ 0 →
    (∀ row ∈ amoRows, Traps (row.1 d a b o dev) s s t fun u => Entered t u 0x03 0x00 t.pc t.pc (t.g a) 0) ∧
    Traps (.bara a) s s t (fun u => Entered t u 0x03 0x00 t.pc t.pc (t.g a) 0) ∧
    Traps (.barw a b) s s t (fun u => Entered t u 0x03 0x00 t.pc t.pc (t.g a) 0) ∧
    Traps (.pubwm d a) s s t (fun u => Entered t u 0x03 0x00 t.pc t.pc (t.g a) 0) ∧
    Traps (.waitwm d a) s s t (fun u => Entered t u 0x03 0x00 t.pc t.pc (t.g a) 0)

/-- R110: BARA adds 1 to the counter, modulo 2⁶⁴, and goes on. BARW, which waits for no store of its own but those that its read of the counter
follows (R247), goes on once the counter has reached its bound as n64.
R110, R111: a BARW whose counter is below its bound waits at its own address, noted as a waiter on that counter; when the arrivals it
still needs exceed the live threads of its gang that do not wait on the same counter, it is to trap instead.
A waiter that can no longer be reached takes the barrier-unreachable trap at the BARW. -/
def Obligations.CountBarriers : Prop :=
  (∀ (a : BitVec 7) (b : Src) (s : State) (t : Thread) (tr : Trans), Runs s t → Clean t (a :: b.reads) →
     (AtRest s t → atomicLoc s t (t.g a) accAmo = .ok tr → awaitsAcks s true tr.loc = false → PortFree s t tr →
       CompletesA (.bara a) s t tr.entry (bytesAt tr.loc 8) fun s' u =>
         SteppedA t u 1 ∧ s'.mem64 tr.loc = (s.markLeaf accAmo tr.entry).mem64 tr.loc + 1 ∧ LinksBroken s' tr.loc 8) ∧
     (∀ s1 t1, t.vq = [] → matrixOf s t.tid = [] → atomicLoc s t (t.g a) accLoad = .ok tr → Settled s t tr.loc 8 (tr.kind = 1) s1 t1 →
       PortFree s1 t tr → t.wait ≠ .unreachable → (t.src b).toNat ≤ ((s1.markLeaf accLoad tr.entry).mem64 tr.loc).toNat →
       CompletesAfter (.barw a b) s s1 t1 tr.entry fun _ u => SteppedA { t1 with wait := .none } u b.slots)) ∧
  ((∀ (a : BitVec 7) (b : Src) (s : State) (t : Thread) (tr : Trans), Runs s t → Clean t (a :: b.reads) → AtRest s t →
      t.wait ≠ .unreachable → t.wait ≠ .barw tr.loc (t.src b) → atomicLoc s t (t.g a) accLoad = .ok tr → PortFree s t tr →
      ((s.markLeaf accLoad tr.entry).mem64 tr.loc).toNat < (t.src b).toNat →
      ∃ s' u, exec (.barw a b) s = .next s' ∧ s'.thread? t.tid = some u ∧
        u = { t with links := u.links, wait := u.wait } ∧
        u.wait = (if (s.threads.filter fun v => sameGang t v && !waitsAt tr.loc v && v.tid != t.tid).length <
            (t.src b).toNat - ((s.markLeaf accLoad tr.entry).mem64 tr.loc).toNat
          then .unreachable else .barw tr.loc (t.src b)) ∧
        (∀ x, some x ≠ tr.entry.map (·.loc) → s'.mem.read x = s.mem.read x)) ∧
   (∀ (a : BitVec 7) (b : Src) (s : State) (t : Thread), Runs s t → Clean t (a :: b.reads) → t.vq = [] → Handles t →
      t.wait = .unreachable →
      Traps (.barw a b) s s t fun u => Entered t u 0x14 0x00 t.pc t.pc 0 0))

/-- R112, R113: PUBWM raises the word to g(d) where g(d) exceeds it as n64 and else writes nothing; WAITWM goes on once the word, which it reads
after the thread's own stores to it, has reached g(d), and waits before that. -/
def Obligations.Watermarks : Prop :=
  ∀ (d a : BitVec 7) (s : State) (t : Thread) (tr : Trans), Runs s t → Clean t [d, a] →
    (AtRest s t → atomicLoc s t (t.g a) accAmo = .ok tr → awaitsAcks s true tr.loc = false → PortFree s t tr →
      CompletesA (.pubwm d a) s t tr.entry (bytesAt tr.loc 8) fun s' u =>
        SteppedA t u 1 ∧
        (s'.mem64 tr.loc).toNat = max (t.g d).toNat ((s.markLeaf accAmo tr.entry).mem64 tr.loc).toNat) ∧
    (∀ s1 t1, atomicLoc s t (t.g a) accLoad = .ok tr → Settled s t tr.loc 8 (tr.kind = 1) s1 t1 → PortFree s1 t tr →
      ((t.g d).toNat ≤ ((s1.markLeaf accLoad tr.entry).mem64 tr.loc).toNat →
        CompletesAfter (.waitwm d a) s s1 t1 tr.entry fun _ u => SteppedA t1 u 1) ∧
      (((s1.markLeaf accLoad tr.entry).mem64 tr.loc).toNat < (t.g d).toNat →
        CompletesAfter (.waitwm d a) s s1 t1 tr.entry fun _ u => u = { t1 with links := u.links }))

/-! ### Instructions that order, wait or do nothing -/

/-- R62, R106, R107, R166, R167: NOP and every HINT change nothing but the pc; so do a FENCE without eng and sc whose before or after set is
empty, and a FENCESV of such a type. A FENCE of a thread with nothing outstanding completes, one with eng once no command of the thread has a
write left, and until then it holds the thread at its address. FENCESV never waits; from then on scalar accesses of its after kinds perform only
after the vector accesses of its before kinds that were pushed earlier (DIR 0), for which a load waits and a store executes and performs later, and
vector accesses of its after kinds, pushed later, wait for the scalar stores before it (DIR 1). -/
def Obligations.Fences : Prop :=
  (∀ (s : State) (t : Thread), Runs s t →
     Completes .nop s t (fun u => Stepped t u 1) ∧
     (∀ n d a b, Completes (.hint n d a b) s t fun u => Stepped t u 1) ∧
     (∀ kinds scope : BitVec 7, kinds.getLsbD 4 = false → kinds.getLsbD 6 = false →
       (kinds.getLsbD 0 = false ∧ kinds.getLsbD 1 = false ∨ kinds.getLsbD 2 = false ∧ kinds.getLsbD 3 = false) →
       Completes (.fence kinds scope) s t fun u => Stepped t u 1) ∧
     (∀ kind : BitVec 7,
       (kind.getLsbD 0 = false ∧ kind.getLsbD 1 = false ∨ kind.getLsbD 2 = false ∧ kind.getLsbD 3 = false) →
       Completes (.fencesv kind) s t fun u => Stepped t u 1)) ∧
  (∀ (kinds scope : BitVec 7) (s : State) (t : Thread), Runs s t → AtRest s t →
     (kinds.getLsbD 4 = false ∨ (∀ c ∈ s.commands, c.tid = t.tid → c.mayWrite = false) →
       Completes (.fence kinds scope) s t fun u => Stepped t u 1) ∧
     (kinds.getLsbD 4 = true → (∃ c ∈ s.commands, c.tid = t.tid ∧ c.mayWrite = true) → exec (.fence kinds scope) s = .next s)) ∧
  (∀ (kind : BitVec 7) (s : State) (t : Thread), Runs s t →
     Completes (.fencesv kind) s t fun u =>
       Stepped { t with fences := u.fences } u 1 ∧
       (kind.getLsbD 4 = false → (kind.getLsbD 2 = true ∨ kind.getLsbD 3 = true) →
         (∃ e ∈ t.vq, e.order < t.order ∧ e.accesses (kind.getLsbD 0) (kind.getLsbD 1) = true) →
         ∀ s', scalarHeld s' u (kind.getLsbD 2) (kind.getLsbD 3) = true) ∧
       (kind.getLsbD 4 = true → kind.getLsbD 1 = true → ∀ (op : VMemOp) (d b : BitVec 7),
         (if op.stores then kind.getLsbD 3 else kind.getLsbD 2) = true → pushWait u (.mem op d b) = t.stores))

/-- R117: on a die that runs, YIELD marks the thread, and until the round ends it has no turn while another thread of its core that has not
yielded can issue, but where the device is free to find that one not ready in the cycle (log 17); otherwise it stands behind none. PAUSE stalls
for 64 counts of its core's CYC, and IDLE until the thread holds a ticket whose status waits to be collected or 65,536 counts have passed;
PAUSE_EXPIRY and IDLE_EXPIRY bring the count to that bound (log 65). None changes a register. On a die that has stopped no count passes (log 90). -/
def Obligations.Pauses : Prop :=
  ∀ (s : State) (t : Thread), Runs s t → s.stoppedDies.mem t.die.toNat = false →
    Completes .yield s t (fun u => Stepped { t with yielded := true } u 1) ∧
    (t.yielded = true → Config.freeChoice s.steps = false →
      (∃ v ∈ s.threads, v.tid ≠ t.tid ∧ v.core = t.core ∧ v.yielded = false ∧ runnable s v = true) → nextThread s ≠ some t) ∧
    (t.yielded = false ∨ (∀ v ∈ s.threads, v.tid ≠ t.tid → v.core = t.core → v.yielded = true ∨ runnable s v = false) →
      standsBehind s t = false) ∧
    (t.wait = .none → Completes .pause s t fun u => u = { t with wait := .pause (s.cyc.getD t.core 0) false }) ∧
    (∀ c, t.wait = .pause c false →
      (∃ s' u, exec (.pauseExpiry t.tid) s = .next s' ∧ s'.thread? t.tid = some u ∧ u = { t with wait := .pause c true } ∧
        (t.core < s.cyc.length → c + 64 ≤ s'.cyc.getD t.core 0)) ∧
      exec .pause s = .next s) ∧
    (∀ c, t.wait = .pause c true →
      Completes .pause s t fun u => Stepped { t with wait := .none } u 1) ∧
    ((∃ k ∈ t.tickets, k.status ≠ none) →
      Completes .idle s t fun u => Stepped { t with wait := .none } u 1) ∧
    ((∀ k ∈ t.tickets, k.status = none) →
      (t.wait = .none → Completes .idle s t fun u => u = { t with wait := .idle (s.cyc.getD t.core 0) false }) ∧
      (∀ c, t.wait = .idle c false →
        (∃ s' u, exec (.idleExpiry t.tid) s = .next s' ∧ s'.thread? t.tid = some u ∧ u = { t with wait := .idle c true } ∧
          (t.core < s.cyc.length → c + 65536 ≤ s'.cyc.getD t.core 0)) ∧
        exec .idle s = .next s) ∧
      (∀ c, t.wait = .idle c true →
        Completes .idle s t fun u => Stepped { t with wait := .none } u 1))

/-! ### Traps -/

/-- R118, R320: once the older vector instructions have committed and none is left, TRAP n enters the handler with cause 0x16 and subcause n, and
BRK, where no debugger is enabled for the tenant, with cause 0x18. TRAPPC is the instruction's own address and TRAPSAVE the next. -/
def Obligations.ProgramTraps : Prop :=
  ∀ (s s1 : State) (t u : Thread), Runs s t → drainVector s t = (s1, .committed) → s1.thread? t.tid = some u → u.vq = [] → Handles u →
    (∀ n : BitVec 7, Traps (.trap n) s s1 u fun v => Entered u v 0x16 (n.setWidth 8) u.pc (slotAfter t.pc 1) 0 0) ∧
    (s.debuggers.mem t.tenant.toNat = false →
      Traps .brk s s1 u fun v => Entered u v 0x18 0x00 u.pc (slotAfter t.pc 1) 0 0) ∧
    (s.debuggers.mem t.tenant.toNat = true →
      Traps .brk s s1 u fun v => v.wait = .debugger ∧ v.pc = slotAfter u.pc 1 ∧ v.trap.cause = 0x18 ∧ v.trap.pc = u.pc ∧
        v.trap.save = slotAfter u.pc 1 ∧ v = { u with wait := .debugger, pc := v.pc, trap := v.trap })

/-- R118, R331, R333: ECALL waits for its answer at the next instruction, with cause 0x17 in the trap registers; while its tenant's trap
queue has a place besides the last, a record is queued and TAIL advances, and without one the overflow is counted. While a claim holds the
record's write back, the record waits to be written (R262; log 52). No register of the thread changes. -/
def Obligations.SystemCalls : Prop :=
  ∀ (s : State) (t : Thread), Runs s t → t.vq = [] → t.repeats = [] →
    ∃ s' u, exec .ecall s = .next s' ∧ s'.thread? t.tid = some u ∧
      u.trap.cause = 0x17 ∧ u.trap.pc = t.pc ∧ u.trap.save = slotAfter t.pc 1 ∧ u.trap.elem = 0 ∧ u.pc = slotAfter t.pc 1 ∧
      (∃ r, u.replay = some r ∧ r.queued = decide (recordCount s t.tenant + 1 < tqSize s t.tenant) ∧ r.count = 0 ∧ r.saved = t.trap) ∧
      u = { t with trap := u.trap, pc := u.pc, replay := u.replay, links := u.links, noAhead := false } ∧ tqHead s' t.tenant = tqHead s t.tenant ∧
      (recordCount s t.tenant + 1 < tqSize s t.tenant → recordHeld s t.tenant = false →
        tqTail s' t.tenant = (tqTail s t.tenant + 1) % 65536) ∧
      (recordCount s t.tenant + 1 < tqSize s t.tenant → recordHeld s t.tenant = true →
        recordCount s' t.tenant = recordCount s t.tenant + 1 ∧ tqTail s' t.tenant = tqTail s t.tenant) ∧
      (tqSize s t.tenant ≤ recordCount s t.tenant + 1 → tqTail s' t.tenant = tqTail s t.tenant ∧
        (s'.mreg 0 (offTq t.tenant + 16)).getLsbD 0 = true)

/-- R63, R140: an encoding that is no instruction takes the illegal-instruction trap at its own address, with the subcause of the row it falls
under: 0x03 for a misplaced prefix. A VCVTBC without its VBFLYC has subcause 0x14, or the lowest of the others that hold for it as well: its group
passes v127 (0x04), the format is not FP32 (0x05), its group is no multiple of G (0x07). -/
def Obligations.IllegalEncodings : Prop :=
  ∀ (s : State) (t : Thread), Runs s t → t.vq = [] → Handles t →
    (∀ sub : BitVec 8, Traps (.unassignedFunctionCode sub) s s t fun u => Entered t u 0x01 sub t.pc t.pc 0 0) ∧
    Traps .lPrefixMisplaced s s t (fun u => Entered t u 0x01 0x03 t.pc t.pc 0 0) ∧
    (∀ (d : BitVec 7) (m : Bool),
      let sub : BitVec 8 := if 128 < d.toNat + vtGroup t.vtype then 0x04 else if vtFmt t.vtype ≠ 2 then 0x05
        else if d.toNat % vtGroup t.vtype ≠ 0 then 0x07 else 0x14
      Traps (.unpairedVcvtbc d m) s s t fun u => Entered t u 0x01 sub t.pc t.pc 0 0)

/-- R242, R334: an ALU, ALUI, load or store instruction whose g(a) is poisoned takes the poisoned-data trap, subcause 0x02, and writes nothing. -/
def Obligations.PoisonedOperands : Prop :=
  ∀ (d a : BitVec 7) (b : Src) (imm : Imm11) (s : State) (t : Thread), Runs s t → t.badG a = true → t.vq = [] → Handles t →
    ∀ i ∈ aluRows.map (fun row => row.1 d a b) ++ divRows.map (fun row => row.1 d a b) ++ aluiRows.map (fun row => row.1 d a imm) ++
        loadRows.map (fun row => row.1 d a imm) ++ storeRows.map (fun row => row.1 d a imm),
      Traps i s s t fun u => Entered t u 0x15 0x02 t.pc t.pc 0 0

/-- R32, R320, R329: TRAP by a thread that is in its handler, or has none, is fatal: with no executed store left and room in the trap queue the
thread ends and its record is queued. -/
def Obligations.FatalTraps : Prop :=
  ∀ (n : BitVec 7) (s : State) (t : Thread), Runs s t → t.vq = [] → t.sbuf = [] → (t.inHandler = true ∨ t.trapVec = 0) →
    recordCount s t.tenant < tqSize s t.tenant → recordHeld s t.tenant = false →
    ∃ s' u, exec (.trap n) s = .next s' ∧ s'.thread? t.tid = none ∧ u ∈ s'.ended ∧ u.tid = t.tid ∧
      u.trap.cause = 0x8000000000000016 ||| (n.setWidth 64 <<< 8) ∧ tqTail s' t.tenant = (tqTail s t.tenant + 1) % 65536

/-- R119, R321: ERET in the handler, once the handler's vector instructions are done, resumes at TRAPSAVE after the arrival checks, restores
VL, VTYPE, VSTART, VWB, SWB and the held vector instructions, and ends the handler. FCSR, XCLS, the masks and the matrix registers keep what
the handler left. Outside the handler it is illegal, subcause 0x10. -/
def Obligations.ReturnFromTrap : Prop :=
  (∀ (s : State) (t : Thread) (c : Snapshot) l, Runs s t → t.inHandler = true → t.vq = [] → t.snapshot = some c →
    arrive s t .eret true t.trap.save = .ok l →
    CompletesA .eret s t l.2 (fun _ => False) fun _ u =>
      u.pc = t.trap.save ∧ u.inHandler = false ∧ u.vl = c.vl ∧ u.vtype = c.vtype ∧ u.vstart = c.vstart ∧ u.vwb = c.vwb ∧ u.swb = c.swb ∧
      u.vq = c.vq ∧
      u = { t with pc := u.pc, arrived := some (u.pc, l.1), arrivedPage := pageSizeAt s t.agent accFetch u.pc.toNat,
                     inHandler := false, snapshot := none, vl := u.vl, vtype := u.vtype,
                   vstart := u.vstart, vwb := u.vwb, swb := u.swb, vq := u.vq, epoch := u.epoch, links := u.links }) ∧
  (∀ (s : State) (t : Thread), Runs s t → t.inHandler = false → t.trapVec ≠ 0 → t.vq = [] →
    Traps .eret s s t fun u => Entered t u 0x01 0x10 t.pc t.pc 0 0)

/-! ### Ends and barriers -/

/-- R9, R114, R116: EXIT of a thread with nothing outstanding ends it: it leaves the machine's threads, its tenures are released, the
accumulator tiles it owned are free and zero, and its state returns to system software. KILL of another thread of the tenant without an
accord or executed stores ends that one and goes on; while the target has an accord in flight KILL waits and the target is to end, and KILL waits
for one that a fatal trap has ended, until its record has entered (R333); KILL of a thread of another tenant, of no thread, or with a reserved
bit set does nothing and goes on. -/
def Obligations.ThreadEnds : Prop :=
  (∀ (s : State) (t : Thread), Runs s t → AtRest s t →
    ∃ s', exec .exit s = .next s' ∧ s'.thread? t.tid = none ∧ t ∈ s'.ended ∧ (∀ c ∈ s'.claims, c.tid ≠ t.tid) ∧
      (∀ z, Sparse.get 0 s.accOwner (t.core * 2 + z) = t.tid.toNat + 1 → z < 2 →
        Sparse.get 0 s'.accOwner (t.core * 2 + z) = 0 ∧ ∀ row col, row < 128 → col < 512 → accGet s'.acc (t.core * 2 + z) row col = 0)) ∧
  (∀ (a : BitVec 7) (s : State) (t u : Thread), Runs s t → Clean t [a] → s.thread? ((t.g a).extractLsb' 0 32) = some u →
    u.tid ≠ t.tid → u.tenant = t.tenant → field (t.g a) 32 32 = 0 → field (t.g a) 11 5 = 0 → u.sbuf = [] →
    let dying : Prop := ∃ f n, u.wait = .dying f n
    (¬ dying → (∀ x ∈ s.accords, x.tid ≠ u.tid) →
      ∃ s' v, exec (.kill a) s = .next s' ∧ s'.thread? u.tid = none ∧ s'.thread? t.tid = some v ∧ v.pc = slotAfter t.pc 1 ∧
        (∀ r, v.g r = t.g r)) ∧
    (¬ dying → (∃ x ∈ s.accords, x.tid = u.tid) →
      ∃ s' v w, exec (.kill a) s = .next s' ∧ s'.thread? u.tid = some w ∧
        w = { u with wait := .killed, replay := none, vq := u.interrupted.vq, noAhead := false } ∧
        s'.thread? t.tid = some v ∧ v = { t with wait := .killing u.tid }) ∧
    (dying → Completes (.kill a) s t fun v => v = { t with wait := .killing u.tid })) ∧
  (∀ (a : BitVec 7) (s : State) (t : Thread), Runs s t → Clean t [a] →
    (field (t.g a) 32 32 ≠ 0 ∨ field (t.g a) 11 5 ≠ 0 ∨ (∀ u, s.thread? ((t.g a).extractLsb' 0 32) = some u → u.tenant ≠ t.tenant)) →
    Completes (.kill a) s t fun u => (u.wait = t.wait ∨ u.wait = .none) ∧ Stepped { t with wait := u.wait } u 1)

/-- R109: a thread with nothing outstanding leaves a barrier of its crew or gang at once when every other live member waits there, and those
leave with it; while some member has not arrived it waits at the barrier. -/
def Obligations.Barriers : Prop :=
  ∀ row ∈ [(Instr.barc, sameCrew, Wait.barc), (Instr.barg, sameGang, Wait.barg)],
    ∀ (s : State) (t : Thread), Runs s t → AtRest s t → t.wait = .none →
      ((∀ v ∈ s.threads, row.2.1 t v = true → v.tid ≠ t.tid → v.wait = row.2.2 false) →
        ∃ s' u, exec row.1 s = .next s' ∧ s'.thread? t.tid = some u ∧ Stepped t u 1 ∧
          (∀ v ∈ s'.threads, row.2.1 t v = true → v.tid ≠ t.tid → v.wait = row.2.2 true)) ∧
      ((∃ v ∈ s.threads, row.2.1 t v = true ∧ v.tid ≠ t.tid ∧ v.wait ≠ row.2.2 false) →
        Completes row.1 s t fun u => u = { t with wait := row.2.2 false })

/-! ### Address space -/

/-- R120, R324: at supervisor level ASW of a value whose MODE is 10 writes ATP and breaks the thread's link set; any other MODE is illegal,
subcause 0x16; at user level ASW is illegal, subcause 0x11. -/
def Obligations.AddressSpaceSwitch : Prop :=
  ∀ (a : BitVec 7) (s : State) (t : Thread), Runs s t → Clean t [a] → AtRest s t →
    (t.sup = true → field (t.g a) 60 4 = 10 →
      Completes (.asw a) s t fun u => u.atp = t.g a ∧ (∀ k ∈ u.links, k.intact = false) ∧ u.links.map (·.line) = t.links.map (·.line) ∧
        Stepped { t with atp := u.atp, links := u.links } u 1) ∧
    (t.sup = true → field (t.g a) 60 4 ≠ 10 → Handles t →
      Traps (.asw a) s s t fun u => Entered t u 0x01 0x16 t.pc t.pc 0 0) ∧
    (t.sup = false → Handles t → Traps (.asw a) s s t fun u => Entered t u 0x01 0x11 t.pc t.pc 0 0)

/-- R48, R120: TLBI drops the cached translations of the page of g(a), or of all pages for a = 0, and the issuing core's fetched copies of its
lines, with the lines in which its other threads have arrived; at supervisor level for ASID g(b), or all for b = 0, on every translator of the
device, at user level for the thread's own ASID on its core. What it does not cover stays. It waits for an accord that holds a translation which
it covers (R297), and for an engine command of the thread that keeps one (R120, R245). At user level a named ASID is illegal, subcause 0x11. That
a prefix beside a field of 0 names none (log 77), that copies go by the whole page of their leaf (log 71) and that leaves with G are kept for
each ASID (log 92) are the model's choices. -/
def Obligations.TranslationInvalidation : Prop :=
  ∀ (a : BitVec 7) (b : Src) (s : State) (t : Thread), Runs s t → Clean t (a :: b.reads) → AtRest s t →
    let named : Prop := b.field ≠ 0
    let ofPage := fun (va size : Nat) => a = 0 ∨ (t.g a).toNat % 2 ^ 57 / size = va % 2 ^ 57 / size
    let ofAsid := fun (x : BitVec 16) => if t.sup then ¬ named ∨ x = (t.src b).extractLsb' 0 16 else x = t.atp.extractLsb' 44 16
    let waits := (∃ x ∈ s.accords, ∃ p ∈ x.pages, ofPage p.1 p.2 ∧ ofAsid x.asid) ∨
      ∃ c ∈ s.commands, c.tid = t.tid ∧ ∃ p ∈ c.pages, ofPage p.1 p.2 ∧ ofAsid (c.atp.extractLsb' 44 16)
    ((t.sup = true ∨ ¬ named) → waits → exec (.tlbi a b) s = .next s) ∧
    ((t.sup = true ∨ ¬ named) → ¬ waits →
      ∃ s' u, exec (.tlbi a b) s = .next s' ∧ s'.thread? t.tid = some u ∧ Stepped t u b.slots ∧
        (∀ c, c ∈ s'.leaves ↔ c ∈ s.leaves ∧
          ¬ ((t.sup = true ∨ c.unit = t.core) ∧ ofPage (c.va * leafSize c.level) (leafSize c.level) ∧ ofAsid c.asid)) ∧
        (∀ c, c ∈ s'.fetchCopies ↔ c ∈ s.fetchCopies ∧ ¬ (c.core = t.core ∧ ofPage c.va c.page ∧ ofAsid c.asid)) ∧
        (∀ tid, tid ≠ t.tid → s'.thread? tid = (s.thread? tid).map fun v =>
          if v.core = t.core ∧ ∃ l, v.arrived = some l ∧ ofPage l.1.toNat v.arrivedPage ∧ ofAsid (v.atp.extractLsb' 44 16)
          then { v with arrived := none } else v) ∧
        s' = { s with threads := s'.threads, leaves := s'.leaves, fetchCopies := s'.fetchCopies }) ∧
    (t.sup = false → named → Handles t → Traps (.tlbi a b) s s t fun u => Entered t u 0x01 0x11 t.pc t.pc 0 0)

/-! ### Control and status registers -/

namespace Sys2Proof.Claims

/-- The vector instructions that the snapshot of a thread in its handler holds. -/
def heldQueue (t : Thread) : List VEntry := (t.snapshot.map (·.vq)).getD []

/-- CSRs with what they read for a thread with nothing outstanding, laid out field by field (R8, R12 to R23, R30 to R32, R323, R329). -/
def csrRows : List (BitVec 14 × (State → Thread → Nat)) :=
  [(0x00, fun _ t => t.vl.toNat), (0x01, fun _ t => t.vtype.toNat), (0x02, fun _ t => t.vstart.toNat),
   (0x03, fun _ t => min (heldQueue t).length 64 * 2 ^ 57 + (((heldQueue t).head?.map (·.addr)).getD t.vcpAddr).toNat),
   (0x04, fun _ t => t.grant.toNat), (0x05, fun _ t => t.fcsr.toNat),
   (0x06, fun _ t => t.xcls.toNat), (0x10, fun _ t => t.mshape.toNat), (0x11, fun _ t => t.mrow.toNat),
   (0x12, fun _ t => t.mkoff.toNat), (0x20, fun _ t => t.swb.toNat), (0x21, fun _ t => t.vwb.toNat),
   (0x30, fun _ t => t.tid.toNat % 2048),
   (0x31, fun _ t => t.crewIndex.toNat * 64 + t.sizeM1.toNat * 8 + t.member.toNat),
   (0x32, fun _ t => t.gang.toNat * 65536 + t.tgpos.toNat * 32 + (if t.tileg then 16 else 0) + t.ncrewM1.toNat),
   (0x33, fun _ t => t.taskSeq.toNat * 2 ^ 32 + t.gangIdx.toNat * 65536 + t.queue.toNat),
   (0x34, fun _ t => (if t.sup then 64 else 0) + t.prio.toNat * 16 + t.tenant.toNat),
   (0x40, fun s t => s.cyc.getD t.core 0 % 2 ^ 64),
   (0x50, fun _ t => t.trap.cause.toNat), (0x51, fun _ t => t.trap.pc.toNat), (0x52, fun _ t => t.trap.addr.toNat),
   (0x53, fun _ t => t.trap.elem.toNat), (0x54, fun _ t => t.trapVec.toNat), (0x55, fun _ t => t.trap.save.toNat),
   (0x100, fun _ t => t.atp.toNat), (0x101, fun s t => (s.mreg 0 (0x4600 + 64 * t.tenant.toNat)).toNat)]

/-- Whether a CSR exists at a thread's level: 0x100 and up at supervisor level only (R323). -/
def csrAt (t : Thread) (csr : BitVec 14) : Prop := csr.toNat < 0x100 ∨ t.sup = true

/-- Writable CSRs with their RW bits (R10, R13, R16, R21 to R23, R30, R32, R329). -/
def csrMasks : List (BitVec 14 × Dword) :=
  [(0x01, 0x3FFF), (0x02, 0xFFFF), (0x05, 0x7F), (0x06, 0xF), (0x10, 0x3FF00FF), (0x11, 0xFF), (0x12, 0xFFFFFFC0), (0x20, 0x1FF),
   (0x21, 0xFF), (0x54, 0x01FFFFFFFFFFFF80), (0x55, 0x01FFFFFFFFFFFFFF), (0x101, 0x01FFFFFFFFFFF00F)]

/-- The CSR write instructions with the RW bits that they make of the old value and the operand (R122). -/
def csrWrites : List ((BitVec 14 → Src → Instr) × (Dword → Dword → Dword)) :=
  [(.csrw, fun _ y => y), (.csrs, fun old y => old ||| y), (.csrc, fun old y => old &&& ~~~y)]

end Sys2Proof.Claims

/-- R10, R122, R323: CSRR writes the register's value to g(d), of ATP and TQCFG at supervisor level. CYC is the count of the thread's own core
(log 76), and VCP counts the entries that a handler's snapshot holds, up to 64 (log 79). -/
def Obligations.CsrReads : Prop :=
  ∀ row ∈ csrRows, ∀ (d : BitVec 7) (s : State) (t : Thread), Runs s t → AtRest s t → csrAt t row.1 →
    Completes (.csrr d row.1) s t fun u => Wrote t u d (BitVec.ofNat 64 (row.2 s t)) 1

/-- R11, R122: CSRW, CSRS and CSRC put the new value into the RW fields of a CSR whose limits it meets: the register reads it afterwards, the
other bits keep their value, and every other CSR reads as before, but for VL under a write of VTYPE: it becomes the new VLMAX where that is
less (R14). TQCFG, at supervisor level, takes the value while its queue is empty and no access of the tenant is in replay-wait, and keeps its
own otherwise (R329); its reserved bits read zero. -/
def Obligations.CsrWrites : Prop :=
  ∀ reg ∈ csrMasks, ∀ op ∈ csrWrites, ∀ (b : Src) (s : State) (t : Thread) (old : Dword), Runs s t → Clean t b.reads → AtRest s t →
    csrValue s t reg.1 = some old →
    let new := (old &&& ~~~reg.2) ||| (op.2 old (t.src b) &&& reg.2)
    csrLegal s t reg.1 new = true →
    let free := tqUsed s t.tenant = 0 ∧ tenantReplays s t.tenant = false
    ∃ s' u, exec (op.1 reg.1 b) s = .next s' ∧ s'.thread? t.tid = some u ∧ u.pc = slotAfter t.pc b.slots ∧
      (reg.1 ≠ 0x101 → Only s s' t u ∧ csrValue s' u reg.1 = some new) ∧
      (reg.1 = 0x101 → Stepped t u b.slots ∧ s' = { s with threads := s'.threads, mgmt := s'.mgmt } ∧
        (free → csrValue s' u 0x101 = some (new &&& reg.2)) ∧ (¬ free → s'.mgmt = s.mgmt)) ∧
      (∀ k ∈ csrRows, k.1 ≠ reg.1 → (k.1 = 0x00 → reg.1 ≠ 0x01) → csrValue s' u k.1 = csrValue s t k.1) ∧
      (reg.1 = 0x01 → u.vl.toNat = min t.vl.toNat (vlMax t.grant.toNat (new.extractLsb' 0 14))) ∧
      (∀ r, reg.1 ≠ 0x20 → u.g r = t.g r) ∧ u.scal = t.scal ∧ u.vregs = t.vregs ∧ u.masks = t.masks

/-- R11, R122: a write outside a field's limits is illegal, subcause 0x04, and changes no register; a number that no CSR has, a register without
RW fields as the target of a write, and a supervisor CSR at user level are illegal, subcause 0x06.
The second part says which values the limits of the CSRs admit (R13, R22, R23, R30, R329). -/
def Obligations.CsrRefusals : Prop :=
  (∀ (s : State) (t : Thread), Runs s t → AtRest s t → Handles t →
     (∀ reg ∈ csrMasks, ∀ op ∈ csrWrites, ∀ (b : Src) (old : Dword), Clean t b.reads → csrValue s t reg.1 = some old →
       csrLegal s t reg.1 ((old &&& ~~~reg.2) ||| (op.2 old (t.src b) &&& reg.2)) = false →
       Traps (op.1 reg.1 b) s s t fun u => Entered t u 0x01 0x04 t.pc t.pc 0 0) ∧
     (∀ op ∈ csrWrites, ∀ (csr : BitVec 14) (b : Src), Clean t b.reads →
       (∀ reg ∈ csrMasks, reg.1 = csr → ¬ csrAt t csr) →
       Traps (op.1 csr b) s s t fun u => Entered t u 0x01 0x06 t.pc t.pc 0 0) ∧
     (∀ (d : BitVec 7) (csr : BitVec 14), (∀ row ∈ csrRows, row.1 = csr → ¬ csrAt t csr) →
       Traps (.csrr d csr) s s t fun u => Entered t u 0x01 0x06 t.pc t.pc 0 0)) ∧
  (∀ (s : State) (t : Thread) (v : Dword), matrixOf s t.tid = [] →
     (csrLegal s t 0x01 v = true ↔ field v 0 3 ≤ 3 ∧ (field v 3 3 ≤ 1 ∨ field v 3 3 = 2 ∧ field v 0 3 = 2 ∨
       (field v 3 3 = 3 ∨ field v 3 3 = 4) ∧ field v 0 3 = 1 ∨ (field v 3 3 = 5 ∨ field v 3 3 = 6) ∧ field v 0 3 = 0)) ∧
     (csrLegal s t 0x06 v = true ↔ field v 0 3 ≠ 7) ∧
     (csrLegal s t 0x10 v = true ↔ 1 ≤ field v 0 8 ∧ field v 0 8 ≤ 128 ∧ 1 ≤ field v 16 10 ∧ field v 16 10 ≤ 512 ∧
       t.mrow.toNat < field v 0 8) ∧
     (csrLegal s t 0x11 v = true ↔ field v 0 8 < t.mshape.toNat % 256) ∧
     (csrLegal s t 0x20 v = true ↔ field v 0 9 % 8 = 0 ∧ field v 0 9 ≤ 384) ∧
     (csrLegal s t 0x21 v = true ↔ field v 0 8 % 8 = 0 ∧ field v 0 8 ≤ 128) ∧
     (csrLegal s t 0x101 v = true ↔ 2 ≤ field v 0 4 ∧ field v 0 4 ≤ 12))

/-! ### Vector length, windows and the lane table -/

/-- R17, R121, R287: SETVL and SETVLMAX of a legal VTYPE take the grant that the core's lane table allots, set VTYPE, make VL the lesser of the
request and VLMAX, set VSTART to 0 and write VL to g(d). A wanted grant of nothing waits.
A VTYPE with a reserved bit or a combination that R13 does not list is illegal, subcause 0x05. -/
def Obligations.SetVectorLength : Prop :=
  (∀ (d a : BitVec 7) (b : Src) (s : State) (t : Thread), Runs s t → Clean t (a :: b.reads) → t.vq = [] →
     field (t.src b) 14 50 = 0 → vtLegal ((t.src b).extractLsb' 0 14) = true →
     ∀ row ∈ [(Instr.setvl d a b, (t.g a).toNat), (Instr.setvlmax d b, 65536)],
       let vt := (t.src b).extractLsb' 0 14
       let per := 1024 / vtSew vt * vtGroup vt
       let want := min 64 ((row.2 + per - 1) / per)
       let granted := allocate (s.setThread { t with latReq := BitVec.ofNat 7 want }) t want
       let vl := BitVec.ofNat 17 (min row.2 (granted * per))
       (want = 0 ∨ 0 < granted →
         Completes row.1 s t fun u =>
           u.pc = slotAfter t.pc b.slots ∧ u.grant = BitVec.ofNat 7 granted ∧ u.vtype = vt ∧ u.vl = vl ∧ u.vstart = 0 ∧
           WroteG t u d (vl.setWidth 64) ∧ ((List.range 64).filter u.lanes.getLsbD).length = granted ∧
           (∀ i, u.lanes.getLsbD i = true → (s.mreg t.die (offLane (t.core % 64))).getLsbD i = false ∧
             ∀ v ∈ coreThreads s t.core, v.tid ≠ t.tid → v.lanes.getLsbD i = false) ∧
           Stepped { t with latReq := BitVec.ofNat 7 want, grant := u.grant, lanes := u.lanes, vtype := u.vtype, vl := u.vl, vstart := 0,
                            epoch := u.epoch, scal := u.scal, badScal := u.badScal } u b.slots) ∧
       (0 < want → granted = 0 → Completes row.1 s t fun u => u = { t with latReq := BitVec.ofNat 7 want })) ∧
  (∀ (d a : BitVec 7) (b : Src) (s : State) (t : Thread), Runs s t → Clean t (a :: b.reads) → t.vq = [] → Handles t →
     (field (t.src b) 14 50 ≠ 0 ∨ vtLegal ((t.src b).extractLsb' 0 14) = false) →
     Traps (.setvl d a b) s s t (fun u => Entered t u 0x01 0x05 t.pc t.pc 0 0) ∧
     Traps (.setvlmax d b) s s t (fun u => Entered t u 0x01 0x05 t.pc t.pc 0 0))

/-- R22, R23, R123: WINSG and WINSV add the signed displacement, read through the old window, to their base; a new base that is no multiple of 8
or lies outside 0 to 384, or 0 to 128, is illegal, subcause 0x12, and nothing changes. No register's contents move. -/
def Obligations.WindowMoves : Prop :=
  ∀ (b : Src) (s : State) (t : Thread), Runs s t → Clean t b.reads →
    let sg := t.swb.toNat + (t.src b).toInt
    let sv := t.vwb.toNat + (t.src b).toInt
    (0 ≤ sg ∧ sg ≤ 384 ∧ sg % 8 = 0 →
      Completes (.winsg b) s t fun u => (u.swb.toNat : Int) = sg ∧
        Stepped { t with swb := u.swb } u b.slots) ∧
    (0 ≤ sv ∧ sv ≤ 128 ∧ sv % 8 = 0 →
      Completes (.winsv b) s t fun u => (u.vwb.toNat : Int) = sv ∧
        Stepped { t with vwb := u.vwb } u b.slots) ∧
    (t.vq = [] → Handles t →
      (¬ (0 ≤ sg ∧ sg ≤ 384 ∧ sg % 8 = 0) → Traps (.winsg b) s s t fun u => Entered t u 0x01 0x12 t.pc t.pc 0 0) ∧
      (¬ (0 ≤ sv ∧ sv ≤ 128 ∧ sv % 8 = 0) → Traps (.winsv b) s s t fun u => Entered t u 0x01 0x12 t.pc t.pc 0 0))

/-- R121, R124, R287, R335: a thread is never granted more than it wants, nor more than the enabled lane groups that no other thread holds;
requests that together fit the enabled groups are met in full as far as such groups are left. LAT reports the lane groups that no thread holds,
and for a slot that runs a thread of the issuer's tenant its request and grant. -/
def Obligations.LaneTable : Prop :=
  (∀ (s : State) (t : Thread) (want : Nat),
     let others := (coreThreads s t.core).filter fun u => u.tid != t.tid
     (∀ u ∈ others, u.slot ≠ t.slot) →
     let enabled := (List.range 64).filter fun i => !(s.mreg t.die (offLane (t.core % 64))).getLsbD i
     let left := (enabled.filter fun i => !others.any fun u => u.lanes.getLsbD i).length
     allocate s t want ≤ want ∧ allocate s t want ≤ left ∧
     (0 < want → want + (others.map fun u => u.latReq.toNat).sum ≤ enabled.length → allocate s t want = min want left)) ∧
  (∀ (d a : BitVec 7) (s : State) (t : Thread), Runs s t → Clean t [a] →
     let free := ((List.range 64).filter fun i => !(coreThreads s t.core).any fun u => u.lanes.getLsbD i).length * 65536
     (∀ u, (coreThreads s t.core).find? (fun u => u.slot = (t.g a).extractLsb' 0 3 && u.tenant = t.tenant) = some u →
       Completes (.lat d a) s t fun v => Wrote t v d (BitVec.ofNat 64 (free + 32768 + u.latReq.toNat * 256 + u.grant.toNat)) 1) ∧
     ((∀ u ∈ coreThreads s t.core, u.slot = (t.g a).extractLsb' 0 3 → u.tenant ≠ t.tenant) →
       Completes (.lat d a) s t fun v => Wrote t v d (BitVec.ofNat 64 free) 1))

/-! ### Vector instructions -/

namespace Sys2Proof.Claims

/-- The constructors of an operation on groups d, a and b, and on groups d and a with a scalar. -/
abbrev VV := BitVec 7 → BitVec 7 → BitVec 7 → Bool → Instr
abbrev VG := BitVec 7 → BitVec 7 → Src → Bool → Instr

/-- An element as i, or as n. -/
def asValue (n : Bool) (w x : Nat) : Int := if n then x else signed w x

/-- A value held within the range of i or n. -/
def clamp (n : Bool) (w : Nat) (x : Int) : Int :=
  if n then max 0 (min x (2 ^ w - 1)) else max (-(2 ^ (w - 1))) (min x (2 ^ (w - 1) - 1))

/-- Integer operations: the two forms, whether every format is accepted, and the result of FMT n, SEW, a, y and d before it is taken modulo
2^SEW (R130). -/
def intRows : List (VV × VG × Bool × (Bool → Nat → Nat → Nat → Nat → Int)) :=
  [(.vaddVV, .vaddVG, false, fun _ _ a y _ => a + y),
   (.vsubVV, .vsubVG, false, fun _ _ a y _ => a - y),
   (.vmulVV, .vmulVG, false, fun _ _ a y _ => a * y),
   (.vmulhVV, .vmulhVG, false, fun n w a y _ => asValue n w a * asValue n w y / 2 ^ w),
   (.vmaccVV, .vmaccVG, false, fun _ _ a y d => d + a * y),
   (.vandVV, .vandVG, true, fun _ _ a y _ => (a &&& y : Nat)),
   (.vorVV, .vorVG, true, fun _ _ a y _ => (a ||| y : Nat)),
   (.vxorVV, .vxorVG, true, fun _ _ a y _ => (a ^^^ y : Nat)),
   (.vsllVV, .vsllVG, false, fun _ w a y _ => a * 2 ^ (y % w)),
   (.vsrlVV, .vsrlVG, false, fun _ w a y _ => (a / 2 ^ (y % w) : Nat)),
   (.vsraVV, .vsraVG, false, fun _ w a y _ => signed w a / 2 ^ (y % w)),
   (.vminVV, .vminVG, false, fun _ w a y _ => min (signed w a) (signed w y)),
   (.vmaxVV, .vmaxVG, false, fun _ w a y _ => max (signed w a) (signed w y)),
   (.vminnVV, .vminnVG, false, fun _ _ a y _ => (min a y : Nat)),
   (.vmaxnVV, .vmaxnVG, false, fun _ _ a y _ => (max a y : Nat)),
   (.vsaddVV, .vsaddVG, false, fun n w a y _ => clamp n w (asValue n w a + asValue n w y)),
   (.vssubVV, .vssubVG, false, fun n w a y _ => clamp n w (asValue n w a - asValue n w y))]

/-- Integer comparisons: the two forms, whether every format is accepted, and the mask bit of SEW, a and y (R130). -/
def intCmpRows : List (VV × VG × Bool × (Nat → Nat → Nat → Bool)) :=
  [(.vseqVV, .vseqVG, true, fun _ a y => a = y),
   (.vsneVV, .vsneVG, true, fun _ a y => a ≠ y),
   (.vsltVV, .vsltVG, false, fun w a y => signed w a < signed w y),
   (.vsltnVV, .vsltnVG, false, fun _ a y => a < y)]

/-- Floating-point operations and comparisons (R132, R133). -/
def fpRows : List (VV × VG × FpOp) :=
  [(.vfaddVV, .vfaddVG, .add), (.vfsubVV, .vfsubVG, .sub), (.vfmulVV, .vfmulVG, .mul), (.vfmaVV, .vfmaVG, .fma),
   (.vfnmsVV, .vfnmsVG, .fnms), (.vfminVV, .vfminVG, .min), (.vfmaxVV, .vfmaxVG, .max), (.vfdivVV, .vfdivVG, .div),
   (.vfsgnjVV, .vfsgnjVG, .sgnj), (.vfsgnnVV, .vfsgnnVG, .sgnn), (.vfsgnxVV, .vfsgnxVG, .sgnx)]

def fpCmpRows : List (VV × VG × FpCmp) := [(.vfeqVV, .vfeqVG, .eq), (.vfltVV, .vfltVG, .lt), (.vfleVV, .vfleVG, .le)]

/-- Unary floating-point operations with the formats that they accept (R132 to R136). -/
def fpUnRows : List ((BitVec 7 → BitVec 7 → Bool → Instr) × FpUn × List Nat) :=
  [(.vfsqrt, .sqrt, [2, 3, 4]), (.vfrsqrte, .rsqrte, [2]), (.vfrece, .rece, [2]), (.vfcvtif, .cvtif, [2, 3, 4]),
   (.vfcvtfi, .cvtfi, [2, 3, 4]), (.vfcvtw, .cvtw, [3, 4, 5, 6])]

end Sys2Proof.Claims

/-- R130: each integer operation gives each active element the table's result modulo 2^SEW, saturated where the table says so, and each
comparison its mask bit. Inactive elements and the tail follow R15; no other register and no flag changes. -/
def Obligations.IntegerElements : Prop :=
  ∀ (d a b : BitVec 7) (g : Src) (m : Bool) (s : State) (t : Thread), Runs s t → LanesReady t → vtLegal t.vtype = true →
    let w := vtSew t.vtype
    let n : Bool := vtFmt t.vtype = 1
    let y := (t.src g).toNat % 2 ^ w
    Names a (vtGroup t.vtype) →
    (∀ row ∈ intRows, (row.2.2.1 = true ∨ vtFmt t.vtype ≤ 1) → Names d (vtGroup t.vtype) →
      let result := fun (y : Nat → Nat) i => (row.2.2.2 n w (elemOf t w a i) (y i) (elemOf t w d i) % 2 ^ w).toNat
      (Names b (vtGroup t.vtype) → Completes (row.1 d a b m) s t fun u =>
        Committed t u 1 ∧ Quiet t u ∧ GroupWritten t u d w (enabledAt t m) (result (elemOf t w b))) ∧
      (Clean t g.reads → Completes (row.2.1 d a g m) s t fun u =>
        Committed t u g.slots ∧ Quiet t u ∧ GroupWritten t u d w (enabledAt t m) (result fun _ => y))) ∧
    (∀ row ∈ intCmpRows, (row.2.2.1 = true ∨ vtFmt t.vtype ≤ 1) →
      let result := fun (y : Nat → Nat) i => row.2.2.2 w (elemOf t w a i) (y i)
      (Names b (vtGroup t.vtype) → Completes (row.1 d a b m) s t fun u =>
        Committed t u 1 ∧ u.vregs = t.vregs ∧ u.fcsr = t.fcsr ∧ MaskWritten t u d (enabledAt t m) (result (elemOf t w b))) ∧
      (Clean t g.reads → Completes (row.2.1 d a g m) s t fun u =>
        Committed t u g.slots ∧ u.vregs = t.vregs ∧ u.fcsr = t.fcsr ∧ MaskWritten t u d (enabledAt t m) (result fun _ => y)))

/-- R131: VMERGE writes every element from VSTART to VL − 1, with y where the mask bit is 1 or no mask governs and a elsewhere. VMV writes y
to the active elements, its inverted form to those whose mask bit is 0. Tail elements follow R15. -/
def Obligations.MergesAndMoves : Prop :=
  ∀ (d a b : BitVec 7) (g : Src) (m : Bool) (s : State) (t : Thread), Runs s t → LanesReady t → vtLegal t.vtype = true →
    let w := vtSew t.vtype
    let y := (t.src g).toNat % 2 ^ w
    Names d (vtGroup t.vtype) →
    (Names a (vtGroup t.vtype) → Names b (vtGroup t.vtype) → Completes (.vmergeVV d a b m) s t fun u =>
      Committed t u 1 ∧ Quiet t u ∧ GroupWritten t u d w (fun _ => true) fun i => if enabledAt t m i then elemOf t w b i else elemOf t w a i) ∧
    (Names a (vtGroup t.vtype) → Clean t g.reads → Completes (.vmergeVG d a g m) s t fun u =>
      Committed t u g.slots ∧ Quiet t u ∧ GroupWritten t u d w (fun _ => true) fun i => if enabledAt t m i then y else elemOf t w a i) ∧
    (Names b (vtGroup t.vtype) →
      Completes (.vmvVV d b m) s t (fun u => Committed t u 1 ∧ Quiet t u ∧ GroupWritten t u d w (enabledAt t m) (elemOf t w b)) ∧
      Completes (.vmvVVInverted d b) s t fun u =>
        Committed t u 1 ∧ Quiet t u ∧ GroupWritten t u d w (fun i => !enabledAt t true i) (elemOf t w b)) ∧
    (Clean t g.reads →
      Completes (.vmvVG d g m) s t (fun u => Committed t u g.slots ∧ Quiet t u ∧ GroupWritten t u d w (enabledAt t m) fun _ => y) ∧
      Completes (.vmvVGInverted d g) s t fun u =>
        Committed t u g.slots ∧ Quiet t u ∧ GroupWritten t u d w (fun i => !enabledAt t true i) fun _ => y)

/-- R132 to R136, R21: each floating-point operation gives each active element the result of the operation on its sources under FCSR.RM, and
charges the element's flags to FCSR and to m14; VFCLASS raises none. -/
def Obligations.FloatElements : Prop :=
  ∀ (d a b : BitVec 7) (g : Src) (m : Bool) (s : State) (t : Thread), Runs s t → LanesReady t → vtLegal t.vtype = true →
    let w := vtSew t.vtype
    let f := vtFormat t.vtype
    let rm := t.fcsr.extractLsb' 0 2
    let y := (t.src g).toNat % 2 ^ w
    let g0 := vtGroup t.vtype
    (Names a g0 → vtFmt t.vtype ∈ [2, 3, 4] →
      (∀ row ∈ fpRows, Names d g0 →
        let r := fun (y : Nat → Nat) i => fpResult row.2.2 f rm (elemOf t w a i) (y i) (elemOf t w d i)
        (Names b g0 → Completes (row.1 d a b m) s t fun u =>
          Committed t u 1 ∧ GroupWritten t u d w (enabledAt t m) (fun i => (r (elemOf t w b) i).1) ∧
          Charged t u (enabledAt t m) (fun i => (r (elemOf t w b) i).2) none) ∧
        (Clean t g.reads → Completes (row.2.1 d a g m) s t fun u =>
          Committed t u g.slots ∧ GroupWritten t u d w (enabledAt t m) (fun i => (r (fun _ => y) i).1) ∧
          Charged t u (enabledAt t m) (fun i => (r (fun _ => y) i).2) none)) ∧
      (∀ row ∈ fpCmpRows,
        let r := fun (y : Nat → Nat) i => fpCompare row.2.2 f (elemOf t w a i) (y i)
        (Names b g0 → Completes (row.1 d a b m) s t fun u =>
          Committed t u 1 ∧ u.vregs = t.vregs ∧
          (∀ i, i < 65536 → Dest t (enabledAt t m) i (r (elemOf t w b) i).1 false (maskBit t.masks d.toNat i) (maskBit u.masks d.toNat i)) ∧
          Charged t u (enabledAt t m) (fun i => (r (elemOf t w b) i).2) (some d)) ∧
        (Clean t g.reads → Completes (row.2.1 d a g m) s t fun u =>
          Committed t u g.slots ∧ u.vregs = t.vregs ∧
          (∀ i, i < 65536 → Dest t (enabledAt t m) i (r (fun _ => y) i).1 false (maskBit t.masks d.toNat i) (maskBit u.masks d.toNat i)) ∧
          Charged t u (enabledAt t m) (fun i => (r (fun _ => y) i).2) (some d))) ∧
      (Names d g0 → Completes (.vfclass d a m) s t fun u =>
        Committed t u 1 ∧ Quiet t u ∧ GroupWritten t u d w (enabledAt t m) fun i => classFp f (elemOf t w a i))) ∧
    (∀ row ∈ fpUnRows, vtFmt t.vtype ∈ row.2.2 → Names d g0 →
      let src := if row.2.1 = .cvtw then 32 else w
      src / w * g0 ≤ 8 → Names a (src / w * g0) →
      Completes (row.1 d a m) s t fun u =>
        Committed t u 1 ∧ GroupWritten t u d w (enabledAt t m) (fun i => (fpUnary row.2.1 f rm w (elemOf t src a i)).1) ∧
        Charged t u (enabledAt t m) (fun i => (fpUnary row.2.1 f rm w (elemOf t src a i)).2) none)

/-- R141, R145: permutations move whole elements, VCOMP places the enabled ones together and VEXPD spreads them, VIOTA counts mask bits and VID
numbers elements. Mask logic works bit by bit from VSTART to VL − 1, MTOV and MFRV convert between masks and groups, and MPOPC and MFIRST read
bits 0 to VL − 1 into g(d). -/
def Obligations.PermutationsAndMasks : Prop :=
  ∀ (d a b : BitVec 7) (g : Src) (m : Bool) (s : State) (t : Thread), Runs s t → LanesReady t → vtLegal t.vtype = true →
    let w := vtSew t.vtype
    let vl := t.vl.toNat
    let x := (t.src g).toNat
    let g0 := vtGroup t.vtype
    let moved := fun (i : Instr) (n : Nat) (result : Nat → Nat) =>
      Completes i s t fun u => Committed t u n ∧ Quiet t u ∧ GroupWritten t u d w (enabledAt t m) result
    let logic := fun (i : Instr) (result : Nat → Bool) =>
      Completes i s t fun u => Committed t u 1 ∧ u.vregs = t.vregs ∧ u.fcsr = t.fcsr ∧ MaskWritten t u d (fun _ => true) result
    let counted := fun (i : Instr) (v : Dword) =>
      Completes i s t fun u => WroteG t u d v ∧ Committed { t with scal := u.scal, badScal := u.badScal } u 1 ∧ u.vregs = t.vregs ∧ Quiet t u
    let bit := fun (r : BitVec 7) i => maskBit t.masks r.toNat i
    (Names d g0 → Names a g0 →
      (Names b g0 → moved (.vperm d a b m) 1 fun i => if elemOf t w b i < vl then elemOf t w a (elemOf t w b i) else 0) ∧
      (Clean t g.reads →
        moved (.vslup d a g m) g.slots (fun i => if x ≤ i then elemOf t w a (i - x) else elemOf t w d i) ∧
        moved (.vsldn d a g m) g.slots fun i => if i + x < vl then elemOf t w a (i + x) else 0) ∧
      moved (.vexpd d a m) 1 (fun i => elemOf t w a (countBelow t m (fun _ => true) i)) ∧
      Completes (.vcomp d a m) s t fun u =>
        Committed t u 1 ∧ Quiet t u ∧ OthersKept t u d w ∧
        (∀ i, inSpan t i → enabledAt t m i = true → elemOf u w d (countBelow t m (fun _ => true) i) = elemOf t w a i) ∧
        ∀ j, (∀ i, inSpan t i → enabledAt t m i = true → countBelow t m (fun _ => true) i ≠ j) → elemOf u w d j =
          if vl ≠ 0 ∧ countBelow t m (fun _ => true) vl ≤ j ∧ j < vlMax t.grant.toNat t.vtype ∧ vtTz t.vtype = true then 0
          else elemOf t w d j) ∧
    (Names d g0 →
      moved (.viota d a m) 1 (fun i => countBelow t m (bit a) i) ∧
      moved (.vid d m) 1 (fun i => i) ∧
      (vtFmt t.vtype ≤ 1 → moved (.mtov d a m) 1 fun i => if bit a i then 1 else 0)) ∧
    (Names a g0 → Completes (.mfrv d a m) s t fun u =>
      Committed t u 1 ∧ u.vregs = t.vregs ∧ u.fcsr = t.fcsr ∧ MaskWritten t u d (enabledAt t m) fun i => elemOf t w a i ≠ 0) ∧
    logic (.mand d a b) (fun i => bit a i && bit b i) ∧ logic (.mor d a b) (fun i => bit a i || bit b i) ∧
    logic (.mxor d a b) (fun i => bit a i != bit b i) ∧ logic (.mandn d a b) (fun i => bit a i && !bit b i) ∧
    logic (.mnot d a) (fun i => !bit a i) ∧
    counted (.mpopc d a) (BitVec.ofNat 64 ((List.range vl).filter (bit a)).length) ∧
    (∀ i, i < vl → bit a i = true → (∀ j, j < i → bit a j = false) → counted (.mfirst d a) (BitVec.ofNat 64 i)) ∧
    ((∀ i, i < vl → bit a i = false) → counted (.mfirst d a) ones64)

namespace Sys2Proof.Claims

/-- The entry of an unscaled instruction of a thread: its operation, whether a mask governs it, and its captured scalar. -/
def entryFor (t : Thread) (i : Instr) (op : VOp) (m : Bool) (scalar : Dword) (slots : Nat) : VEntry :=
  { entryOf t i { op := op, masked := m, reads := [], scalar := scalar, scalar2 := 0, slots := slots, faults := [] } with badScalar := false }

/-- The registers and flags after the whole effect of an entry on what the thread's registers held before it. -/
def Effect (t u : Thread) (e : VEntry) : Prop :=
  let r := vectorBody (viewOf t e) (2 ^ 17)
  if t.vl = 0 then u.vregs = t.vregs ∧ Quiet t u
  else
    let x := withWrites t e r.1 (if raisesFlags (viewOf t e) then r.2 else [])
    u.vregs = x.vregs ∧ u.masks = x.masks ∧ u.fcsr = Flags.stick t.fcsr (allFlags r.2)

/-- Integer reductions with their steps on SEW, FMT n, the accumulated value and an element (R142). -/
def redRows : List ((BitVec 7 → BitVec 7 → Bool → Instr) × (Nat → Bool → Nat → Nat → Nat)) :=
  [(.vredsum, fun w _ acc x => (acc + x) % 2 ^ w),
   (.vredmax, fun w n acc x => if asValue n w acc < asValue n w x then x else acc),
   (.vredmin, fun w n acc x => if asValue n w x < asValue n w acc then x else acc)]

end Sys2Proof.Claims

/-- R142: an integer reduction folds the active elements of a, in ascending order, into element 0 of d, which keeps its value when there is
none; the other elements of d are its tail. -/
def Obligations.Reductions : Prop :=
  ∀ row ∈ redRows, ∀ (d a : BitVec 7) (m : Bool) (s : State) (t : Thread), Runs s t → LanesReady t → vtLegal t.vtype = true →
    vtFmt t.vtype ≤ 1 → Names d (vtGroup t.vtype) → Names a (vtGroup t.vtype) →
    let w := vtSew t.vtype
    let active := ((List.range t.vl.toNat).drop t.vstart.toNat).filter (enabledAt t m)
    Completes (row.1 d a m) s t fun u =>
      Committed t u 1 ∧ Quiet t u ∧ OthersKept t u d w ∧
      elemOf u w d 0 = (active.map (elemOf t w a)).foldl (row.2 w (vtFmt t.vtype = 1)) (elemOf t w d 0) ∧
      ∀ i, 0 < i → elemOf u w d i =
        if t.vl ≠ 0 ∧ t.vstart.toNat ≤ i ∧ i < vlMax t.grant.toNat t.vtype ∧ vtTz t.vtype = true then 0 else elemOf t w d i

/-- R137 to R140, R142 to R144: conversions to and from blocks, Hadamard stages and the fused pair, floating-point reductions, segmented sums
and VCSWI commit with their whole effect when their formats, fields and limits are met and every active block is valid. VSEGSUM and VSEGSCAN take
the formats i, n, FP32, BF16 and FP16 (log 36), and to which element the flags of their additions belong is the model's choice (log 74). -/
def Obligations.BlocksAndSelection : Prop :=
  ∀ (d a b : BitVec 7) (g : Src) (m : Bool) (s : State) (t : Thread), Runs s t → LanesReady t → vtLegal t.vtype = true →
    let k := t.grant.toNat
    let g0 := vtGroup t.vtype
    let fmt := vtFmt t.vtype
    let x := t.src g
    let h := field x 0 16
    let room := fun (code : Byte) => blockCount t.vl.toNat code * 64 ≤ k * 128 * g0
    let stage : Prop := Clean t g.reads ∧ Names a g0 ∧ (∃ j, j < 16 ∧ h = 2 ^ j) ∧ t.vl.toNat % (2 * h) = 0
    let does := fun (i : Instr) (op : VOp) (m : Bool) (y : Dword) (n : Nat) => Completes i s t fun u =>
      Committed t u n ∧ Effect t u (entryFor t i op m y n)
    (Names d g0 → Names a g0 → fmt ∈ [2, 3, 4] →
      does (.vfredsum d a m) (.reduce .fsum d a) m 0 1 ∧ does (.vfredmax d a m) (.reduce .fmax d a) m 0 1) ∧
    (Names d g0 → Names a g0 → fmt ≤ 4 →
      does (.vsegsum d a b m) (.segment false d a b) m 0 1 ∧ does (.vsegscan d a b m) (.segment true d a b) m 0 1) ∧
    (fmt ≤ 4 → (∀ f ∈ [d, a, b], f.toNat % g0 = 0 ∧ f.toNat + 2 * g0 ≤ 128) → (d.toNat + 2 * g0 ≤ b.toNat ∨ b.toNat + 2 * g0 ≤ d.toNat) →
      does (.vcswi d a b m) (.swap d a b) m 0 1) ∧
    (fmt ∈ [0, 1, 5, 6] → vtSew t.vtype = 8 → g0 ≤ 2 → Names d g0 → Names a (4 * g0) → room (targetCode fmt) →
      does (.vcvtb d a m) (.toBlocks d a) m 0 1) ∧
    (fmt ∈ [2, 3, 4, 5, 6] → Names a g0 → 32 / vtSew t.vtype * g0 ≤ 8 → Names d (32 / vtSew t.vtype * g0) →
      bodyStop (viewOf t (entryFor t (.vcvtx d a m) (.widen d a) m 0 1)) = .finish →
      does (.vcvtx d a m) (.widen d a) m 0 1) ∧
    (stage → fmt ≤ 4 → Names d g0 → field x 16 48 = 0 → does (.vbfly d a g m) (.butterfly d a) m x g.slots) ∧
    (stage → fmt = 2 → Names d g0 → 1 ≤ field x 16 3 → field x 16 3 ≤ 4 → field x 19 45 = 0 → room (BitVec.ofNat 8 (field x 16 3)) →
      does (.vbflyc a g (some (d, m))) (.chain a d m) m x (g.slots + 1))

/-! ### Vector memory -/

namespace Sys2Proof.Claims

/-- The loads and stores of one shape: their slots, and the address of element i (R146, R154). -/
def accessRows (d a b : BitVec 7) (g : Src) (m : Bool) : List (Instr × Instr × Nat × (Thread → Nat → Dword)) :=
  [(.vld d a m, .vst d a m, 1, fun t i => t.g a + BitVec.ofNat 64 (i * (vtSew t.vtype / 8))),
   (.vlds d a g m, .vsts d a g m, g.slots, fun t i => t.g a + t.src g * BitVec.ofNat 64 i),
   (.vldx d a b m, .vstx d a b m, 1, fun t i => t.g a + BitVec.ofNat 64 (elemOf t (vtSew t.vtype) b i))]

/-- The instructions of VMEM with their operations and their pushes. -/
def memRows (d a b : BitVec 7) (g : Src) (m : Bool) (t : Thread) : List (Instr × VMemOp × Push) :=
  [(.vld d a m, .ld, memPush .ld m d a 0 none t), (.vlds d a g m, .lds, memPush .lds m d a 0 (some g) t),
   (.vldx d a b m, .ldx, memPush .ldx m d a b none t), (.vst d a m, .st, memPush .st m d a 0 none t),
   (.vsts d a g m, .sts, memPush .sts m d a 0 (some g) t), (.vstx d a b m, .stx, memPush .stx m d a b none t),
   (.vldff d a m, .ldff, memPush .ldff m d a 0 none t), (.vldnr d a m, .ldnr, memPush .ldnr m d a 0 none t),
   (.vldfe d a m, .ldfe, memPush .ldfe m d a 0 none t), (.vldfec d a m, .ldfec, memPush .ldfec m d a 0 none t),
   (.vgl d a b m, .gl, memPush .gl m d a b none t), (.vsc d a b m, .sc, memPush .sc m d a b none t),
   (.vldt d a g m, .ldt, memPush .ldt m d a 0 (some g) t)]

end Sys2Proof.Claims

/-- R146, R154, R158: unit-stride, strided and indexed loads and stores whose active elements are aligned and lie in the crew's range of the
scratchpad. A load gives each active element its bytes, a store writes each in ascending order and sets its granule full; nothing else of the
scratchpad or of memory changes. -/
def Obligations.ScratchpadVectors : Prop :=
  ∀ (d a b : BitVec 7) (g : Src) (m : Bool) (s : State) (t : Thread), Runs s t → LanesReady t → vtLegal t.vtype = true →
    Clean t (a :: g.reads) → Names d (vtGroup t.vtype) → Names b (vtGroup t.vtype) → matrixOf s t.tid = [] → Unfenced s t →
    ∀ row ∈ accessRows d a b g m,
      let n := vtSew t.vtype / 8
      let active := fun i => inSpan t i ∧ enabledAt t m i = true
      let off := fun i => (row.2.2.2 t i).toNat - 0x00FFFF0000000000
      let at_ := fun i => spadLoc t.core (off i)
      (∀ i, active i → (row.2.2.2 t i).toNat % n = 0 ∧ 0x00FFFF0000000000 + t.spadLo ≤ (row.2.2.2 t i).toNat ∧
        off i + n ≤ t.spadLo + t.spadLen ∧ off i + n ≤ 0x180000) →
      (s.poison = [] → s.softErrors = [] → Completes row.1 s t fun u =>
        Committed t u row.2.2.1 ∧ Quiet t u ∧
        GroupWritten t u d (vtSew t.vtype) (enabledAt t m) fun i => leNat (s.loadBytes (at_ i) n)) ∧
      ∃ s' u, exec row.2.1 s = .next s' ∧ s'.thread? t.tid = some u ∧
        Committed { t with links := u.links } u row.2.2.1 ∧ u.vregs = t.vregs ∧ Quiet t u ∧
        (∀ i, active i → (∀ j, active j → i < j → at_ j ≠ at_ i) → s'.loadBytes (at_ i) n = leBytes n (elemOf t (vtSew t.vtype) d i)) ∧
        (∀ x, (∀ i, active i → ¬ bytesAt (at_ i) n x) → s'.mem.read x = s.mem.read x) ∧
        (∀ q, s'.full.mem q = true ↔ s.full.mem q = true ∨ ∃ i, active i ∧ at_ i / 16 = q) ∧
        (∀ tid, tid ≠ t.tid → (s'.thread? tid).map unlinked = (s.thread? tid).map unlinked) ∧
        s' = { s with threads := s'.threads, mem := s'.mem, full := s'.full, poison := s'.poison, softErrors := s'.softErrors,
                      corrected := s'.corrected, l1 := s'.l1, hostCopies := s'.hostCopies }

/-- R146 to R165: a vector memory instruction whose pass over its active elements finishes commits: the elements that the pass loaded reach
the registers, with inactive elements and the tail as R15 directs, memory and the full/empty bits are as the pass leaves them, and no scalar
register changes. With VL 0 nothing changes but the pc, VSTART and the commit pointer. VPF never accesses memory. -/
def Obligations.VectorMemory : Prop :=
  ∀ (d a b : BitVec 7) (g : Src) (m : Bool) (s : State) (t : Thread), Runs s t → LanesReady t → Clean t (a :: g.reads) →
    Names d (vtGroup t.vtype) → Names b (vtGroup t.vtype) → matrixOf s t.tid = [] → Unfenced s t →
    (∀ row ∈ memRows d a b g m t,
      let e := entryOf t row.1 row.2.2
      let u := t.pushed e row.2.2.slots
      (t.vl = 0 → Completes row.1 s t fun v => Committed t v row.2.2.slots ∧ v.vregs = t.vregs ∧ Quiet t v) ∧
      ∀ r, memEntry (s.setThread u) u (viewOf u e) row.2.1 d (if row.2.1.indexed then b else 0) none = (r, .finish) → t.vl ≠ 0 →
        ∃ s' v, exec row.1 s = .next s' ∧ s'.thread? t.tid = some v ∧
          Committed { t with links := v.links } v row.2.2.slots ∧ v.fcsr = t.fcsr ∧
          (v.vregs, v.masks) = (r.writes ++ loadFill (viewOf t e) row.2.1 d t.vl.toNat true).foldl (applyWrite t.vwb t.grant.toNat)
            (t.vregs, t.masks) ∧
          s'.mem = r.s.mem ∧ s'.full = r.s.full ∧ s'.acc = s.acc ∧ s'.tags = s.tags) ∧
    Completes (.vpf a m) s t fun v => Committed t v 1 ∧ v.vregs = t.vregs ∧ Quiet t v

/-! ### Accumulators -/

/-- R28, R183, R184, R191: MACQ takes a free tile that no other thread waits for, passes at once for the owner, and waits in the tile's order
while another thread that runs owns it; the tile of an owner that is pre-empted is saved and passes on, all zero, where nothing holds the
owner's image (log 52). MZERO and MRELZ set every element to zero; MRELZ frees the tile. MATV copies a row of the tile to a
group and MVTA a group to a row. MRELZ of a thread that does not own the tile takes the accumulator-ownership trap. -/
def Obligations.AccumulatorTiles : Prop :=
  ∀ (d : BitVec 7) (s : State) (t : Thread), Runs s t → AtRest s t → t.parked = false →
    let key := t.tileKey (d.extractLsb' 0 1)
    let owned : Prop := Sparse.get 0 s.accOwner key = t.tid.toNat + 1
    let others := fun (s' : State) => ∀ tile row col, tile ≠ key → row < 128 → col < 512 → accGet s'.acc tile row col = accGet s.acc tile row col
    let zeroed := fun (s' : State) => ∀ row col, row < 128 → col < 512 → accGet s'.acc key row col = 0
    (owned → Completes (.macq d) s t fun u => Stepped t u 1) ∧
    (Sparse.get 0 s.accOwner key = 0 → (t.tid, key) ∉ s.accSaved → (∀ w ∈ s.macqWait, w.1 = key → w.2 = t.tid) →
      ∃ s' u, exec (.macq d) s = .next s' ∧ s'.thread? t.tid = some u ∧ Stepped t u 1 ∧
        Sparse.get 0 s'.accOwner key = t.tid.toNat + 1 ∧ (∀ k, k ≠ key → Sparse.get 0 s'.accOwner k = Sparse.get 0 s.accOwner k) ∧
        s' = { s with threads := s'.threads, accOwner := s'.accOwner, macqWait := s'.macqWait }) ∧
    (∀ v, s.threads.find? (fun x => x.tid.toNat + 1 = Sparse.get 0 s.accOwner key) = some v → v.parked = false → ¬ owned →
      (t.tid, key) ∉ s.accSaved →
      ∃ s', exec (.macq d) s = .next s' ∧ (key, t.tid) ∈ s'.macqWait ∧ s' = { s with macqWait := s'.macqWait }) ∧
    (∀ v, s.threads.find? (fun x => x.tid.toNat + 1 = Sparse.get 0 s.accOwner key) = some v → v.parked = true →
      (t.tid, key) ∉ s.accSaved → (∀ w ∈ s.macqWait, w.1 = key → w.2 = t.tid) → rangeHeld s true (tileImage v (key % 2)) 0x40000 = false →
      ∃ s' u, exec (.macq d) s = .next s' ∧ s'.thread? t.tid = some u ∧ Stepped t u 1 ∧ zeroed s' ∧ others s' ∧
        Sparse.get 0 s'.accOwner key = t.tid.toNat + 1 ∧ (v.tid, key) ∈ s'.accSaved) ∧
    (owned → ∃ s' u, exec (.mrelz d) s = .next s' ∧ s'.thread? t.tid = some u ∧ Stepped t u 1 ∧ zeroed s' ∧ others s' ∧
      Sparse.get 0 s'.accOwner key = 0 ∧
      s' = { s with threads := s'.threads, acc := s'.acc, accPoison := s'.accPoison, accOwner := s'.accOwner }) ∧
    (¬ owned → (t.tid, key) ∉ s.accSaved → Handles t → Traps (.mrelz d) s s t fun u => Entered t u 0x0A 0x00 t.pc t.pc 0 0) ∧
    (owned → t.holdMat = false → t.snapshot = none → (coreQueue s t).length < 16 →
      ∃ s' u, exec (.mzero d) s = .next s' ∧ s'.thread? t.tid = some u ∧ zeroed s' ∧ others s' ∧
        Stepped { t with order := t.order + 1 } u 1 ∧
        s' = { s with threads := s'.threads, acc := s'.acc, accPoison := s'.accPoison }) ∧
    (owned → LanesReady t → vtSew t.vtype = 32 → vtFmt t.vtype ≤ 2 → t.vl.toNat ≤ 512 → ∀ (f : BitVec 7) (b : Src), Clean t b.reads →
      Names f (vtGroup t.vtype) → (t.src b).toNat ≤ 127 →
      (s.accPoison.mem (key * 128 + (t.src b).toNat) = false → Completes (.matv f d b) s t fun u =>
        Committed t u b.slots ∧ Quiet t u ∧ GroupWritten t u f 32 (fun _ => true) fun i => accGet s.acc key (t.src b).toNat i) ∧
      ∃ s' u, exec (.mvta d f b) s = .next s' ∧ s'.thread? t.tid = some u ∧ Committed t u b.slots ∧ u.vregs = t.vregs ∧ Quiet t u ∧
        others s' ∧ (∀ row col, row < 128 → col < 512 → accGet s'.acc key row col =
          if row = (t.src b).toNat ∧ t.vstart.toNat ≤ col ∧ col < t.vl.toNat then elemOf t 32 f col else accGet s.acc key row col) ∧
        s' = { s with threads := s'.threads, acc := s'.acc, accPoison := s'.accPoison })

namespace Sys2Proof.Claims

/-- The matrix instructions with rows: their operation, operands and slots. -/
def matrixRows (d a : BitVec 7) (b : Src) (t : Thread) : List (Instr × MOp × Dword × Dword × Nat) :=
  [(.mma d a b, .mma, t.g a, t.src b, b.slots), (.mmai d a b, .mmai, t.g a, t.src b, b.slots), (.mmag d a b, .mmag, t.g a, t.src b, b.slots),
   (.mlda d a, .lda, t.g a, 0, 1), (.msta d a, .sta, t.g a, 0, 1)]

/-- The entry of a matrix instruction with what it captures at push (R30, R168). -/
def matrixEntry (t : Thread) (i : Instr) (op : MOp) (z : BitVec 1) (a b : Dword) : MEntry :=
  { tid := t.tid, instr := i, addr := t.pc, op := op, z := z, a := a, b := b, mshape := t.mshape, row := t.mrow, mkoff := t.mkoff,
    order := t.order, waitStores := if op = .sta then t.fences.vsSs else t.fences.vlSs, move := .none, inside := false, begun := false,
    stopped := none, due := false, badBlocks := [], dead := [], flags := 0 }

end Sys2Proof.Claims

/-- R30, R168, R184 to R192: a multiply, MLDA or MSTA of the tile's owner, whose operands pass their checks and whose rows from MROW on all
complete, has the effect of those rows and leaves the queue; the flags that its rows have gathered reach FCSR then (R96). The thread has gone on:
MROW is 0, and MMAI has raised MKOFF by 512. A multiply across the crews of a gang outside a tile gang is illegal, subcause 0x10, also where the
thread does not own the tile (log 37). -/
def Obligations.MatrixInstructions : Prop :=
  ∀ (d a : BitVec 7) (b : Src) (s : State) (t : Thread), Runs s t → AtRest s t → Clean t (a :: b.reads) → t.parked = false →
    let z := d.extractLsb' 0 1
    (Sparse.get 0 s.accOwner (t.tileKey z) = t.tid.toNat + 1 → t.holdMat = false → t.snapshot = none → (coreQueue s t).length < 16 →
      shapeM t.mshape ≤ 128 → ∀ row ∈ matrixRows d a b t, (row.2.1 = .mmag → t.tileg = true) →
        let e := matrixEntry t row.1 row.2.1 z row.2.2.1 row.2.2.2.1
        let u := { t with pc := slotAfter t.pc row.2.2.2.2, arrived := none, repeats := t.queuedRepeats, order := t.order + 1, mrow := 0,
                          mkoff := if row.2.1 = .mmai then t.mkoff + 512 else t.mkoff }
        let s1 := { s with matq := s.matq ++ [e] }.setThread u
        ∀ ops s2 e2, operandCheck s1 u e = .ok ops → rowsFrom u e ops ((List.range (shapeM t.mshape)).drop t.mrow.toNat) s1 = .done s2 e2 →
          exec row.1 s = .next (retireMatrix s2 t.tid e2) ∧ e2 = { e with dead := e2.dead, flags := e2.flags }) ∧
    (t.tileg = false → Handles t → Traps (.mmag d a b) s s t fun u => Entered t u 0x01 0x10 t.pc t.pc 0 0)

/-! ### Tile handles -/

/-- R173 to R182, R260 to R267: THNEW enters a valid descriptor into the directory and gives its handle, or 0 when the tenant may take no
entry. THFREE of a handle without tenures frees the entry and raises its generation. THACQR and THACQW are granted at once when no claim
conflicts, no L1 copy of the footprint being modified then, nor left at all for a write, and wait as a request, not granted, at a slice where a
granted claim conflicts. THREL ends the thread's tenure, and its core keeps no modified line of the footprint. THSPLIT cuts the tile in two. THINFO
describes a live handle, and gives 0 for any other. No die that an acquisition passes is stopped. An acquisition sets no A or D bit (log 40), and
claims of others meet on physical ranges (log 39). -/
def Obligations.TileHandles : Prop :=
  ∀ (d a : BitVec 7) (b : Src) (s : State) (t : Thread), Runs s t → AtRest s t → Clean t (a :: b.reads) →
    let h := t.g a
    (∀ r, scalarRead s t h 32 = .ok r →
      let w := fun k => BitVec.ofNat 64 (bits r.2 (64 * k) 64)
      let desc := descOf (w 0) (w 1) (w 2) (w 3)
      descFault (w 0) (w 1) desc = none →
      (mayTakeEntry s t.die t.tenant = true → ∃ s' u index, exec (.thnew d a) s = .next s' ∧ s'.thread? t.tid = some u ∧
        (∀ k ∈ s.tiles, k.die = t.die → k.index ≠ index) ∧ WroteA t u d (handleOf s t.die index t.tenant) 1 ∧
        s'.tiles = s.tiles ++ [{ die := t.die, index := index, tenant := t.tenant, desc := desc }] ∧ s'.tileGen = s.tileGen) ∧
      (mayTakeEntry s t.die t.tenant = false → ∃ s' u, exec (.thnew d a) s = .next s' ∧ s'.thread? t.tid = some u ∧ WroteA t u d 0 1 ∧
        s'.tiles = s.tiles)) ∧
    (∀ k, checkHandle s t.tenant h = .ok k →
      (matrixUses s h = false → (∀ c ∈ s.claims, c.handle ≠ h) → ∃ s' u, exec (.thfree a) s = .next s' ∧ s'.thread? t.tid = some u ∧
        Stepped t u 1 ∧ s'.tiles = s.tiles.filter (fun x => !(x.die = k.die && x.index = k.index)) ∧
        Sparse.get 0 s'.tileGen (tileKey k.die k.index) = Sparse.get 0 s.tileGen (tileKey k.die k.index) + 1 ∧
        (∀ j, j ≠ tileKey k.die k.index → Sparse.get 0 s'.tileGen j = Sparse.get 0 s.tileGen j) ∧
        s' = { s with threads := s'.threads, tiles := s'.tiles, tileGen := s'.tileGen }) ∧
      (matrixUses s h = false → (∃ c ∈ s.claims, c.handle = h) → Handles t →
        Traps (.thfree a) s s t fun u => Entered t u 0x10 0x01 t.pc t.pc 0 0) ∧
      ((∀ c ∈ s.claims, c.granted = true ∧ c.tid ≠ t.tid) → s.deferClaims = false →
        ∀ row ∈ [(Instr.thacqr a, false, accLoad), (Instr.thacqw a, true, accStore)], ∀ fs,
          footprint s t.agent row.2.2 (footprintPieces k.desc) = .ok fs →
          let rs := rangesOf fs
          let xs := slicesOf s rs
          let s0 := s.noteReads (leafReads (fs.map (·.2)))
          s.stoppedDies.mem (handleDie h).toNat = false → (∀ x ∈ xs, s.stoppedDies.mem (x / 64) = false) →
          s.stoppedDies.mem (t.tid.extractLsb' 9 2).toNat = false →
          let c : Claim := { handle := h, tid := t.tid, write := row.2.1, granted := true, ranges := rs, started := true, slices := [],
                             placed := xs.map fun x => (x, s.claimSeq), pc := t.pc, handler := t.inHandler, done := true }
          ((∀ x ∈ s.claims, claimsConflict c x = false) → ∃ s' u, exec row.1 s = .next s' ∧ s'.thread? t.tid = some u ∧ Stepped t u 1 ∧
            s'.claims = s.claims ++ [c] ∧ (row.2.1 = true → ∀ x ∈ s'.l1, lineMeets rs x.line = false) ∧
            (∀ x ∈ s'.l1, lineMeets rs x.line = true → x.modified = false) ∧
            s' = { s0 with threads := s'.threads, claims := s'.claims, claimSeq := s'.claimSeq, l1 := s'.l1, hostCopies := s'.hostCopies,
                           poison := s'.poison }) ∧
          ((∃ x ∈ s.claims, claimsConflict c x = true ∧ ∃ k ∈ xs, (x.placedAt k).isSome = true) →
            ∃ s' d, exec row.1 s = .next s' ∧ s'.thread? t.tid = some t ∧ s'.claims = s.claims ++ [d] ∧
              d = { c with granted := false, done := false, slices := d.slices, placed := d.placed } ∧
              s' = { s0 with claims := s'.claims, claimSeq := s'.claimSeq })) ∧
      ((∃ c ∈ s.claims, c.tid = t.tid ∧ c.handle = h) → (∀ c ∈ s.claims, c.tid = t.tid → c.granted = true) →
        ∃ s' u, exec (.threl a) s = .next s' ∧ s'.thread? t.tid = some u ∧ Stepped t u 1 ∧ (∀ c ∈ s'.claims, c.tid = t.tid → c.handle ≠ h) ∧
          (∀ x ∈ s'.l1, x.core = t.core → (∃ c ∈ s.claims, c.tid = t.tid ∧ c.handle = h ∧ lineMeets c.ranges x.line = true) →
            x.modified = false) ∧
          s' = { s with threads := s'.threads, claims := s'.claims, claimSeq := s'.claimSeq, l1 := s'.l1, hostCopies := s'.hostCopies,
                        poison := s'.poison }) ∧
      (∀ lo hi, 1 ≤ (t.src b).toNat → (t.src b).toNat < k.desc.rows → (∀ c ∈ s.claims, c.handle = h → c.tid = t.tid) →
        splitDesc k.desc (t.src b).toNat = some (lo, hi) → footprintsMeet lo hi = false →
        (mayTakeEntry s k.die t.tenant = true → ∃ s' u index, exec (.thsplit d a b) s = .next s' ∧ s'.thread? t.tid = some u ∧
          (∀ x ∈ s.tiles, x.die = k.die → x.index ≠ index) ∧ Wrote t u d (handleOf s k.die index t.tenant) b.slots ∧
          s'.tiles = (s.tiles.map fun x : Tile => if x.die = k.die ∧ x.index = k.index then { x with desc := lo } else x) ++
            [{ die := k.die, index := index, tenant := t.tenant, desc := hi }]) ∧
        (mayTakeEntry s k.die t.tenant = false → Completes (.thsplit d a b) s t fun u => Wrote t u d 0 b.slots)) ∧
      Completes (.thinfo d a) s t fun u => Wrote t u d
        (BitVec.ofNat 64 ((mineOf s t h).toNat * 2 ^ 62 + k.desc.fmt.toNat * 2 ^ 48 + k.desc.rlen16.toNat * 2 ^ 32 + k.desc.rows % 2 ^ 32)) 1) ∧
    (∀ sub, checkHandle s t.tenant h = .error sub →
      Completes (.thinfo d a) s t (fun u => Wrote t u d 0 1) ∧
      (Handles t → (matrixUses s h = false → Traps (.thfree a) s s t fun u => Entered t u 0x0C sub t.pc t.pc 0 0) ∧
        Traps (.threl a) s s t (fun u => Entered t u 0x0C sub t.pc t.pc 0 0) ∧
        Traps (.thsplit d a b) s s t fun u => Entered t u 0x0C sub t.pc t.pc 0 0))

/-! ### Tags -/

namespace Sys2Proof.Claims

/-- A tag raised by an increment, held at all ones (R200). -/
def raisedTag (tag : Word) (n : Nat) : Word :=
  mkTag (tagKind tag) (tagOwner tag) (BitVec.ofNat 24 (min ((tagValue tag).toNat + n) (2 ^ 24 - 1)))

/-- Nothing holds an event of a tagged row back, every tag of the ports is free, and nothing is poisoned or lost. -/
def RowsFree (s : State) : Prop :=
  s.deferAccords = false ∧ s.accords = [] ∧ s.claims = [] ∧ s.selfRefresh = [] ∧ s.stoppedDies = [] ∧ s.downPaths = [] ∧ s.packets = [] ∧
    s.replies = [] ∧ s.inflight = [] ∧ s.poison = [] ∧ s.lostLines = [] ∧ s.failedDies = [] ∧
    ∀ c ∈ s.l1, c.bad = []

/-- The leaf of a translation is marked already. -/
def Marked (s : State) (x : Trans) : Prop := ∀ e, x.entry = some e → s.mem.read e.loc &&& 0xC0 = 0xC0

end Sys2Proof.Claims

/-- R193 to R200: a TAG instruction on a window of one row that passes its checks. A row that matches is counted, cleared, filled, retagged,
incremented, listed or summed; one that does not match is left alone; TAGST and TAGLD make no match. g(d) receives the result. -/
def Obligations.TagOperations : Prop :=
  ∀ (d a : BitVec 7) (b : Src) (o : Order) (s : State) (t : Thread) (x : Trans) (list : List (Nat × Trans)), Runs s t → AtRest s t →
    Clean t (d :: a :: b.reads) → RowsFree s → Marked s x → (∀ p ∈ list, Marked s p.2) →
    let param := t.g d
    let pattern := t.src b
    let tag := tagOf s x.pa
    let hit := tagMatches tag pattern t.tenant
    let checked := fun (op : TagOp) => checkTag s t op (t.g a) pattern param = .ok ([(1024, x)], list)
    let gives := fun (i : Instr) (v : Nat) (P : State → Prop) => ∃ s' u, exec i s = .next s' ∧ s'.thread? t.tid = some u ∧
      WroteA t u d (BitVec.ofNat 64 v) b.slots ∧ (∀ pa, pa / 1024 ≠ x.pa / 1024 → tagOf s' pa = tagOf s pa) ∧ P s'
    let same := fun (s' : State) => s'.mem = s.mem
    let tagged := fun (w : Word) (s' : State) => Sparse.get Config.unownedTag s'.tags (x.pa / 1024) = w
    let n := if hit then 1 else 0
    let stored := Sparse.get Config.unownedTag s.tags (x.pa / 1024)
    let outside := fun (s' : State) => ∀ y, ¬ bytesAt x.pa 1024 y → s'.mem.read y = s.mem.read y
    (checked .tcnt → gives (.tcnt d a b o) n fun s' => same s' ∧ tagged stored s') ∧
    (checked .tclr → gives (.tclr d a b o) n fun s' => outside s' ∧ (hit = false → same s' ∧ tagged stored s') ∧
      (hit = true → tagged (mkTag 0 (tagOwner tag) 0) s' ∧ ∀ y, bytesAt x.pa 1024 y → s'.mem.read y = 0)) ∧
    (checked .tfill → gives (.tfill d a b o) n fun s' => outside s' ∧ tagged stored s' ∧ (hit = false → same s') ∧
      (hit = true → ∀ j, j < 128 → s'.mem64 (x.pa + 8 * j) = param)) ∧
    (checked .tretag → gives (.tretag d a b o) n fun s' => same s' ∧ tagged (if hit then param.extractLsb' 0 32 else stored) s') ∧
    (checked .tinc → gives (.tinc d a b o) n fun s' => same s' ∧ tagged (if hit then raisedTag tag (field param 0 24) else stored) s') ∧
    (checked .tcomp → gives (.tcomp d a b o) n fun s' => tagged stored s' ∧ (hit = false → same s') ∧
      (hit = true → ∀ l, list.head? = some l → isPeer l.2.loc = false → 4 ≤ l.1 → s'.loadBytes l.2.loc 4 = [0, 0, 0, 0])) ∧
    (checked .tsum → gives (.tsum d a b o) (if hit then (s.mem64 (x.pa + param.toNat)).toNat else 0) fun s' => same s' ∧ tagged stored s') ∧
    (checked .tagst → gives (.tagst d a b o) 1 fun s' => same s' ∧ tagged (param.extractLsb' 0 32) s') ∧
    (checked .tagld → gives (.tagld d a b o) (if belongs tag t.tenant then tag.toNat else 0xFFFFFFFF) fun s' => same s' ∧ tagged stored s')

/-! ### Engine commands -/

namespace Sys2Proof.Claims

/-- The commands whose block lies at g(a) (R73). -/
noncomputable def blockRows (d a : BitVec 7) (b : Src) (o : Order) : List (Instr × EngOp) :=
  [(.rcopy d a b o, .rcopy), (.rcopys d a b o, .rcopys), (.rzero d a b o, .rzero), (.cpy d a b o, .cpy), (.vstrm d a b o, .vstrm),
   (.rhist d a b o, .rhist), (.rscan d a b o, .rscan), (.rsort d a b o, .rsort), (.rcomb d a b o, .rcomb),
   (.exppark d a b o, .exppark), (.exppoll d a b o, .exppoll), (.tlaunch d a b o, .tlaunch)]

/-- The commands without a block. -/
noncomputable def bareRows (d : BitVec 7) (b : Src) (o : Order) : List (Instr × EngOp) :=
  [(.expq d b o, .expq), (.exprel d b o, .exprel), (.pgreq d b o, .pgreq)]

/-- Ticket slot k is the lowest that a thread does not hold (R202, R361). -/
def LowestFree (t : Thread) (k : Nat) : Prop :=
  k < 32 ∧ (∀ x ∈ t.tickets, x.slot.toNat ≠ k) ∧ ∀ j, j < k → ∃ x ∈ t.tickets, x.slot.toNat = j

/-- The ticket of a slot and a number: bit 63, the slot at bit 16, the number below it (R202). -/
def ticketOf (slot : BitVec 5) (seq : BitVec 16) : Dword := BitVec.ofNat 64 (2 ^ 63 + slot.toNat * 65536 + seq.toNat)

/-- A thread occurs once among the machine's threads. -/
def Sole (s : State) (t : Thread) : Prop := s.threads.filter (fun u => u.tid = t.tid) = [t]

/-- A command occurs once among those in flight. -/
def SoleCommand (s : State) (c : Command) : Prop := s.commands.filter (fun x => x.tid = c.tid && x.slot = c.slot) = [c]

/-- A command is gone, and its thread's ticket has the final status (R205). -/
def Closed (s s' : State) (c : Command) (status : Dword) : Prop :=
  (∀ x, x ∈ s'.commands ↔ x ∈ s.commands ∧ ¬ (x.tid = c.tid ∧ x.slot = c.slot ∧ x.seq = c.seq)) ∧
    ∀ t k, s.thread? c.tid = some t → k ∈ t.tickets → k.slot = c.slot → k.seq = c.seq →
      ∃ u, s'.thread? c.tid = some u ∧ { k with status := some status } ∈ u.tickets

end Sys2Proof.Claims

/-- R201 to R203, R205, R214: an engine instruction of a thread with nothing outstanding takes the lowest free ticket slot, puts a command with
its operands behind the thread's others, and writes the ticket to g(d); with 32 tickets held it traps. A block address that is no multiple of 64
traps. ENGWAIT and ENGTEST of a ticket whose command has completed collect its status and free the slot; ENGWAIT waits for one that has not,
ENGTEST gives −1; any other value gives 0xFE. -/
def Obligations.EngineCommands : Prop :=
  ∀ (d a : BitVec 7) (b : Src) (o : Order) (s : State) (t : Thread), Runs s t → AtRest s t → Clean t (a :: b.reads) →
    let issues := fun (i : Instr) (op : EngOp) (block : Dword) (l : Loc) (entry : Option Loc) (k : Nat) =>
      ∃ s' u c, exec i s = .next s' ∧ s'.thread? t.tid = some u ∧ s'.commands = s.commands ++ [c] ∧
        c.tid = t.tid ∧ c.slot.toNat = k ∧ c.seq = BitVec.ofNat 16 t.issued ∧ c.op = op ∧ c.block = block ∧ c.blockAt = l ∧
        c.arg = t.src b ∧ c.tenant = t.tenant ∧ c.sup = t.sup ∧ c.atp = t.atp ∧ c.phase = .issued ∧
        (c.acq = true ↔ o = .acq ∨ o = .acqrel) ∧
        (∀ x, x ∈ c.before ↔ ∃ y ∈ s.commands, y.tid = t.tid ∧ (y.slot, y.seq) = x) ∧
        WroteG t u d (ticketOf c.slot c.seq) ∧ u.tickets = t.tickets ++ [{ slot := c.slot, seq := c.seq, status := none }] ∧
        SteppedA { t with scal := u.scal, badScal := u.badScal, tickets := u.tickets, issued := t.issued + 1 } u b.slots ∧
        (∀ x, some x ≠ entry → s'.mem.read x = s.mem.read x)
    let collects := fun (i : Instr) (status : Dword) (slot : BitVec 5) => Completes i s t fun u =>
      WroteG t u d status ∧ u.tickets = t.tickets.filter (fun x => x.slot != slot) ∧
        Stepped { t with scal := u.scal, badScal := u.badScal, tickets := u.tickets } u 1
    (∀ row ∈ blockRows d a b o,
      ((t.g a).toNat % 64 ≠ 0 → Handles t → Traps row.1 s s t fun u => Entered t u 0x03 0x00 t.pc t.pc (t.g a) 0) ∧
      ∀ tr, (t.g a).toNat % 64 = 0 → locateScalar s t.agent accLoad (t.g a) 64 = .ok tr →
        (∀ k, LowestFree t k → leafHeld s t.tid accLoad tr.entry = false → issues row.1 row.2 (t.g a) tr.loc (tr.entry.map (·.loc)) k) ∧
        ((∀ k : BitVec 5, ∃ x ∈ t.tickets, x.slot = k) → Marked s tr → Handles t →
          Traps row.1 s (s.markLeaf accLoad tr.entry) t fun u => Entered t u 0x13 0x01 t.pc t.pc 0 0)) ∧
    (∀ row ∈ bareRows d b o,
      (∀ k, LowestFree t k → issues row.1 row.2 0 0 none k) ∧
      ((∀ k : BitVec 5, ∃ x ∈ t.tickets, x.slot = k) → Handles t → Traps row.1 s s t fun u => Entered t u 0x13 0x01 t.pc t.pc 0 0)) ∧
    (∀ k ∈ t.tickets, (∀ x ∈ t.tickets, x.slot = k.slot → x = k) → t.g a = ticketOf k.slot k.seq →
      (∀ status, k.status = some status → collects (.engwait d a) status k.slot ∧ collects (.engtest d a) status k.slot) ∧
      (k.status = none → exec (.engwait d a) s = .next s ∧ Completes (.engtest d a) s t fun u => Wrote t u d ones64 1)) ∧
    ((∀ k ∈ t.tickets, t.g a ≠ ticketOf k.slot k.seq) →
      Completes (.engwait d a) s t (fun u => Wrote t u d 0xFE 1) ∧ Completes (.engtest d a) s t fun u => Wrote t u d 0xFE 1)

/-! ### The life of a command, of an accord and of an expert -/

/-- R201, R204, R205, R276: an engine of a die that runs accepts a command whose thread has no earlier one waiting, and one of a stopped die none
(log 90): it reads the block once, after the issuer's own stores to it (log 44), and a block with a parameter error, or a TLAUNCH that is
refused, ends the command with the status of the lowest SUB. A TLAUNCH that is not refused writes its block at TAIL and advances TAIL. A command
whose operation has ended writes RESULT and its thread's ticket gets the status; one without a block writes none. An accepted command keeps no
translation of its block (R120). -/
def Obligations.CommandEvents : Prop :=
  ∀ (s : State) (c : Command), SoleCommand s c →
    let clear : Prop := ∀ x ∈ s.commands, x.tid = c.tid → x.phase ≠ .issued ∨ x = c
    let runs : Prop := c.replay = none ∧ s.stoppedDies.mem c.die.toNat = false
    let becomes := fun (s1 : State) (i : Instr) (c' : Command) =>
      ∃ s', exec i s = .next s' ∧ s'.commands = s1.commands.map (fun x => if x.tid = c.tid ∧ x.slot = c.slot then c' else x) ∧
        s' = { s1 with commands := s'.commands }
    let closes := fun (s1 : State) (i : Instr) (status : Dword) => ∃ s', exec i s = .next s' ∧ Closed s1 s' c status ∧
      s' = { s1 with commands := s'.commands, threads := s'.threads }
    let accept := Instr.commandAccept c.tid c.slot
    let complete := Instr.commandCompletion c.tid c.slot
    let bare : Prop := c.op = .expq ∨ c.op = .exprel ∨ c.op = .pgreq
    (c.phase = .issued → runs → clear → bare → becomes s accept { c with phase := .accepted }) ∧
    ((∀ t, s.thread? c.tid = some t → ∀ p ∈ t.sbuf, overlap c.blockAt 64 p.loc p.bytes.length = false) →
      heldBack s c.tid false c.blockAt 64 = false → portHeld s (enginePort c.die) c.tenant (placeTrans c.blockAt) = false →
      ∃ s1, readBlock s c = some s1 ∧ s1 = { s with corrected := s1.corrected, sendSeq := s1.sendSeq, unacked := s1.unacked,
                                                    inflight := s1.inflight, hbmDeficit := s1.hbmDeficit, l1 := s1.l1, poison := s1.poison }) ∧
    (c.phase = .issued → runs → clear → ¬ bare → ∀ s1, readBlock s c = some s1 →
      let ws := dwordsOf (s1.loadBytes c.blockAt 64)
      s1.commands = s.commands ∧
      (c.op = .tlaunch → ∀ sub, launchRefusal s1 c.tenant c.sup c.arg ws = some sub → sub < 3 →
        closes s1 accept (BitVec.ofNat 64 (0x30 + 256 * sub))) ∧
      (poisonSub s1 c.blockAt 64 = none →
        (c.op ≠ .tlaunch →
          (∀ sub, paramFault s1 { c with params := ws, pages := [] } = some sub → closes s1 accept (BitVec.ofNat 64 (1 + 256 * sub))) ∧
          (paramFault s1 { c with params := ws, pages := [] } = none →
            becomes s1 accept { c with params := ws, pages := [], phase := .accepted })) ∧
        (c.op = .tlaunch →
          (∀ sub, launchRefusal s1 c.tenant c.sup c.arg ws = some sub → closes s1 accept (BitVec.ofNat 64 (0x30 + 256 * sub))) ∧
          (launchRefusal s1 c.tenant c.sup c.arg ws = none →
            let q := c.arg.extractLsb' 0 10
            let at_ := qBlock (qcfg s1 q) (qTail s1 q)
            heldBack s1 c.tid true at_ 64 = false →
            ∃ s', exec accept s = .next s' ∧ s'.loadBytes at_ 64 = ws.flatMap (fun w => leBytes 8 w.toNat) ∧
              qTail s' q = (qTail s q + 1) % 65536 ∧
              { c with params := ws, pages := [], phase := .waiting, launch := some (q, qTail s q) } ∈ s'.commands)))) ∧
    (c.phase ≠ .issued ∨ ¬ runs → exec accept s = .next s) ∧
    (c.phase = .issued → exec complete s = .next s) ∧
    (∀ status result, c.phase = .finishing status result → runs →
      (bare → closes s complete status) ∧
      (¬ bare → c.op ≠ .tlaunch → ∀ tr, enginePiece s c accStore false (c.block.toNat + 0x38) 8 = .ok tr → isPeer tr.loc = false →
        (c.params.getD 0 0).getLsbD 13 = false →
        ∃ s', exec complete s = .next s' ∧ Closed s s' c status ∧ s'.mem64 tr.loc = result ∧
          ∀ x, ¬ bytesAt tr.loc 8 x → some x ≠ tr.entry.map (·.loc) → s'.mem.read x = s.mem.read x))

/-- R196, R241, R297 to R300, R310 to R316: an accord's packet arrives at a stack once the base die's buffer has room for it; the event of a
TCNT's row performs once its packet has arrived, the stack is not in self-refresh, the row's home slice has not stopped (R351, log 90), no claim
holds the row and no lower row of its bank is left, and the last one completes the instruction with its count. A fetch that the host ends with
success makes its expert resident with a pin for each entry that waited (modulo 2¹⁶, log 49), one that fails leaves STATE 4 and its error; an
eviction ends in STATE 0 once no access through the slot is still to perform, and no copy of the slot's lines that a fetch has kept stays. Each
waits while the expert's table entry is held back (log 52). -/
def Obligations.AccordsAndExperts : Prop :=
  (∀ (s : State) (x : Accord) (stack : BitVec 4), s.accords = [x] →
    (bufferRoom s stack = true → x.arrivedAt stack = none → (∃ r ∈ x.rows, stackOf r.pa = stack) →
      exec (.accordPacket x.tid stack) s = .next { s with
        accordSeq := s.accordSeq + 1, accords := [{ x with arrivals := x.arrivals ++ [(stack.toNat, s.accordSeq)] }] }) ∧
    (bufferRoom s stack = false ∨ x.arrivedAt stack ≠ none → exec (.accordPacket x.tid stack) s = .next s)) ∧
  (∀ (s : State) (x : Accord) (r : AccordRow) (t : Thread), s.accords = [x] → x.op = .tcnt → x.badRow = none → x.hits = [] → x.listed = 0 →
    Sole s t → t.tid = x.tid → r ∈ x.rows → (∀ y ∈ x.rows, y.index = r.index → y = r) → r.index < 2 ^ 25 →
    let n := x.count + if tagMatches (tagOf s r.pa) x.pattern x.tenant then 1 else 0
    let i := Instr.matchAndAct x.tid (BitVec.ofNat 25 r.index)
    (x.arrivedAt (stackOf r.pa) ≠ none → s.selfRefresh.mem (stackOf r.pa).toNat = false → s.stoppedDies.mem t.die.toNat = false →
      homeStopped s r.pa = false → claimHolds s x.tid false r.pa 1024 = false → lineLost s r.pa 1024 = false →
      (∀ y ∈ x.rows, y.pa / 1024 % 2 ^ 14 = r.pa / 1024 % 2 ^ 14 → r.pa ≤ y.pa) →
      ∃ s' u, exec i s = .next s' ∧ s'.thread? t.tid = some u ∧ s' = { s with accords := s'.accords, threads := s'.threads } ∧
        ((∀ y ∈ x.rows, y = r) → s'.accords = [] ∧ Wrote t u x.d (BitVec.ofNat 64 n) x.slots) ∧
        ((∃ y ∈ x.rows, y ≠ r) → u = t ∧ s'.accords = [{ x with rows := x.rows.filter fun y => y.index != r.index, count := n }])) ∧
    (x.arrivedAt (stackOf r.pa) = none ∨ claimHolds s x.tid false r.pa 1024 = true ∨ s.selfRefresh.mem (stackOf r.pa).toNat = true ∨
        homeStopped s r.pa = true →
      exec i s = .next s)) ∧
  (∀ (s : State) (f : Fetch) (e : Nat), s.fetches = [f] → ertEntry s f.tenant f.expert.toNat = some e → f.placed = true →
    (∀ t ∈ s.threads, t.parked = false) → ertHeld s deviceTid f.tenant true f.expert.toNat = false →
    let failed := fun (i : Instr) (code : Nat) => ∃ s', exec i s = .next s' ∧ s'.fetches = [] ∧ ertState s' e = 4 ∧
      field (s'.mem64 e) 8 8 = code ∧ field (s'.mem64 e) 0 8 = min 255 (field (s.mem64 e) 0 8 + 1) ∧ ertPins s' e = ertPins s e ∧
      (∀ k ∈ s'.tokens, k.tenant = f.tenant → k.expert = f.expert → k.ready = true) ∧
      (∀ a, ¬ bytesAt e 8 a → s'.mem.read a = s.mem.read a)
    let mine := fun k : Token => k.tenant = f.tenant && k.expert = f.expert && !k.ready
    let written : Prop := hostWrites s (poolSlot s f.tenant (ertSlot s e)) (slotBytes s f.tenant) = false
    (f.host = true → f.ended = some 0 → written →
      ∃ s', exec (.expertFetchDone f.tenant f.expert) s = .next s' ∧ s'.fetches = [] ∧ ertState s' e = 2 ∧
        ertPins s' e = (ertPins s e + (s.tokens.filter mine).length) % 65536 ∧
        (∀ k ∈ s'.tokens, k.tenant = f.tenant → k.expert = f.expert → k.ready = true) ∧ s'.tokens.length = s.tokens.length) ∧
    (∀ code, f.host = true → f.ended = some code → code ≠ 0 → written → failed (.expertFetchDone f.tenant f.expert) 4) ∧
    (f.host = false → failed (.expertFetchFailure f.tenant f.expert) 3)) ∧
  (∀ (s : State) (tenant : BitVec 4) (x : BitVec 16) (e : Nat), s.evicting = [(tenant, x, false)] → ertEntry s tenant x.toNat = some e →
    (slotInUse s (poolSlot s tenant (ertSlot s e)) (slotBytes s tenant) = false → ertHeld s deviceTid tenant true x.toNat = false →
      ∃ s', exec (.evictionEnd tenant x) s = .next s' ∧ s'.evicting = [] ∧ ertState s' e = 0 ∧
        (∀ c ∈ s'.leaves, ¬ (c.leaf.getLsbD 57 = true ∧ c.leaf.extractLsb' 38 16 = x)) ∧ s'.fetches = s.fetches ∧
        (∀ c ∈ s'.fetchCopies, overlap c.pa 128 (poolSlot s tenant (ertSlot s e)) (slotBytes s tenant) = false) ∧
        ∀ a, ¬ bytesAt e 8 a → s'.mem.read a = s.mem.read a) ∧
    (slotInUse s (poolSlot s tenant (ertSlot s e)) (slotBytes s tenant) = true ∨ ertHeld s deviceTid tenant true x.toNat = true →
      exec (.evictionEnd tenant x) s = .next s))

/-! ### Management space -/

namespace Sys2Proof.Claims

/-- A write of a management register: the row of the opcode table, the register's die and offset, what it holds afterwards, and when the device
takes the write. -/
structure RegisterWrite where
  instr : Instr
  die : BitVec 2
  off : Nat
  value : Dword
  taken : Prop

/-- One management register holds a value; every other register and all else is as it was. -/
def SetsRegister (s s' : State) (die : BitVec 2) (off : Nat) (v : Dword) : Prop :=
  s'.mreg die off = v ∧ (∀ d o, o < 65536 → (d, o) ≠ (die, off) → s'.mreg d o = s.mreg d o) ∧ s' = { s with mgmt := s'.mgmt }

/-- LO of the tenants of a die summed, with one tenant's replaced (R232, R267). -/
def reserved (s : State) (die : BitVec 2) (base lo n : Nat) (t : BitVec 4) (v : Dword) : Nat :=
  ((List.range 16).map fun u => field (if u = t.toNat then v else s.mreg die (base + 8 * u)) lo n).sum

/-- A window may be enabled: it lies in its region and shares no byte with another enabled one (R341, R346). -/
def windowFree (w : Nat × Nat) (lo hi : Nat) (others : List (Nat × Nat)) : Prop :=
  lo ≤ w.1 ∧ w.1 + w.2 ≤ hi ∧ ∀ o ∈ others, o.1 + o.2 ≤ w.1 ∨ w.1 + w.2 ≤ o.1

/-- The register writes of R231, R232, R242, R267, R272, R275, R279, R282, R293, R306, R307, R316, R329, R333, R335, R341, R344 to R346. A flag
that a 1 clears keeps its value where the bit written is 0. -/
noncomputable def registerWrites (s : State) (die : BitVec 2) (t : BitVec 4) (core : BitVec 6) (k : BitVec 3) (j : BitVec 6) (v : Dword) :
    List RegisterWrite :=
  let idle : Prop := ∀ p ∈ ertEntries s t, ertState s p.2 ∉ [1, 2, 3]
  let hdm := s.mreg die (0xA008 + 16 * k.toNat)
  let ap := s.mreg 0 (0xB008 + 16 * j.toNat)
  let ptr := s.mreg 0 (0x4608 + 64 * t.toNat)
  let har := s.mreg 0 (0x5008 + 32 * t.toNat)
  let other := fun (d : BitVec 2) (off : Nat) => Instr.managementRegisterWrite d (BitVec.ofNat 16 off) v
  let cleared := fun (d : BitVec 2) (off bit : Nat) => s.mreg d off &&& ~~~(BitVec.ofNat 64 (if v.getLsbD bit then 2 ^ bit else 0))
  [⟨.l2wqWrite die t v, die, 0x4000 + 8 * t.toNat, v &&& 0x1F001F,
      field v 16 5 ≤ field v 0 5 ∧ field v 0 5 ≤ 16 ∧ reserved s die 0x4000 16 5 t v ≤ 16⟩,
   ⟨.dirqWrite die t v, die, 0x4080 + 8 * t.toNat, v &&& 0x7FFF00007FFF,
      field v 32 15 ≤ field v 0 15 ∧ field v 0 15 ≤ 16384 ∧ reserved s die 0x4080 32 15 t v ≤ 16384⟩,
   ⟨other die (0x4100 + 8 * t.toNat), die, 0x4100 + 8 * t.toNat, v &&& 0xFF00FF, field v 16 8 ≠ 0⟩,
   ⟨.ctxpoolWrite die t v, die, 0x4180 + 8 * t.toNat, v &&& 0x01FFFFFFFFF0FFFF, ∀ u ∈ s.threads, ¬ (u.die = die ∧ u.tenant = t)⟩,
   ⟨other die 0x4200, die, 0x4200, v &&& 0xFFFF, field v 0 16 ≠ 0⟩,
   ⟨.splitWrite t v, 0, 0x4280 + 8 * t.toNat, v &&& (if t = 0 then 0x3F else 0x07), True⟩,
   ⟨other 0 (0x4300 + 8 * t.toNat), 0, 0x4300 + 8 * t.toNat, v &&& 0xFF, True⟩,
   ⟨.ertcfgWrite t v, 0, 0x4400 + 8 * t.toNat, v &&& 0x01FFFFFFFFFFFFFF, idle⟩,
   ⟨.exppoolWrite t v, 0, 0x4480 + 8 * t.toNat, v &&& 0x01FFFFFFFFFFFFFF, idle ∧ 16 ≤ field v 11 5 ∧ field v 11 5 ≤ 30⟩,
   ⟨.tqcfgWrite t v, 0, 0x4600 + 64 * t.toNat, v &&& 0x01FFFFFFFFFFF00F,
      field ptr 32 16 = field ptr 0 16 ∧ (∀ u ∈ s.threads, u.tenant = t → u.replay = none) ∧
      (∀ c ∈ s.commands, c.tenant = t → c.replay = none) ∧ 2 ≤ field v 0 4 ∧ field v 0 4 ≤ 12⟩,
   ⟨.tqptrHeadWrite t v, 0, 0x4608 + 64 * t.toNat, (ptr &&& 0xFFFFFFFFFFFF0000) ||| (v &&& 0xFFFF),
      (field v 0 16 + 65536 - field ptr 0 16) % 65536 ≤ (field ptr 32 16 + 65536 - field ptr 0 16) % 65536⟩,
   ⟨other 0 (0x4618 + 64 * t.toNat), 0, 0x4618 + 64 * t.toNat, v, True⟩,
   ⟨other 0 (0x5000 + 32 * t.toNat), 0, 0x5000 + 32 * t.toNat, v &&& 0x01FFFFFFFFFFF00F, True⟩,
   ⟨other die (0x4380 + 8 * t.toNat), die, 0x4380 + 8 * t.toNat, v &&& 0xFFFFFFFFFFFF, True⟩,
   ⟨other die (0xC008 + 64 * (k.toNat % 4)), die, 0xC008 + 64 * (k.toNat % 4), v &&& 0x3FFF, True⟩,
   ⟨other 0 (0x4610 + 64 * t.toNat), 0, 0x4610 + 64 * t.toNat, cleared 0 (0x4610 + 64 * t.toNat) 0, True⟩,
   ⟨other die (0x6008 + 16 * core.toNat), die, 0x6008 + 16 * core.toNat, cleared die (0x6008 + 16 * core.toNat) 0, core.toNat < 60⟩,
   ⟨other die (0x8018 + 32 * (4 * j.toNat + k.toNat % 4)), die, 0x8018 + 32 * (4 * j.toNat + k.toNat % 4),
      cleared die (0x8018 + 32 * (4 * j.toNat + k.toNat % 4)) 16, True⟩,
   ⟨other die (0xC010 + 64 * (k.toNat % 4)), die, 0xC010 + 64 * (k.toNat % 4), cleared die (0xC010 + 64 * (k.toNat % 4)) 0, True⟩,
   ⟨.harptrHeadWrite t v, 0, 0x5008 + 32 * t.toNat, (har &&& 0xFFFFFFFF00000000) ||| (v &&& 0xFFFFFFFF), True⟩,
   ⟨.lanedisWrite die core v, die, 0x6000 + 16 * core.toNat, v, core.toNat < 60⟩,
   ⟨.hdmbaseWrite die k v, die, 0xA000 + 16 * k.toNat, v &&& 0x0000FFFFF003FFFF, hdm.getLsbD 16 = false⟩,
   ⟨.hdmctlWrite die k v, die, 0xA008 + 16 * k.toNat, v &&& 0x1FFFF,
      ¬ (hdm.getLsbD 16 = true ∧ v.getLsbD 16 = true ∧ hdm ≠ v &&& 0x1FFFF) ∧
      (v.getLsbD 16 = true → hdm.getLsbD 16 = false →
        windowFree (windowOf (s.mreg die (0xA000 + 16 * k.toNat)) 20) 0x10000000000 0x410000000000 (otherHdm s die k.toNat))⟩,
   ⟨.apbaseWrite j v, 0, 0xB000 + 16 * j.toNat, v &&& 0x00FFFFFFF003FFFF,
      ap.getLsbD 16 = false ∧ 0x1000000000000 ≤ field v 28 28 * 2 ^ 28⟩,
   ⟨.apctlWrite j v, 0, 0xB008 + 16 * j.toNat, v &&& 0xFFFFFFFFF001FFFF,
      ¬ (ap.getLsbD 16 = true ∧ v.getLsbD 16 = true ∧ ap ≠ v &&& 0xFFFFFFFFF001FFFF) ∧
      (v.getLsbD 16 = true → ap.getLsbD 16 = false →
        windowFree (windowOf (s.mreg 0 (0xB000 + 16 * j.toNat)) 28) 0x1000000000000 0x100000000000000 (otherApertures s j.toNat))⟩]

end Sys2Proof.Claims

/-- R231, R232, R242, R267, R271, R272, R275, R279, R282, R306, R307, R315, R329, R335, R338, R341, R344 to R346, R373: a register write that
meets its limits sets that register's writable fields and nothing else; any other is refused as a whole. MANAGEMENT_REGISTER_WRITE to a
register's offset is that register's write, and one that is no multiple of 8 is ignored. QCFG that enables a queue resets HEAD and TAIL, and the
launches posted to it are lost (log 86); QTAIL past the ring sets ERRF; a doorbell is a QTAIL write of the tenant's own host-fed queue, and sets
ERRF otherwise. QCFG of a failed die takes no write (log 91). EXPDONE ends the host-assisted fetch that it names; where it names a hardware fetch
it only sets the register, and it is ignored where it names none (log 51). A device held after its firmware has failed takes no write (R349). -/
def Obligations.RegisterWrites : Prop :=
  (∀ (s : State) (die : BitVec 2) (t : BitVec 4) (core : BitVec 6) (k : BitVec 3) (j : BitVec 6) (v : Dword),
    ∀ row ∈ registerWrites s die t core k j v,
      (s.firmwareOk = true → row.taken → ∃ s', exec row.instr s = .next s' ∧ SetsRegister s s' row.die row.off row.value) ∧
      (s.firmwareOk = false ∨ ¬ row.taken → exec row.instr s = .next s) ∧
      exec (.managementRegisterWrite row.die (BitVec.ofNat 16 row.off) v) s = exec row.instr s ∧
      ∀ m, m % 8 ≠ 0 → m < 8 → exec (.managementRegisterWrite row.die (BitVec.ofNat 16 (row.off + m)) v) s = .next s) ∧
  (∀ (s : State) (q : BitVec 10) (v : Dword),
    let old := qcfg s q
    let new := v &&& 0x03FFFFFFFFFFFFFF
    let starts : Prop := new.getLsbD 0 = true ∧ old.getLsbD 0 = false
    let allowed : Prop := s.firmwareOk = true ∧ s.failedDies.mem (q.toNat / 256) = false ∧ field new 8 4 < 12 ∧
      ¬ (old.getLsbD 0 = true ∧ new.getLsbD 0 = true ∧ old ≠ new) ∧
      (starts → (allQueues.filter fun x => qEnabled (qcfg s x) && qTenant (qcfg s x) = qTenant new).length < 64)
    (allowed → ∃ s', exec (.qcfgWrite q v) s = .next s' ∧ qcfg s' q = new ∧
      (starts → qHead s' q = 0 ∧ qTail s' q = 0 ∧ ∀ c ∈ s'.commands, ∀ k, c.launch ≠ some (q, k)) ∧
      (¬ starts → qHead s' q = qHead s q ∧ qTail s' q = qTail s q ∧ s'.commands = s.commands) ∧
      ((∀ c ∈ s.commands, ∀ k, c.launch ≠ some (q, k)) → s'.commands = s.commands) ∧
      (∀ x, x ≠ q → qcfg s' x = qcfg s x ∧ qHead s' x = qHead s x ∧ qTail s' x = qTail s x) ∧
      s' = { s with mgmt := s'.mgmt, commands := s'.commands }) ∧
    (¬ allowed → exec (.qcfgWrite q v) s = .next s)) ∧
  (∀ (s : State) (v : Dword) (vf : BitVec 5) (width : BitVec 4) (p : BitVec 10), s.firmwareOk = true →
    let q := v.extractLsb' 16 10
    let posts := fun (i : Instr) (q : BitVec 10) =>
      let at_ := 0x8000 + 32 * (q.toNat % 256)
      let die : BitVec 2 := BitVec.ofNat 2 (q.toNat / 256)
      ((field v 0 16 + 65536 - qHead s q) % 65536 ≤ 2 ^ (field (qcfg s q) 8 4 + 4) →
        ∃ s', exec i s = .next s' ∧ SetsRegister s s' die (at_ + 16) (v &&& 0xFFFF)) ∧
      (2 ^ (field (qcfg s q) 8 4 + 4) < (field v 0 16 + 65536 - qHead s q) % 65536 →
        ∃ s', exec i s = .next s' ∧ SetsRegister s s' die (at_ + 24) (s.mreg die (at_ + 24) ||| 0x10000))
    let own : Prop := width = 8 ∧ (qTenant (qcfg s q)).toNat + 1 = vf.toNat ∧ qDeviceFed (qcfg s q) = false ∧ qSup (qcfg s q) = false
    posts (.qtailWrite p v) p ∧
    (s.bringUp = 6 → 1 ≤ vf.toNat → vf.toNat ≤ 16 →
      (own → posts (.doorbell vf v width) q) ∧
      (¬ own → ∃ s', exec (.doorbell vf v width) s = .next s' ∧ SetsRegister s s' (BitVec.ofNat 2 (q.toNat / 256))
        (0x8018 + 32 * (q.toNat % 256)) (s.mreg (BitVec.ofNat 2 (q.toNat / 256)) (0x8018 + 32 * (q.toNat % 256)) ||| 0x10000))) ∧
    (s.bringUp ≠ 6 → exec (.doorbell vf v width) s = .next s)) ∧
  (∀ (s : State) (t : BitVec 4) (v : Dword), s.firmwareOk = true →
    (∀ f, s.fetch? t (v.extractLsb' 0 16) = some f → f.host = true →
      ∃ s', exec (.expdoneWrite t v) s = .next s' ∧ s'.mreg 0 (0x4500 + 8 * t.toNat) = v &&& 0xFFFFFF ∧
        s'.fetch? t (v.extractLsb' 0 16) = some { f with ended := some (field v 16 8) } ∧
        (∀ u x, (u, x) ≠ (t, v.extractLsb' 0 16) → s'.fetch? u x = s.fetch? u x) ∧
        s' = { s with mgmt := s'.mgmt, fetches := s'.fetches }) ∧
    (∀ f, s.fetch? t (v.extractLsb' 0 16) = some f → f.host = false →
      ∃ s', exec (.expdoneWrite t v) s = .next s' ∧ SetsRegister s s' 0 (0x4500 + 8 * t.toNat) (v &&& 0xFFFFFF)) ∧
    (s.fetch? t (v.extractLsb' 0 16) = none → exec (.expdoneWrite t v) s = .next s))

/-- R295, R296: TOWNCTL of an idle stack checks the whole range first: past the last frame RESULT is 2, over a frame of another tenant 1, and
nothing else is changed. A range with frames to change makes the stack busy with just those, and one with none gives RESULT 0. While the stack is busy
the write is ignored. A row's change tags it for the tenant, or zeroes and untags it, and goes on to the next row; a stack in self-refresh changes
none (R241), nor does one of a stopped die (R351, log 90), and a release waits for the packets to the row that have arrived before it (R235) and
that no claim holds. The owner of a frame changes with its first row at assignment and with its last at release (log 57), which clears V and leaves
TENANT as it was. -/
def Obligations.OwnershipUpdates : Prop :=
  (∀ (s : State) (stack : BitVec 4) (frame countM1 : BitVec 14) (tenant : BitVec 4), s.firmwareOk = true →
    let off := 0xC000 + 64 * (stack.toNat % 4)
    let inRange := fun f => frame.toNat ≤ f ∧ f ≤ frame.toNat + countM1.toNat
    let result := fun (i : Instr) (r : Nat) => ∃ s', exec i s = .next s' ∧ s' = { s with mgmt := s'.mgmt } ∧
      field (s'.mreg (stackDie stack) off) 38 2 = r ∧
      (r ≠ 0 → s'.mreg (stackDie stack) off = setField (s.mreg (stackDie stack) off) 38 2 r) ∧
      ∀ d o, o < 65536 → (d, o) ≠ (stackDie stack, off) → s'.mreg d o = s.mreg d o
    let begins := fun (i : Instr) (assign : Bool) (t : BitVec 4) (todo : Nat → Prop) => ∃ s' fs, exec i s = .next s' ∧
      s'.ownership = s.ownership ++ [{ stack := stack, assign := assign, tenant := t, frames := fs, row := 0 }] ∧
      (∀ f, f ∈ fs ↔ todo f) ∧ s' = { s with mgmt := s'.mgmt, ownership := s'.ownership }
    let assign := Instr.townctlAssign stack frame countM1 tenant
    let release := Instr.townctlRelease stack frame countM1
    let foreign := fun f => frameOwner s stack f ≠ 0 ∧ frameOwner s stack f ≠ tenant.toNat + 1
    ((∃ o ∈ s.ownership, o.stack = stack) → exec assign s = .next s ∧ exec release s = .next s) ∧
    ((∀ o ∈ s.ownership, o.stack ≠ stack) →
      (16383 < frame.toNat + countM1.toNat → result assign 2 ∧ result release 2) ∧
      (frame.toNat + countM1.toNat ≤ 16383 →
        ((∃ f, inRange f ∧ foreign f) → result assign 1) ∧
        ((∀ f, inRange f → ¬ foreign f) →
          ((∃ f, inRange f ∧ frameOwner s stack f = 0) → begins assign true tenant fun f => inRange f ∧ frameOwner s stack f = 0) ∧
          ((∀ f, inRange f → frameOwner s stack f ≠ 0) → result assign 0)) ∧
        ((∃ f, inRange f ∧ frameOwner s stack f ≠ 0) → begins release false 0 fun f => inRange f ∧ frameOwner s stack f ≠ 0) ∧
        ((∀ f, inRange f → frameOwner s stack f = 0) → result release 0)))) ∧
  (∀ (s : State) (o : Ownership) (f : Nat) (rest : List Nat), s.ownership = [o] → o.frames = f :: rest → o.row < 64 →
    s.selfRefresh.mem o.stack.toNat = false → s.stoppedDies.mem (stackDie o.stack).toNat = false →
    let pa := f * 1048576 + o.stack.toNat * 65536 + o.row * 1024
    let arrived : Prop := ∃ p ∈ s.packets, overlap p.access.pa.toNat (accessSize p.access) pa 1024 = true ∧ packetHeld s p = false
    (o.assign = false → arrived → exec (.ownershipRowChange o.stack) s = .next s) ∧
    (o.assign = true ∨ ¬ arrived → ∃ s', exec (.ownershipRowChange o.stack) s = .next s' ∧
      Sparse.get Config.unownedTag s'.tags (pa / 1024) = (if o.assign then mkTag 0 o.tenant 0 else 0xFF000000) ∧
      (∀ r, r ≠ pa / 1024 → Sparse.get Config.unownedTag s'.tags r = Sparse.get Config.unownedTag s.tags r) ∧
      (∀ a, s'.mem.read a = if o.assign = false ∧ pa ≤ a ∧ a < pa + 1024 then 0 else s.mem.read a) ∧
      (o.row < 63 → s'.ownership = [{ o with row := o.row + 1 }]) ∧
      (o.row = 63 → s'.ownership = if rest = [] then [] else [{ o with frames := rest, row := 0 }]) ∧
      frameOwner s' o.stack f = (if o.assign = true ∧ o.row = 0 then o.tenant.toNat + 1
        else if o.assign = false ∧ o.row = 63 then 0 else frameOwner s o.stack f) ∧
      (o.assign = false → frameEntry s' o.stack f % 16 = frameEntry s o.stack f % 16))) ∧
  (∀ (s : State) (o : Ownership), s.ownership = [o] → o.frames ≠ [] →
    s.selfRefresh.mem o.stack.toNat = true ∨ s.stoppedDies.mem (stackDie o.stack).toNat = true →
    exec (.ownershipRowChange o.stack) s = .next s)

/-! ### Replays, rounds and tenants -/

/-- R260, R277, R282, R283, R331, R332, R268, R316, R339: KIND 0 of TQREPLAY makes the named accesses again with the repeat count raised for a
queued one, but for a system call, which has completed; KIND 1 answers one in g3, KIND 2 enters the thread's handler with the fault as cause,
KIND 3 ends the thread fatally or the command with an access failure. A tenure request that no claim conflicts with is granted, and completes
the instruction at which its thread waits for it, while a thread in its handler completes it later (R285, R322); one that its
directory does not start, or that waits at a slice for a granted claim or for one that reached the slice earlier, is not. A dispatch round of a
die that is up advances its count, and places the die's one waiting gang when it fits and its tenant has WEIGHT and the deficit for it; the
uncore island of the die, which keeps a count of its own, has run DROUND.LEN × 1,024 cycles by then (logs 7 and 76). A function-level reset
leaves the tenant no enabled queue, no thread and no waiting command, and a removal, which waits while an entry of the tenant's table is held
back (log 52), frees its tiles and clears its experts. -/
def Obligations.ThreadsFromOutside : Prop :=
  (∀ (s : State) (tenant : BitVec 4) (sel : ReplaySel) (u : Thread) (r : Replay), Sole s u → u.replay = some r → s.firmwareOk = true →
    (∀ v ∈ s.threads, v.parked = false) →
    let named : Prop := u.tenant = tenant ∧ (sel = .all ∨ sel = .thread u.tid)
    let others := u.otherRepeats u.trap.pc r.flt.va u.trap.elem
    let again : Thread := { u with replay := none, trap := r.saved, repeats :=
      if r.flt.cause = 0x17 then others else (u.trap.pc, r.flt.va, u.trap.elem, r.count + if r.queued then 1 else 0) :: others }
    (∃ s', exec (.tqreplayReplay tenant sel) s = .next s' ∧ s' = { s with threads := s'.threads, commands := s'.commands } ∧
      s'.thread? u.tid = some (if u.tenant = tenant ∧ (sel = .all ∨ sel = .thread u.tid ∧ r.queued = true) then again else u)) ∧
    (∃ s' v, exec (.tqreplayAnswer tenant sel) s = .next s' ∧ s' = { s with threads := s'.threads } ∧ s'.thread? u.tid = some v ∧
      (named ∧ r.flt.cause = 0x17 → WroteG u v 3 (s.mreg 0 (0x4618 + 64 * tenant.toNat)) ∧
        v = { u with replay := none, trap := r.saved, repeats := others, scal := v.scal, badScal := v.badScal }) ∧
      (¬ (named ∧ r.flt.cause = 0x17) → v = u)) ∧
    ((∀ v ∈ s.threads, v.replay ≠ none → Handles v) →
      ∃ s', exec (.tqreplayDeliver tenant sel) s = .next s' ∧ s' = { s with threads := s'.threads } ∧
        (named → ∃ v, s'.thread? u.tid = some v ∧ v.trap.cause = BitVec.ofNat 64 (r.count % 65536 * 65536 + r.flt.sub.toNat * 256 + r.flt.cause.toNat) ∧
          v.trap.addr = r.flt.addr ∧ v.trap.pc = u.trap.pc ∧ v.trap.save = u.trap.save ∧ v.trap.elem = u.trap.elem ∧
          v.snapshot = some { vl := u.vl, vtype := u.vtype, vstart := u.vstart, vwb := u.vwb, swb := u.swb, vq := u.vq, epoch := u.epoch } ∧
          v = { u with trap := v.trap, snapshot := v.snapshot, inHandler := true, vq := [], pc := u.trapVec + 8, wait := .entering,
                       arrived := none, replay := none, repeats := others }) ∧
        (¬ named → s'.thread? u.tid = some u)) ∧
    (u.tenant = tenant → u.sbuf = [] → recordCount s tenant < tqSize s tenant → recordHeld s tenant = false →
      ∃ s' e, exec (.tqreplayEnd tenant (.thread u.tid)) s = .next s' ∧ s'.thread? u.tid = none ∧ e ∈ s'.ended ∧ e.tid = u.tid ∧
        e.trap.cause = BitVec.ofNat 64 (2 ^ 63 + r.count % 65536 * 65536 + r.flt.sub.toNat * 256 + r.flt.cause.toNat) ∧
        tqTail s' tenant = (tqTail s tenant + 1) % 65536)) ∧
  (∀ (s : State) (tenant : BitVec 4) (c : Command) (f : Flt) (n : Nat) (queued : Bool) (x : Option (BitVec 16)), SoleCommand s c →
    c.replay = some (f, n, queued, x) → c.tenant = tenant → s.firmwareOk = true →
    (∀ sel, (sel = .all ∨ sel = .engine c.tid c.slot ∧ queued = true) → ∃ s', exec (.tqreplayReplay tenant sel) s = .next s' ∧
      { c with replay := none, repeats := (c.place, f.va, n + if queued then 1 else 0) :: c.repeats.filter fun y => !(y.1 = c.place && y.2.1 = f.va) } ∈
        s'.commands) ∧
    (c.phase = .accepted → ∃ s' c', exec (.tqreplayEnd tenant (.engine c.tid c.slot)) s = .next s' ∧ s' = { s with commands := s'.commands } ∧
      c' ∈ s'.commands ∧ c' = { c with phase := c'.phase, replay := none, pages := c'.pages } ∧
      let element := if c.op = .vstrm then streamElement s { c with replay := none } f.va else none
      (∀ i, element = some i → c'.phase = .ending i) ∧
      (element = none → ∃ v, c'.phase = .finishing (if c.op = .pgreq then 0x11 else 0x102) v))) ∧
  (∀ (s : State) (earlier later : List Claim) (c : Claim) (t : Thread), s.claims = earlier ++ c :: later → c.granted = false → Sole s t →
    t.tid = c.tid → (∀ x ∈ earlier ++ later, x.tid = c.tid → x.granted = true) →
    (s.stoppedDies.mem (handleDie c.handle).toNat = false → (∀ x ∈ c.slices, s.stoppedDies.mem (x / 64) = false) →
      s.stoppedDies.mem (c.tid.extractLsb' 9 2).toNat = false → (∀ x ∈ earlier ++ later, claimsConflict c x = false) →
      ∃ s' u placed, exec (.tenureGrant c.tid) s = .next s' ∧
        s'.claims = earlier ++ { c with granted := true, started := true, slices := [], placed := placed, done := c.waiter t } :: later ∧
        s'.thread? t.tid = some u ∧ (c.waiter t = true → Stepped t u 1) ∧ (c.waiter t = false → u = t) ∧
        s' = { s with claims := s'.claims, claimSeq := s'.claimSeq, threads := s'.threads,
                      l1 := s'.l1, hostCopies := s'.hostCopies, poison := s'.poison }) ∧
    (c.started = false → (∃ x ∈ earlier, x.granted = false ∧ handleDie x.handle = handleDie c.handle ∧ claimsConflict c x = true) →
      exec (.tenureGrant c.tid) s = .next s) ∧
    (∀ k rest n, c.started = true → c.slices = k :: rest → c.placedAt k = some n →
      (∃ x ∈ earlier ++ later, claimsConflict c x = true ∧ ∃ m, x.placedAt k = some m ∧ (x.granted = true ∨ m < n)) →
      exec (.tenureGrant c.tid) s = .next s)) ∧
  (∀ (s : State) (die : BitVec 2),
    let up : Prop := s.bringUp = 6 ∧ s.failedDies.mem die.toNat = false ∧ s.stoppedDies.mem die.toNat = false
    (¬ up → exec (.dispatchRound die) s = .next s) ∧
    (up → ∃ s', exec (.dispatchRound die) s = .next s') ∧
    (up → (∀ q, queueDie q = die → offers s q = false) →
      ((∀ g ∈ s.gangs, g.die ≠ die) → ∃ s', exec (.dispatchRound die) s = .next s' ∧
        s'.rounds = s.rounds.set die.toNat (s.rounds.getD die.toNat 0 + 1) ∧
        s'.uncore = s.uncore.set die.toNat (s.uncore.getD die.toNat 0 + field (s.mreg die 0x4200) 0 16 * 1024) ∧
        s'.threads = s.threads.map (fun t => if t.die = die then { t with yielded := false } else t) ∧
        (∀ k, Sparse.get 0 s'.deficit k = if k / 16 = die.toNat then 0 else Sparse.get 0 s.deficit k) ∧
        s' = { s with rounds := s'.rounds, uncore := s'.uncore, threads := s'.threads, deficit := s'.deficit }) ∧
      (∀ g, s.gangs.filter (fun x => x.die = die) = [g] → g.state = .waiting → fits s g = true →
        let key := die.toNat * 16 + g.tenant.toNat
        let weight := field (s.mreg die (0x4100 + 8 * g.tenant.toNat)) 0 8
        let d := min (Sparse.get 0 s.deficit key + weight) 1024
        (weight ≠ 0 ∧ gangSize s g ≤ d → ∃ s' g', exec (.dispatchRound die) s = .next s' ∧ g' ∈ s'.gangs ∧ g'.die = die ∧ g'.id = g.id ∧
          g'.state = .running ∧ Sparse.get 0 s'.deficit key = d - gangSize s g) ∧
        (weight = 0 ∨ d < gangSize s g → ∃ s' g', exec (.dispatchRound die) s = .next s' ∧ g' ∈ s'.gangs ∧ g'.die = die ∧ g'.id = g.id ∧
          g'.state = .waiting ∧ Sparse.get 0 s'.deficit key = d)))) ∧
  (∀ (s : State) (tenant : BitVec 4),
    (∀ u ∈ s.threads, u.tenant = tenant → u.sbuf = [] ∧ u.ending = false ∧ (∀ x ∈ s.accords, x.tid ≠ u.tid) ∧
      ∀ w ∈ s.threads, w.tid = u.tid → w.tenant = tenant) →
    let others := fun (s' : State) => (∀ u ∈ s'.threads, u.tenant ≠ tenant) ∧
      ∀ u ∈ s.threads, u.tenant ≠ tenant → ∃ v ∈ s'.threads, v.tid = u.tid ∧ v.pc = u.pc ∧ ∀ k, v.g k = u.g k
    (∃ s', exec (.vfFunctionLevelReset tenant) s = .next s' ∧ others s' ∧ (∀ c ∈ s'.commands, c.tenant = tenant → c.replay = none) ∧
      ∀ q, (qTenant (qcfg s q) = tenant → qEnabled (qcfg s' q) = false) ∧ (qTenant (qcfg s q) ≠ tenant → qcfg s' q = qcfg s q)) ∧
    ((∀ p ∈ ertEntries (killThreads s tenant) tenant, heldBack (killThreads s tenant) deviceTid true p.2 32 = false) →
      ∃ s', exec (.tenantRemoval tenant) s = .next s' ∧ others s' ∧ (∀ k ∈ s'.tiles, k.tenant ≠ tenant) ∧
      (∀ k ∈ s.tiles, k.tenant = tenant → s.tiles.filter (fun x => x.die = k.die && x.index = k.index) = [k] →
        Sparse.get 0 s'.tileGen (k.die.toNat * 16384 + k.index.toNat) = Sparse.get 0 s.tileGen (k.die.toNat * 16384 + k.index.toNat) + 1) ∧
      (∀ k ∈ s'.tokens, k.tenant ≠ tenant) ∧ (∀ f ∈ s'.fetches, f.tenant ≠ tenant) ∧ (∀ v ∈ s'.evicting, v.1 ≠ tenant) ∧
      ∀ p ∈ ertEntries s tenant, ertState s' p.2 = 0 ∧ ertPins s' p.2 = 0))

/-! ### The fabric -/

/-- R229, R233 to R235, R242, R257, R262, R340, R344, R346 to R348: a stack's one packet performs once no claim holds it, and its reply carries
the data read; a stack in self-refresh or of a stopped die (log 90), and one before bring-up, serves none. The reply of an element returns in any
order and frees its tag with the last of them, and a packet of a core or an engine owes one for each of its elements. A packet of the Bruron Link
performs once by its number. A failed path holds new packets, and without a path the peer's unacknowledged ones are dropped (log 58). Outside
accesses to memory that their port reaches (log 87) enter its buffer, sector by sector (log 87). A snoop takes a CXL line that the port homes
from the caches and breaks the links on it, and one by another port does nothing (log 69). The eighth replay of a link retrains it or fails it,
as the device chooses (log 17), and a failed link replays no more (log 61). The port numbers are the model's (log 19). -/
def Obligations.FabricEvents : Prop :=
  (∀ (s : State) (stack : BitVec 4) (after : List Packet) (p : Packet), s.packets = p :: after → p.stack = stack →
    (∀ x ∈ after, x.stack ≠ stack) → p.damaged = false → s.accords = [] →
    let l := p.access.pa.toNat
    let performs := fun (write : Bool) (data : List Byte) (bad : Bool) (stored : List Byte) =>
      claimHolds s deviceTid write l (accessSize p.access) = false →
      ∃ s', exec (.requestPacket stack) s = .next s' ∧ s'.packets = after ∧
        s'.replies = s.replies ++ [{ port := p.port, tag := p.tag, index := p.first.toNat, data := data, poisoned := bad }] ∧
        s'.loadBytes l stored.length = stored ∧ ∀ a, ¬ bytesAt l stored.length a → s'.mem.read a = s.mem.read a
    let serves : Prop := s.bringUp = 6 ∧ s.selfRefresh.mem stack.toNat = false ∧ s.stoppedDies.mem (stack.toNat / 4) = false
    (serves →
      (∀ n, p.access.op = .read n → n ≠ 0 → performs false (s.loadBytes l n.toNat) (poisonSub s l n.toNat).isSome []) ∧
      (∀ d, p.access.op = .write d → performs true [] false d) ∧
      (∀ op y cmp, p.access.op = .amo op y cmp →
        performs true (leBytes 8 (s.mem64 l).toNat) (poisonSub s l 8).isSome (leBytes 8 ((amoValue op y cmp (s.mem64 l)).getD (s.mem64 l)).toNat)) ∧
      (∀ v, p.access.op = .publish v → performs true [] false (leBytes 8 (max (s.mem64 l).toNat v.toNat)))) ∧
    (¬ serves → exec (.requestPacket stack) s = .next s)) ∧
  (∀ (s : State) (port : BitVec 12) (tag : BitVec 8) (index : BitVec 16),
    let mine := fun r : Reply => r.port = port ∧ r.tag = tag ∧ r.index = index.toNat
    let keeps := fun p : Packet => p.port = port ∧ p.tag = tag ∧ index.toNat ∈ p.owing
    (∀ before r after, s.replies = before ++ r :: after → mine r → (∀ x ∈ before, ¬ mine x) →
      exec (.readReply port ⟨tag, index⟩) s = .next { s with replies := before ++ after } ∧
      ((∀ x ∈ before ++ after, ¬ (x.port = port ∧ x.tag = tag)) → (∀ p ∈ s.packets ++ s.inflight, ¬ (p.port = port ∧ p.tag = tag)) →
        (∀ a ∈ s.accords, missPort (a.tid.extractLsb' 3 8).toNat ≠ port) →
        tag ∉ heldTags { s with replies := before ++ after } port)) ∧
    ((∀ x ∈ s.replies, ¬ mine x) →
      (∀ before p after, s.inflight = before ++ p :: after → keeps p → (∀ x ∈ before, ¬ keeps x) →
        exec (.readReply port ⟨tag, index⟩) s = .next { s with inflight :=
          before ++ (if p.owing.length ≤ 1 then after else { p with owing := p.owing.erase index.toNat } :: after) }) ∧
      ((∀ x ∈ s.inflight, ¬ keeps x) → exec (.readReply port ⟨tag, index⟩) s = .next s))) ∧
  (∀ (s : State) (peer : BitVec 12) (seq : BitVec 32) (access : MemAccess),
    ((peer, seq) ∈ s.received → exec (.bruronLinkPacket peer seq access) s = .next s) ∧
    ((peer, seq) ∉ s.received → ∃ s', exec (.bruronLinkPacket peer seq access) s = .next s' ∧
      s'.portBuffer = s.portBuffer ++ (if outsideTarget s 0x804 access then (sectorParts access).map (fun x => (0x804, x)) else []) ∧
      exec (.bruronLinkPacket peer seq access) s' = .next s' ∧
      (∀ x ∈ s.received, x.1 ≠ peer ∨ (s.received.filter fun y => y.1 = peer).length < 65536 → x ∈ s'.received) ∧
      s' = { s with received := s'.received, portBuffer := s'.portBuffer }) ∧
    (∃ s', exec (.packetAcknowledgement peer seq) s = .next s' ∧ s' = { s with unacked := s'.unacked } ∧
      ∀ u, u ∈ s'.unacked ↔ u ∈ s.unacked ∧ ¬ (u.peer = peer ∧ u.seq = seq)) ∧
    (s.deadPaths.mem peer.toNat = true → exec (.pathFailure peer) s = .next s) ∧
    (s.deadPaths.mem peer.toNat = false → ∃ s', exec (.pathFailure peer) s = .next s' ∧
      s' = { s with downPaths := s'.downPaths, hostPaths := s'.hostPaths } ∧
      (s.downPaths.mem peer.toNat = true → s' = s) ∧
      (s.downPaths.mem peer.toNat = false →
        (s'.hostPaths.mem peer.toNat = true ↔ s.hostPaths.mem peer.toNat = true ∨ (s.mreg 0 0x4280).getLsbD 3 = true)) ∧
      (∀ l n w tid, isPeer l = true → peerOf l = peer.toNat → heldBack s' tid w l n = true) ∧
      ∀ k, k ≠ peer.toNat → s'.downPaths.mem k = s.downPaths.mem k) ∧
    (s.downPaths.mem peer.toNat = true → ∃ s', exec (.pathTimeout peer) s = .next s' ∧
      s' = { s with downPaths := s'.downPaths, hostPaths := s'.hostPaths, deadPaths := s'.deadPaths, unacked := s'.unacked } ∧
      (∀ u ∈ s'.unacked, u.peer ≠ peer) ∧
      (∀ l n, isPeer l = true → peerOf l = peer.toNat → poisonSub s' l n = some 0x01 ∧ ∀ w tid, heldBack s' tid w l n = false) ∧
      ∀ k, k ≠ peer.toNat → s'.downPaths.mem k = s.downPaths.mem k ∧ s'.deadPaths.mem k = s.deadPaths.mem k) ∧
    (s.downPaths.mem peer.toNat = false → exec (.pathTimeout peer) s = .next s)) ∧
  (∀ (s : State) (port : BitVec 2) (access : MemAccess) (line : BitVec 45) (link : BitVec 8),
    let reaches := outsideTarget s (BitVec.ofNat 12 (0x800 + port.toNat)) access
    (reaches = true → ∃ s', exec (.hostAccess port access) s = .next s' ∧
      s'.portBuffer = s.portBuffer ++ (sectorParts access).map (fun x => (BitVec.ofNat 12 (0x800 + port.toNat), x)) ∧
      s' = { s with portBuffer := s'.portBuffer }) ∧
    (reaches = false → exec (.hostAccess port access) s = .next s) ∧
    (let l := line.toNat * 128
     (0x10000000000 ≤ l ∧ l < 0x410000000000 ∧ homeDie s l = port → ∃ s', exec (.backInvalidateSnoop port line) s = .next s' ∧
        LinksBroken s' l 128 ∧ s'.threads.map unlinked = s.threads.map unlinked ∧ (∀ c, c ∈ s'.l1 ↔ c ∈ s.l1 ∧ c.line ≠ line.toNat) ∧
        (∀ c, c ∈ s'.l2 ↔ c ∈ s.l2 ∧ c.line ≠ line.toNat) ∧
        s' = { s with threads := s'.threads, l1 := s'.l1, l2 := s'.l2, poison := s'.poison }) ∧
     (¬ (0x10000000000 ≤ l ∧ l < 0x410000000000 ∧ homeDie s l = port) → exec (.backInvalidateSnoop port line) s = .next s)) ∧
    (let n := Sparse.get 0 s.linkCount link.toNat
     (8 ≤ n → exec (.linkLevelReplay link) s = .next s) ∧
     (n < 8 → ∃ s', exec (.linkLevelReplay link) s = .next s' ∧ s' = { s with linkCount := s'.linkCount, reports := s'.reports } ∧
        (∀ k, k ≠ link.toNat → Sparse.get 0 s'.linkCount k = Sparse.get 0 s.linkCount k) ∧
        (n < 7 → Sparse.get 0 s'.linkCount link.toNat = n + 1 ∧ s'.reports = s.reports) ∧
        (n = 7 → (Sparse.get 0 s'.linkCount link.toNat = 0 ∧ s'.reports = s.reports) ∨
          (Sparse.get 0 s'.linkCount link.toNat = 8 ∧ s'.reports = s.reports ++ [.linkFailed link])))))

/-! ### Bring-up, refresh, temperature and failures -/

/-- R28, R238 to R242, R293, R294, R334 to R336, R349 to R352: firmware whose key, signature, version and chain are good is brought up, and, by
the model's choice and no rule of the spec, the device's own firmware where no image is loaded (log 2, DESIGN CHOICE): the tagged rows are zeroed
and untagged, every frame is released, the accumulators are cleared and the functions enabled; any other holds the device. A refresh is paid or
postponed, at most four owed, and the rows owed are refreshed with the next that is paid; a scrubbed row with a correctable error moves to a
faster class or is reported. Heat halves the refresh period; at the critical temperature a stack enters self-refresh, and a die stops. Island
clocks stay within the nominal clock. A stopped die runs none of its threads (log 90). A failed die keeps no tile, claim, gang or command, its
threads end, and its lines read as lost; that QCFG of its lost queues reads with bit 0 clear is the model's reading of R336's 'Lost' (log 91,
DEDUCED). The packets that a stack has kept through self-refresh are served first, in the order of their arrival (R241). An error poisons,
quarantines or is counted at its site; when errors of the other sites are counted is the model's reading (log 59), and a hard error of an L1 word
is that copy's alone, one of the L2 every reader's (log 89). A second bring-up does nothing, and no report is made before one (log 63). A report
is signed over the nonce, the measurements and the settings. Whether a refresh is postponed is the device's choice (log 17); the filters and the
firmware's checks are free values (logs 10, 11 and 88), and bank numbers are the model's (log 20). -/
def Obligations.DeviceEvents : Prop :=
  (∀ s : State,
    let good : Prop := ∀ a rest, s.firmware = a :: rest →
      Config.shake256 a.key = Config.fusedKeyDigest ∧ Config.signatureValid a.key (Config.shake256 a.code) a.signature = true ∧
      Config.fusedRollback ≤ a.version ∧ ∀ k b c, s.firmware[k]? = some b → s.firmware[k + 1]? = some c →
        Config.imageAccepts b.code (Config.shake256 c.code) c.signature c.version = true
    (s.bringUp = 6 ∨ s.firmwareOk = false → exec .bringUp s = .next s) ∧
    (s.bringUp ≠ 6 → s.firmwareOk = true → ¬ good → exec .bringUp s = .next { s with boots := s.boots + 1, firmwareOk := false }) ∧
    (s.bringUp ≠ 6 → s.firmwareOk = true → good → ∃ s', exec .bringUp s = .next s' ∧ s'.bringUp = 6 ∧ s'.boots = s.boots + 1 ∧
      (∀ a, s'.mem.read a = if a < 0x400000000 then 0 else s.mem.read a) ∧ (∀ pa, tagOf s' pa = 0xFF000000) ∧
      (∀ stack f, frameOwner s' stack f = 0) ∧ (∀ z row col, row < 128 → col < 512 → accGet s'.acc z row col = 0) ∧
      (∀ z, Sparse.get 0 s'.accOwner z = 0) ∧ s'.threads.map unlinked = s.threads.map unlinked)) ∧
  (∀ (s : State) (stack : BitVec 4) (bank : BitVec 10) (row : BitVec 16),
    let key := stack.toNat * 1024 + bank.toNat
    let at_ := bankRowPa stack bank row / 1024
    let paid := fun r : BitVec 16 => r = row ∨ (key, r) ∈ s.owed
    let refreshed := fun (s' : State) => s'.owed = s.owed.filter (fun x => x.1 != key) ∧
      (∀ r, paid r → Sparse.get 32 s'.refreshDue (bankRowPa stack bank r / 1024) = refreshClass s stack bank r) ∧
      (∀ k, (∀ r, paid r → k ≠ bankRowPa stack bank r / 1024) → Sparse.get 32 s'.refreshDue k = Sparse.get 32 s.refreshDue k) ∧
      s' = { s with owed := s'.owed, refreshDue := s'.refreshDue }
    let bad := s.softErrors.filter fun k => k / 64 = at_
    (∃ s', exec (.refresh stack bank row) s = .next s' ∧
      (refreshed s' ∨ ((s.owed.filter fun x => x.1 = key).length < 4 ∧ s' = { s with owed := s.owed ++ [(key, row)] }))) ∧
    (∃ s', exec (.activationCountBackOff stack bank row) s = .next s' ∧ refreshed s') ∧
    refreshClass s stack bank row ∈ [32, 64, 128] ∧
    (bad = [] → exec (.patrolScrub stack bank row) s = .next s) ∧
    (bad ≠ [] → ∃ s', exec (.patrolScrub stack bank row) s = .next s' ∧ s'.corrected = s.corrected + bad.length ∧
      (∀ k, k ∈ s'.softErrors ↔ k ∈ s.softErrors ∧ k / 64 ≠ at_) ∧ s'.mem = s.mem ∧
      refreshClass s' stack bank row = max 32 (refreshClass s stack bank row / 2) ∧
      s'.reports = s.reports ++ (if refreshClass s stack bank row = 32 then [.scrubError at_] else [])) ∧
    (∃ s', exec (.stackTemperatureHigh stack) s = .next s' ∧ s' = { s with hot := s'.hot } ∧
      refreshPeriod s' stack bank row = refreshClass s stack bank row / 2 ∧
      ∀ x, x ≠ stack → refreshPeriod s' x bank row = refreshPeriod s x bank row) ∧
    (∃ s', exec (.stackTemperatureNormal stack) s = .next s' ∧ s' = { s with hot := s'.hot } ∧
      refreshPeriod s' stack bank row = refreshClass s stack bank row ∧ ∀ x, x ≠ stack → refreshPeriod s' x bank row = refreshPeriod s x bank row) ∧
    (s.selfRefresh.mem stack.toNat = true →
      exec (.criticalTemperature stack) s = .next s ∧
      ∃ s', exec (.selfRefreshExit stack) s = .next s' ∧ s'.selfRefresh.mem stack.toNat = false ∧
        (∀ k, k ≠ stack.toNat → s'.selfRefresh.mem k = s.selfRefresh.mem k) ∧ s'.reports = s.reports ++ [.selfRefreshEnded stack] ∧
        s' = { s with selfRefresh := s'.selfRefresh, reports := s'.reports,
                       packets := s.packets.map fun p => if p.stack = stack then { p with waited := true } else p }) ∧
    (s.selfRefresh.mem stack.toNat = false →
      exec (.selfRefreshExit stack) s = .next s ∧
      ∃ s', exec (.criticalTemperature stack) s = .next s' ∧ s'.selfRefresh.mem stack.toNat = true ∧
        Report.criticalTemperature stack ∈ s'.reports ∧
        (s.packets = [] → s.accords = [] → (∀ k, k ≠ stack.toNat → s'.selfRefresh.mem k = s.selfRefresh.mem k) ∧
          s'.owed = s.owed.filter (fun x => x.1 / 1024 != stack.toNat) ∧
          s' = { s with owed := s'.owed, refreshDue := s'.refreshDue, selfRefresh := s'.selfRefresh, reports := s'.reports }))) ∧
  (∀ (s : State) (die : BitVec 2) (island : BitVec 4) (mhz : BitVec 10),
    let key := die.toNat * 16 + island.toNat
    let clock := fun (s : State) => Sparse.get 850 s.mhz key
    (∃ s', exec (.islandClockLowering die island mhz) s = .next s' ∧ s' = { s with mhz := s'.mhz } ∧ clock s' = min (clock s) mhz.toNat) ∧
    (∃ s', exec (.islandClockRaise die island mhz) s = .next s' ∧ s' = { s with mhz := s'.mhz } ∧ clock s' ≤ 850 ∧
      (clock s ≤ 850 → clock s ≤ clock s') ∧ (mhz.toNat ≤ 850 → mhz.toNat ≤ clock s')) ∧
    (s.stoppedDies.mem die.toNat = false → ∃ s', exec (.dieTemperatureStop die) s = .next s' ∧ s'.stoppedDies.mem die.toNat = true ∧
      s'.reports = s.reports ++ [.machineError die] ∧ (∀ u, u.die = die → runnable s' u = false) ∧
      s' = { s with stoppedDies := s'.stoppedDies, reports := s'.reports }) ∧
    (s.stoppedDies.mem die.toNat = true → exec (.dieTemperatureStop die) s = .next s) ∧
    (s.failedDies.mem die.toNat = true → exec (.dieFailure die) s = .next s) ∧
    (s.failedDies.mem die.toNat = false → ∃ s', exec (.dieFailure die) s = .next s' ∧ s'.failedDies.mem die.toNat = true ∧
      (∀ k ∈ s'.tiles, k.die ≠ die) ∧ (∀ c ∈ s'.claims, handleDie c.handle ≠ die) ∧
      (∀ q : BitVec 10, q.toNat / 256 = die.toNat → (qcfg s' q).getLsbD 0 = false) ∧ (∀ g ∈ s'.gangs, g.die ≠ die) ∧
      (∀ c ∈ s'.commands, c.die ≠ die) ∧ (∀ t ∈ s'.threads, t.die = die → ∃ f n, t.wait = .dying f n) ∧
      ∀ l, l < 0x10000000000 → stackDie (stackOf l) = die → poisonSub s' l 1 = some 0x05)) ∧
  (∀ s : State,
    (∀ pa : BitVec 56, pa.toNat < 0x10000000000 →
      (∃ s', exec (.softError (.memory pa true)) s = .next s' ∧ poisonSub s' (pa.toNat / 32 * 32) 32 ≠ none ∧ s' = { s with poison := s'.poison }) ∧
      (∃ s', exec (.softError (.memory pa false)) s = .next s' ∧ pa.toNat / 32 * 2 ∈ s'.softErrors ∧ s' = { s with softErrors := s'.softErrors })) ∧
    (∀ stack entry, ∃ s', exec (.softError (.tag stack entry true)) s = .next s' ∧
      tagOf s' (entry.toNat / 64 * 1048576 + stack.toNat * 65536 + entry.toNat % 64 * 1024) = 0xFF000000 ∧
      s'.reports = s.reports ++ [.tagError stack entry.toNat] ∧
      (s'.mreg (stackDie stack) (0xC010 + 64 * (stack.toNat % 4))).getLsbD 0 = true ∧
      s' = { s with quarantine := s'.quarantine, mgmt := s'.mgmt, reports := s'.reports }) ∧
    (∀ t, Sole s t →
      (∀ entry : BitVec 9, ∃ s' u, exec (.softError (.scalarEntry t.tid entry true)) s = .next s' ∧ s'.thread? t.tid = some u ∧
        u.badScal.mem entry.toNat = true ∧ u = { t with badScal := u.badScal } ∧ s' = { s with threads := s'.threads }) ∧
      (∀ reg dword, ∃ s' u, exec (.softError (.vectorRegister t.tid reg dword true)) s = .next s' ∧ s'.thread? t.tid = some u ∧
        u.badVregs.mem (reg.toNat * 1024 + dword.toNat) = true ∧ u = { t with badVregs := u.badVregs } ∧ s' = { s with threads := s'.threads }) ∧
      (∀ reg dword, ∃ s' u, exec (.softError (.maskRegister t.tid reg dword true)) s = .next s' ∧ s'.thread? t.tid = some u ∧
        u.badMasks.mem (reg.toNat * 1024 + dword.toNat) = true ∧ u = { t with badMasks := u.badMasks } ∧ s' = { s with threads := s'.threads })) ∧
    (∀ site, (∃ t e, site = ErrorSite.scalarEntry t e false) ∨ (∃ t r w, site = .vectorRegister t r w false) ∨
        (∃ t r w, site = .maskRegister t r w false) ∨ (∃ d c g, site = .scratchpad d c g false ∧ g.toNat < 98304) →
      exec (.softError site) s = .next { s with corrected := s.corrected + 1 }) ∧
    (∀ (die : BitVec 2) (core : BitVec 6) (g : BitVec 17), g.toNat < 98304 → ∃ s', exec (.softError (.scratchpad die core g true)) s = .next s' ∧
      poisonSub s' (spadLoc (die.toNat * 64 + core.toNat) (g.toNat * 16)) 16 = some 0x03 ∧ s' = { s with poison := s'.poison }) ∧
    (∀ (die : BitVec 2) (core : BitVec 6) (pa : BitVec 56) (hard : Bool),
      let l1Held : Prop := ∃ c ∈ s.l1, c.core = die.toNat * 64 + core.toNat ∧ c.line = pa.toNat / 128
      let l2Held : Prop := ∃ c ∈ s.l2, c.line = pa.toNat / 128
      let copy := fun c : L1Line => c.core = die.toNat * 64 + core.toNat ∧ c.line = pa.toNat / 128
      (l1Held → hard = true → ∃ s', exec (.softError (.l1Data die core pa hard)) s = .next s' ∧ s' = { s with l1 := s'.l1 } ∧
        poisonSub s' (pa.toNat / 8 * 8) 8 (some (die.toNat * 64 + core.toNat)) ≠ none ∧ (∀ c, ¬ copy c → (c ∈ s'.l1 ↔ c ∈ s.l1)) ∧
        ∀ c ∈ s'.l1, copy c → pa.toNat % 128 / 8 ∈ c.bad ∧ ∃ b ∈ s.l1, c = { b with bad := c.bad }) ∧
      (l1Held → hard = false → exec (.softError (.l1Data die core pa hard)) s = .next { s with corrected := s.corrected + 1 }) ∧
      (¬ l1Held → exec (.softError (.l1Data die core pa hard)) s = .next s) ∧
      (l2Held → hard = true →
        ∃ s', exec (.softError (.l2Data pa hard)) s = .next s' ∧ poisonSub s' pa.toNat 1 ≠ none ∧ s' = { s with poison := s'.poison }) ∧
      (l2Held → hard = false → exec (.softError (.l2Data pa hard)) s = .next { s with corrected := s.corrected + 1 }) ∧
      (¬ l2Held → exec (.softError (.l2Data pa hard)) s = .next s)) ∧
    (∀ stack place, exec (.softError (.packetBuffer stack place false)) s = .next s ∧
      (∀ p, s.packets = [p] → p.stack = stack → place = 0 →
        exec (.softError (.packetBuffer stack place true)) s = .next { s with packets := [{ p with damaged := true }] })) ∧
    (∀ c k, SoleCommand s c → c.op = .rcopy → k < 32 * c.pairs.length → c.unitDone k = false → c.rowInside (k / 32) = false →
      (∀ j, j < k → c.unitDone j = true ∨ c.rowInside (j / 32) = true) →
      ∃ s' c', exec (.softError (.rowBuffer c.tid c.slot true)) s = .next s' ∧ c' ∈ s'.commands ∧ s' = { s with commands := s'.commands } ∧
        c' = { c with sectors := c.sectors ++ [{ line := bufferKey k, bytes := [], bad := List.range 32 }] }) ∧
    (∀ c x rest, SoleCommand s c → c.op ≠ .rcopy → c.sectors = x :: rest →
      ∃ s' c', exec (.softError (.rowBuffer c.tid c.slot true)) s = .next s' ∧ c' ∈ s'.commands ∧ s' = { s with commands := s'.commands } ∧
        c' = { c with sectors := { x with bad := List.range x.bytes.length } :: rest }) ∧
    (∀ die core, ∃ s', exec (.softError (.tileFetch die core)) s = .next s' ∧ s'.fetchBad.mem (die.toNat * 64 + core.toNat) = true ∧
      s' = { s with fetchBad := s'.fetchBad }) ∧
    (∀ die core tile row, ∃ s', exec (.softError (.accumulator die core tile row)) s = .next s' ∧
      s'.accPoison.mem (((die.toNat * 64 + core.toNat) * 2 + tile.toNat) * 128 + row.toNat) = true ∧ s' = { s with accPoison := s'.accPoison }) ∧
    (∀ die core group lane, ∃ s', exec (.softError (.lane die core group lane)) s = .next s' ∧
      (s'.mreg die (0x6008 + 16 * core.toNat)).getLsbD 0 = true ∧ field (s'.mreg die (0x6008 + 16 * core.toNat)) 8 6 = group.toNat ∧
      field (s'.mreg die (0x6008 + 16 * core.toNat)) 3 5 = lane.toNat ∧ s' = { s with mgmt := s'.mgmt }) ∧
    (∀ die core g, ∃ s', exec (.softError (.fullEmpty die core g)) s = .next s' ∧
      ∀ t ∈ s'.threads, ownsGranule (die.toNat * 64 + core.toNat) g.toNat t = true → ∃ f n, t.wait = .dying f n) ∧
    (∀ die, exec (.softError (.directory die true)) s = exec (.dieFailure die) s ∧ exec (.softError (.directory die false)) s = .next s) ∧
    (∀ nonce : BitVec 256, (s.bringUp ≠ 6 → exec (.attestationRequest nonce) s = .next s) ∧
      (s.bringUp = 6 → ∃ s' r, exec (.attestationRequest nonce) s = .next s' ∧ s' = { s with attested := s.attested ++ [r] } ∧
        r.nonce = nonce ∧ r.measurements = (if s.firmware = [] then [Config.ownMeasurement] else s.firmware.map fun f => Config.shake256 f.code) ∧
        r.hostSigned = (s.mreg 0 0x4280).getLsbD 5 ∧
        (∀ die : BitVec 2, ∀ k, k < 16 → (die.toNat * 65536 + 0xA000 + 8 * k, s.mreg die (0xA000 + 8 * k)) ∈ r.settings) ∧
        (let digest := Config.shake256 (reportBytes r.nonce r.measurements r.settings r.hostSigned)
         r.signature = if r.hostSigned then Config.hostSignature digest
           else Config.signature (Config.identityKey Config.fusedSecret r.measurements) digest))))

/-! ### The step -/

namespace Sys2Proof.Claims

/-- A word of the three-register format from its fields (R55). -/
def rrr (major : BitVec 4) (b a d func : BitVec 7) : Word := major ++ b ++ a ++ d ++ func

/-- The b operand without a prefix. -/
def reg (b : BitVec 7) : Src := ⟨b, none⟩

/-- Words that the chapters and worked programs of the manual spell out, or that its format tables give field by field, with their
instructions. -/
noncomputable def wordRows : List (List Word × Instr) :=
  [([0x00000000], .nop), ([0x00014002], .trap 5), ([0x00618006], .fence 6 3), ([0x00E1800B], .barw 6 (reg 7)),
   ([0x0001868F], .pubwm 13 6), ([rrr 0 0x12 0x34 0x56 0x75], .hint 5 0x56 0x34 0x12), ([rrr 0 0 0 7 0x15], .tid 7),
   ([rrr 1 7 6 5 0x01], .sub 5 6 (reg 7)), ([rrr 1 0 6 5 0x1C], .popc 5 6), ([0xF0000002, rrr 1 3 6 5 0x1D], .bfx 5 6 ⟨3, some 2⟩),
   ([0x20000610], .addi 12 0 ⟨2, none⟩), ([0xF0123456, 0x378985D6], .lih 11 ⟨BitVec.ofNat 20 0x789AB, some 0x123456⟩),
   ([0x40017FC1], .bne 5 0 ⟨0x7F8, none⟩), ([rrr 4 63 9 0 0x0E], .bbs 9 63 ⟨1, none⟩),
   ([rrr 5 0 0 1 0x04], .jal 1 ⟨2, none⟩), ([rrr 5 1 0 0 0x01], .jalr 0 1),
   ([0x6FE09044], .std 32 2 ⟨0x7F8, none⟩), ([0x6FE09040], .ldd 32 2 ⟨0x7F8, none⟩), ([rrr 6 1 4 3 0x12], .ldh 3 4 ⟨0x12, none⟩),
   ([0x71424400], .vaddVV 8 9 10 false), ([0x700004ED], .vmvVG 9 (reg 0) true), ([0x718004F1], .vmvVGInverted 9 (reg 12)),
   ([rrr 7 3 2 1 0x64], .vsneVV 1 2 3 true),
   ([0x80020492], .vfrsqrte 9 8 false), ([0x8142C608], .vfnmsVV 12 11 10 false), ([0x80C20405], .vfmulVG 8 8 (reg 6) false),
   ([0x91A20003, 0x90000804], .vbflyc 8 (reg 13) (some (16, false))), ([0x93040811], .vcswi 16 16 24 false), ([0x90034619], .mpopc 12 13),
   ([0xA10104CA], .vgl 9 4 8 true), ([rrr 0xA 0 4 0 0x0D], .vpf 4 false), ([rrr 0xA 9 4 8 0x0C], .vldt 8 4 (reg 9) false),
   ([rrr 0xB 9 8 7 0x05], .thsplit 7 8 (reg 9)), ([rrr 0xB 9 8 1 0x0A], .mma 1 8 (reg 9)), ([rrr 0xB 0 8 1 0x10], .msta 1 8),
   ([0xC080C616], .tretag 12 3 (reg 4) .rel), ([rrr 0xC 3 2 1 0x08], .tcnt 1 2 (reg 3) .plain),
   ([rrr 0xD 9 8 7 0x03], .rcopy 7 8 (reg 9) .acqrel), ([rrr 0xD 9 8 7 0x39], .tlaunch 7 8 (reg 9) .acq), ([rrr 0xD 0 8 7 0x3C], .engwait 7 8),
   ([0xE1810582], .amoadd 11 4 (reg 12) .acq false), ([0xE1810597], .amocas 11 4 (reg 12) .acqrel true),
   ([0xF0000000, 0xE24145C0], .setvl 11 5 ⟨0x12, some 0⟩), ([0xF0000000, 0xE0C00343], .csrw 0x006 ⟨6, some 0⟩),
   ([0xF0000000, 0xE8000046], .winsg ⟨64, some 0⟩)]

end Sys2Proof.Claims

/-- The words of the manual's formats and examples decode to the instructions that they stand for (R55 to R78). -/
def Obligations.DecodedWords : Prop := ∀ row ∈ wordRows, decode (slotsOf true row.1) [] = .ok (row.2, row.1.length)

/-- R45, R48, R50: when it is the turn of a thread that may issue and has nothing queued, and the bytes of the line that it fetches, or that its
last transfer of control arrived in, decode to an instruction, the step is that instruction's meaning on the state in which the cycles of the
step have passed (log 7) and the line's leaf is marked. The turn comes by the agenda (log 3) or by the round robin. -/
def Obligations.StepRunsDecoded : Prop :=
  ∀ (s : State) (t : Thread) (line : List Byte) (entry : Option LeafRef) (i : Instr) (n : Nat), Sole s t →
    let s0 : State := { s with agenda := s.agenda.drop 1, steps := s.steps + 1 }
    let s1 := beginTurn s0 t
    (s.agenda.head? = some (.run t.tid) ∨
      (s.agenda = [] ∧ ownWork s0 = none ∧ roundDue s0 = false ∧ nextThread s0 = some t)) →
    runnable s t = true → t.wait = .none → t.vq = [] → matrixOf s t.tid = [] →
    (arrivedLine t = none ∧ arrive s1 t .fall false t.pc = .ok (line, entry)) ∨ (arrivedLine t = some line ∧ entry = none) →
    wantsNext t line (slotOf t.pc) = false →
    decode (lineSlots line (slotOf t.pc)) [] = .ok (i, n) →
    step s = exec i { s1.markLeaf accFetch entry with cur := t.tid }

/-! ### The invariant -/

/-- Every step keeps the invariant: memory, which lists no byte that reads as blank (log 4), stays in canonical form. -/
def Obligations.InvKept : Prop := ∀ s s' : State, Inv s → step s = .next s' → Inv s'

/-- The invariant holds at reset. -/
def Obligations.InvReset : Prop := Inv State.reset
end

