-- ==== Sys2Proof/Laws/Maps.lean ====
section
/-! SUPPORT. Laws of the finite maps and of byte memory: read after write, and the canonical form. -/

namespace Sys2Proof.Machine

/-! ### Finite maps -/

/-- Keys strictly rising from a bound on, and no entry equal to the default. -/
def Sparse.wfFrom {α : Type} (dflt : α) : Nat → Sparse α → Prop
  | _, [] => True
  | lo, (k, v) :: r => lo ≤ k ∧ v ≠ dflt ∧ Sparse.wfFrom dflt (k + 1) r

theorem Sparse.wfFrom_mono {α : Type} (dflt : α) (m : Sparse α) {lo lo' : Nat} (h : lo' ≤ lo) (w : wfFrom dflt lo m) :
    wfFrom dflt lo' m := by
  cases m with
  | nil => trivial
  | cons e r => exact ⟨h.trans w.1, w.2⟩

/-- What filtering by the key leaves of a map, read at a key. -/
theorem Sparse.get_filter {α : Type} (dflt : α) (m : Sparse α) (p : Nat → Bool) (j : Nat) :
    get dflt (m.filter fun e => p e.1) j = if p j then get dflt m j else dflt := by
  induction m with
  | nil => simp [get]
  | cons e r ih =>
    obtain ⟨k, x⟩ := e
    by_cases hk : k = j
    · subst hk
      by_cases hp : p k = true <;> simp [hp, get, ih]
    · by_cases hp : p k = true <;> simp [hp, get, hk, ih]

/-- Reading after an entry has been placed that the map did not have. -/
theorem Sparse.get_place {α : Type} (dflt : α) (m : Sparse α) (k j : Nat) (v : α) (h : ∀ e ∈ m, e.1 ≠ k) :
    get dflt (place k v m) j = if j = k then v else get dflt m j := by
  induction m with
  | nil =>
    by_cases hj : j = k
    · simp [place, get, hj]
    · simp [place, get, hj, Ne.symm hj]
  | cons e r ih =>
    obtain ⟨k', x⟩ := e
    have hk : k' ≠ k := h (k', x) (by simp)
    have ih := ih fun e he => h e (by simp [he])
    by_cases hj : j = k
    · subst hj
      by_cases hl : j < k' <;> simp [place, hl, get, hk, ih]
    · by_cases hl : k < k' <;> simp [place, hl, get, hj, Ne.symm hj, ih]

/-- Reading a key that has just been set. -/
theorem Sparse.get_set_same {α : Type} [DecidableEq α] (dflt : α) (m : Sparse α) (k : Nat) (v : α) :
    get dflt (set dflt m k v) k = v := by
  unfold set
  by_cases h : v = dflt
  · rw [if_pos h, get_filter dflt m (fun i => i != k)]
    simp [h]
  · rw [if_neg h, get_place dflt _ k k v (by simp)]
    simp

/-- Setting a key leaves every other key alone. -/
theorem Sparse.get_set_ne {α : Type} [DecidableEq α] (dflt : α) (m : Sparse α) {k j : Nat} (v : α) (h : j ≠ k) :
    get dflt (set dflt m k v) j = get dflt m j := by
  have hf := get_filter dflt m (fun i => i != k) j
  simp only [bne_iff_ne, ne_eq, h, not_false_eq_true, if_true] at hf
  unfold set
  by_cases hv : v = dflt
  · rw [if_pos hv]
    exact hf
  · rw [if_neg hv, get_place dflt _ k j v (by simp), if_neg h]
    exact hf

/-- Reading after a range has been cleared. -/
theorem Sparse.get_clear {α : Type} (dflt : α) (m : Sparse α) (at_ len k : Nat) :
    get dflt (clear m at_ len) k = if at_ ≤ k ∧ k < at_ + len then dflt else get dflt m k := by
  rw [clear, get_filter dflt m (fun i => decide (i < at_) || decide (at_ + len ≤ i))]
  simp only [Bool.or_eq_true, decide_eq_true_eq]
  split_ifs <;> first | rfl | omega

/-- Dropping entries keeps the form. -/
theorem Sparse.wfFrom_filter {α : Type} (dflt : α) (m : Sparse α) (p : Nat × α → Bool) {lo : Nat} (w : wfFrom dflt lo m) :
    wfFrom dflt lo (m.filter p) := by
  induction m generalizing lo with
  | nil => trivial
  | cons e r ih =>
    obtain ⟨k, x⟩ := e
    by_cases hp : p (k, x) = true
    · rw [List.filter_cons_of_pos hp]
      exact ⟨w.1, w.2.1, ih w.2.2⟩
    · rw [List.filter_cons_of_neg hp]
      exact wfFrom_mono dflt _ (Nat.le_succ_of_le w.1) (ih w.2.2)

/-- Placing an entry keeps the form of a map that does not have its key. -/
theorem Sparse.wfFrom_place {α : Type} (dflt : α) (m : Sparse α) (k : Nat) (v : α) {lo : Nat} (w : wfFrom dflt lo m) (h : lo ≤ k)
    (hv : v ≠ dflt) (hk : ∀ e ∈ m, e.1 ≠ k) : wfFrom dflt lo (place k v m) := by
  induction m generalizing lo with
  | nil => exact ⟨h, hv, trivial⟩
  | cons e r ih =>
    obtain ⟨k', x⟩ := e
    have hne : k' ≠ k := hk (k', x) (by simp)
    simp only [place]
    split
    · rename_i hl
      exact ⟨h, hv, hl, w.2⟩
    · exact ⟨w.1, w.2.1, ih w.2.2 (by omega) fun e he => hk e (by simp [he])⟩

/-- Setting keeps the form. -/
theorem Sparse.wfFrom_set {α : Type} [DecidableEq α] (dflt : α) (m : Sparse α) (k : Nat) (v : α) {lo : Nat}
    (w : wfFrom dflt lo m) (h : lo ≤ k) : wfFrom dflt lo (set dflt m k v) := by
  unfold set
  by_cases hv : v = dflt
  · rw [if_pos hv]
    exact wfFrom_filter dflt m _ w
  · rw [if_neg hv]
    exact wfFrom_place dflt _ k v (wfFrom_filter dflt m _ w) h hv (by simp)

/-! ### Byte memory -/

/-- The canonical form of a memory is the form of its map. -/
theorem Memory.wfFrom_iff (m : Memory) (lo : Nat) : Memory.wfFrom lo m = true ↔ Sparse.wfFrom Memory.blank lo m := by
  induction m generalizing lo with
  | nil => simp [Memory.wfFrom, Sparse.wfFrom]
  | cons e r ih => simp [Memory.wfFrom, Sparse.wfFrom, ih, and_assoc]

theorem Memory.wf_iff (m : Memory) : m.wf = true ↔ Sparse.wfFrom Memory.blank 0 m := Memory.wfFrom_iff m 0

theorem Memory.wf_nil : Memory.wf [] = true := rfl

/-- Writing a byte keeps the canonical form. -/
theorem Memory.wf_write {m : Memory} (k : Nat) (v : Byte) (h : m.wf = true) : (m.write k v).wf = true :=
  (wf_iff _).2 (Sparse.wfFrom_set _ m k v ((wf_iff m).1 h) (Nat.zero_le k))

/-- Clearing a range keeps the canonical form. -/
theorem Memory.wf_clear {m : Memory} (at_ len : Nat) (h : m.wf = true) : Memory.wf (Sparse.clear m at_ len) = true :=
  (wf_iff _).2 (Sparse.wfFrom_filter _ m _ ((wf_iff m).1 h))

/-- Writing bytes keeps the canonical form. -/
theorem Memory.wf_writeBytes {m : Memory} (k : Nat) (bs : List Byte) (h : m.wf = true) : (m.writeBytes k bs).wf = true := by
  induction bs generalizing m k with
  | nil => exact h
  | cons b r ih => exact ih (k + 1) (wf_write k b h)

/-- Writing a list of cells keeps the canonical form. -/
theorem Memory.wf_foldl_write {α : Type} (f : α → Nat) (g : α → Byte) (l : List α) {m : Memory} (h : m.wf = true) :
    Memory.wf (l.foldl (fun m c => Memory.write m (f c) (g c)) m) = true := by
  induction l generalizing m with
  | nil => exact h
  | cons c r ih => exact ih (wf_write (f c) (g c) h)

/-- A byte that has just been written. -/
theorem Memory.read_write_same (m : Memory) (k : Nat) (v : Byte) : (m.write k v).read k = v := Sparse.get_set_same _ m k v

/-- A byte write leaves every other byte alone. -/
theorem Memory.read_write_ne (m : Memory) {k j : Nat} (v : Byte) (hj : j ≠ k) : (m.write k v).read j = m.read j :=
  Sparse.get_set_ne _ m v hj

/-- A byte after a range has been cleared. -/
theorem Memory.read_clear (m : Memory) (at_ len k : Nat) :
    Memory.read (Sparse.clear m at_ len) k = if at_ ≤ k ∧ k < at_ + len then Memory.blank else m.read k :=
  Sparse.get_clear _ m at_ len k

/-- A write of bytes leaves every byte outside them alone. -/
theorem Memory.read_writeBytes_out (m : Memory) (k : Nat) (bs : List Byte) {j : Nat} (hj : j < k ∨ k + bs.length ≤ j) :
    (m.writeBytes k bs).read j = m.read j := by
  induction bs generalizing m k with
  | nil => rfl
  | cons b r ih =>
    simp only [List.length_cons] at hj
    rw [writeBytes, ih _ (k + 1) (by omega), read_write_ne m b (by omega)]

/-- A byte that a write of bytes covers. -/
theorem Memory.read_writeBytes_in (m : Memory) (k : Nat) (bs : List Byte) {j : Nat} (hj : j < bs.length) :
    (m.writeBytes k bs).read (k + j) = bs[j] := by
  induction bs generalizing m k j with
  | nil => simp at hj
  | cons b r ih =>
    cases j with
    | zero =>
      rw [writeBytes, read_writeBytes_out _ (k + 1) r (by omega)]
      simpa using read_write_same m k b
    | succ j =>
      have := ih (m.write k b) (k + 1) (j := j) (by simpa using hj)
      rw [writeBytes, show k + (j + 1) = k + 1 + j by omega, this]
      rfl

/-- The bytes read where they are of equal value byte by byte. -/
theorem Memory.readBytes_congr {m m' : Memory} (k n : Nat) (h : ∀ j, j < n → m.read (k + j) = m'.read (k + j)) :
    m.readBytes k n = m'.readBytes k n := by
  induction n generalizing k with
  | zero => rfl
  | succ n ih =>
    rw [readBytes, readBytes, ih (k + 1) (fun j hj => by simpa [Nat.add_assoc, Nat.add_comm 1] using h (j + 1) (by omega))]
    have h0 := h 0 (by omega)
    rw [Nat.add_zero] at h0
    rw [h0]

@[simp] theorem Memory.length_readBytes (m : Memory) (k n : Nat) : (m.readBytes k n).length = n := by
  induction n generalizing k with
  | zero => rfl
  | succ n ih => simp [readBytes, ih]

/-- Byte j of the bytes read from a location on. -/
theorem Memory.getElem_readBytes (m : Memory) (k n j : Nat) (hj : j < (m.readBytes k n).length) :
    (m.readBytes k n)[j] = m.read (k + j) := by
  induction n generalizing k j with
  | zero => simp [readBytes] at hj
  | succ n ih =>
    cases j with
    | zero => rfl
    | succ j =>
      have : j < (m.readBytes (k + 1) n).length := by simpa [readBytes] using hj
      simpa [readBytes, Nat.add_assoc, Nat.add_comm 1] using ih (k + 1) j this

/-- Bytes that have just been written. -/
theorem Memory.readBytes_writeBytes_same (m : Memory) (k : Nat) (bs : List Byte) :
    (m.writeBytes k bs).readBytes k bs.length = bs := by
  apply List.ext_getElem (by simp)
  intro j h1 h2
  rw [getElem_readBytes, read_writeBytes_in m k bs h2]

/-- A write of bytes leaves disjoint ranges alone. -/
theorem Memory.readBytes_writeBytes_out (m : Memory) (k : Nat) (bs : List Byte) (at_ n : Nat)
    (hd : at_ + n ≤ k ∨ k + bs.length ≤ at_) : (m.writeBytes k bs).readBytes at_ n = m.readBytes at_ n :=
  readBytes_congr at_ n fun _ _ => read_writeBytes_out m k bs (by omega)

/-! ### Byte order (R4) -/

@[simp] theorem length_leBytes (n v : Nat) : (leBytes n v).length = n := by
  induction n generalizing v with
  | zero => rfl
  | succ n ih => simp [leBytes, ih]

/-- The number behind the bytes of a number. -/
theorem leNat_leBytes (n v : Nat) : leNat (leBytes n v) = v % 256 ^ n := by
  induction n generalizing v with
  | zero => simp [leBytes, leNat, Nat.mod_one]
  | succ n ih =>
    rw [leBytes, leNat, ih, BitVec.toNat_ofNat, Nat.pow_succ' (n := n)]
    exact (Nat.mod_mul (x := v) (a := 256) (b := 256 ^ n)).symm

theorem leNat_lt (bs : List Byte) : leNat bs < 256 ^ bs.length := by
  induction bs with
  | nil => simp [leNat]
  | cons b r ih =>
    simp only [leNat, List.length_cons, Nat.pow_succ']
    have := b.isLt
    omega

end Sys2Proof.Machine
end

