-- ==== Sys2Proof/Laws/State.lean ====
section
/-! SUPPORT. What each update of the state and of a thread leaves in every field: one lemma per field, true by unfolding. -/

namespace Sys2Proof.Machine

/-! ### Replacing a thread -/

@[simp] theorem State.setThread_threads (s : State) (t : Thread) : (s.setThread t).threads = s.threads.map fun x => if x.tid = t.tid then t else x := rfl
@[simp] theorem State.setThread_ended (s : State) (t : Thread) : (s.setThread t).ended = s.ended := rfl
@[simp] theorem State.setThread_cur (s : State) (t : Thread) : (s.setThread t).cur = s.cur := rfl
@[simp] theorem State.setThread_mem (s : State) (t : Thread) : (s.setThread t).mem = s.mem := rfl
@[simp] theorem State.setThread_full (s : State) (t : Thread) : (s.setThread t).full = s.full := rfl
@[simp] theorem State.setThread_poison (s : State) (t : Thread) : (s.setThread t).poison = s.poison := rfl
@[simp] theorem State.setThread_tags (s : State) (t : Thread) : (s.setThread t).tags = s.tags := rfl
@[simp] theorem State.setThread_quarantine (s : State) (t : Thread) : (s.setThread t).quarantine = s.quarantine := rfl
@[simp] theorem State.setThread_frames (s : State) (t : Thread) : (s.setThread t).frames = s.frames := rfl
@[simp] theorem State.setThread_ownership (s : State) (t : Thread) : (s.setThread t).ownership = s.ownership := rfl
@[simp] theorem State.setThread_accords (s : State) (t : Thread) : (s.setThread t).accords = s.accords := rfl
@[simp] theorem State.setThread_tiles (s : State) (t : Thread) : (s.setThread t).tiles = s.tiles := rfl
@[simp] theorem State.setThread_tileGen (s : State) (t : Thread) : (s.setThread t).tileGen = s.tileGen := rfl
@[simp] theorem State.setThread_claims (s : State) (t : Thread) : (s.setThread t).claims = s.claims := rfl
@[simp] theorem State.setThread_claimSeq (s : State) (t : Thread) : (s.setThread t).claimSeq = s.claimSeq := rfl
@[simp] theorem State.setThread_deferClaims (s : State) (t : Thread) : (s.setThread t).deferClaims = s.deferClaims := rfl
@[simp] theorem State.setThread_acc (s : State) (t : Thread) : (s.setThread t).acc = s.acc := rfl
@[simp] theorem State.setThread_accOwner (s : State) (t : Thread) : (s.setThread t).accOwner = s.accOwner := rfl
@[simp] theorem State.setThread_accSaved (s : State) (t : Thread) : (s.setThread t).accSaved = s.accSaved := rfl
@[simp] theorem State.setThread_accPoison (s : State) (t : Thread) : (s.setThread t).accPoison = s.accPoison := rfl
@[simp] theorem State.setThread_macqWait (s : State) (t : Thread) : (s.setThread t).macqWait = s.macqWait := rfl
@[simp] theorem State.setThread_matq (s : State) (t : Thread) : (s.setThread t).matq = s.matq := rfl
@[simp] theorem State.setThread_cyc (s : State) (t : Thread) : (s.setThread t).cyc = s.cyc := rfl
@[simp] theorem State.setThread_uncore (s : State) (t : Thread) : (s.setThread t).uncore = s.uncore := rfl
@[simp] theorem State.setThread_mhz (s : State) (t : Thread) : (s.setThread t).mhz = s.mhz := rfl
@[simp] theorem State.setThread_mgmt (s : State) (t : Thread) : (s.setThread t).mgmt = s.mgmt := rfl
@[simp] theorem State.setThread_commands (s : State) (t : Thread) : (s.setThread t).commands = s.commands := rfl
@[simp] theorem State.setThread_tokens (s : State) (t : Thread) : (s.setThread t).tokens = s.tokens := rfl
@[simp] theorem State.setThread_fetches (s : State) (t : Thread) : (s.setThread t).fetches = s.fetches := rfl
@[simp] theorem State.setThread_requests (s : State) (t : Thread) : (s.setThread t).requests = s.requests := rfl
@[simp] theorem State.setThread_evicting (s : State) (t : Thread) : (s.setThread t).evicting = s.evicting := rfl
@[simp] theorem State.setThread_tasks (s : State) (t : Thread) : (s.setThread t).tasks = s.tasks := rfl
@[simp] theorem State.setThread_gangs (s : State) (t : Thread) : (s.setThread t).gangs = s.gangs := rfl
@[simp] theorem State.setThread_gangCount (s : State) (t : Thread) : (s.setThread t).gangCount = s.gangCount := rfl
@[simp] theorem State.setThread_launched (s : State) (t : Thread) : (s.setThread t).launched = s.launched := rfl
@[simp] theorem State.setThread_slotGen (s : State) (t : Thread) : (s.setThread t).slotGen = s.slotGen := rfl
@[simp] theorem State.setThread_rounds (s : State) (t : Thread) : (s.setThread t).rounds = s.rounds := rfl
@[simp] theorem State.setThread_deficit (s : State) (t : Thread) : (s.setThread t).deficit = s.deficit := rfl
@[simp] theorem State.setThread_lastQueue (s : State) (t : Thread) : (s.setThread t).lastQueue = s.lastQueue := rfl
@[simp] theorem State.setThread_launchAtp (s : State) (t : Thread) : (s.setThread t).launchAtp = s.launchAtp := rfl
@[simp] theorem State.setThread_debuggers (s : State) (t : Thread) : (s.setThread t).debuggers = s.debuggers := rfl
@[simp] theorem State.setThread_removing (s : State) (t : Thread) : (s.setThread t).removing = s.removing := rfl
@[simp] theorem State.setThread_msix (s : State) (t : Thread) : (s.setThread t).msix = s.msix := rfl
@[simp] theorem State.setThread_msixTable (s : State) (t : Thread) : (s.setThread t).msixTable = s.msixTable := rfl
@[simp] theorem State.setThread_l1 (s : State) (t : Thread) : (s.setThread t).l1 = s.l1 := rfl
@[simp] theorem State.setThread_l2 (s : State) (t : Thread) : (s.setThread t).l2 = s.l2 := rfl
@[simp] theorem State.setThread_hostCopies (s : State) (t : Thread) : (s.setThread t).hostCopies = s.hostCopies := rfl
@[simp] theorem State.setThread_packets (s : State) (t : Thread) : (s.setThread t).packets = s.packets := rfl
@[simp] theorem State.setThread_replies (s : State) (t : Thread) : (s.setThread t).replies = s.replies := rfl
@[simp] theorem State.setThread_inflight (s : State) (t : Thread) : (s.setThread t).inflight = s.inflight := rfl
@[simp] theorem State.setThread_portBuffer (s : State) (t : Thread) : (s.setThread t).portBuffer = s.portBuffer := rfl
@[simp] theorem State.setThread_hbmDeficit (s : State) (t : Thread) : (s.setThread t).hbmDeficit = s.hbmDeficit := rfl
@[simp] theorem State.setThread_hbmTurn (s : State) (t : Thread) : (s.setThread t).hbmTurn = s.hbmTurn := rfl
@[simp] theorem State.setThread_fetchCopies (s : State) (t : Thread) : (s.setThread t).fetchCopies = s.fetchCopies := rfl
@[simp] theorem State.setThread_leaves (s : State) (t : Thread) : (s.setThread t).leaves = s.leaves := rfl
@[simp] theorem State.setThread_owed (s : State) (t : Thread) : (s.setThread t).owed = s.owed := rfl
@[simp] theorem State.setThread_refreshDue (s : State) (t : Thread) : (s.setThread t).refreshDue = s.refreshDue := rfl
@[simp] theorem State.setThread_rowLists (s : State) (t : Thread) : (s.setThread t).rowLists = s.rowLists := rfl
@[simp] theorem State.setThread_hostBinned (s : State) (t : Thread) : (s.setThread t).hostBinned = s.hostBinned := rfl
@[simp] theorem State.setThread_f32 (s : State) (t : Thread) : (s.setThread t).f32 = s.f32 := rfl
@[simp] theorem State.setThread_f64 (s : State) (t : Thread) : (s.setThread t).f64 = s.f64 := rfl
@[simp] theorem State.setThread_hot (s : State) (t : Thread) : (s.setThread t).hot = s.hot := rfl
@[simp] theorem State.setThread_selfRefresh (s : State) (t : Thread) : (s.setThread t).selfRefresh = s.selfRefresh := rfl
@[simp] theorem State.setThread_softErrors (s : State) (t : Thread) : (s.setThread t).softErrors = s.softErrors := rfl
@[simp] theorem State.setThread_corrected (s : State) (t : Thread) : (s.setThread t).corrected = s.corrected := rfl
@[simp] theorem State.setThread_boots (s : State) (t : Thread) : (s.setThread t).boots = s.boots := rfl
@[simp] theorem State.setThread_bringUp (s : State) (t : Thread) : (s.setThread t).bringUp = s.bringUp := rfl
@[simp] theorem State.setThread_firmware (s : State) (t : Thread) : (s.setThread t).firmware = s.firmware := rfl
@[simp] theorem State.setThread_firmwareOk (s : State) (t : Thread) : (s.setThread t).firmwareOk = s.firmwareOk := rfl
@[simp] theorem State.setThread_failedDies (s : State) (t : Thread) : (s.setThread t).failedDies = s.failedDies := rfl
@[simp] theorem State.setThread_stoppedDies (s : State) (t : Thread) : (s.setThread t).stoppedDies = s.stoppedDies := rfl
@[simp] theorem State.setThread_lostLines (s : State) (t : Thread) : (s.setThread t).lostLines = s.lostLines := rfl
@[simp] theorem State.setThread_linkCount (s : State) (t : Thread) : (s.setThread t).linkCount = s.linkCount := rfl
@[simp] theorem State.setThread_downPaths (s : State) (t : Thread) : (s.setThread t).downPaths = s.downPaths := rfl
@[simp] theorem State.setThread_hostPaths (s : State) (t : Thread) : (s.setThread t).hostPaths = s.hostPaths := rfl
@[simp] theorem State.setThread_deadPaths (s : State) (t : Thread) : (s.setThread t).deadPaths = s.deadPaths := rfl
@[simp] theorem State.setThread_sendSeq (s : State) (t : Thread) : (s.setThread t).sendSeq = s.sendSeq := rfl
@[simp] theorem State.setThread_unacked (s : State) (t : Thread) : (s.setThread t).unacked = s.unacked := rfl
@[simp] theorem State.setThread_received (s : State) (t : Thread) : (s.setThread t).received = s.received := rfl
@[simp] theorem State.setThread_records (s : State) (t : Thread) : (s.setThread t).records = s.records := rfl
@[simp] theorem State.setThread_reports (s : State) (t : Thread) : (s.setThread t).reports = s.reports := rfl
@[simp] theorem State.setThread_attested (s : State) (t : Thread) : (s.setThread t).attested = s.attested := rfl
@[simp] theorem State.setThread_fetchBad (s : State) (t : Thread) : (s.setThread t).fetchBad = s.fetchBad := rfl
@[simp] theorem State.setThread_deferAccords (s : State) (t : Thread) : (s.setThread t).deferAccords = s.deferAccords := rfl
@[simp] theorem State.setThread_deferReplies (s : State) (t : Thread) : (s.setThread t).deferReplies = s.deferReplies := rfl
@[simp] theorem State.setThread_accordSeq (s : State) (t : Thread) : (s.setThread t).accordSeq = s.accordSeq := rfl
@[simp] theorem State.setThread_agenda (s : State) (t : Thread) : (s.setThread t).agenda = s.agenda := rfl
@[simp] theorem State.setThread_steps (s : State) (t : Thread) : (s.setThread t).steps = s.steps := rfl

/-! ### Writing a management register -/

@[simp] theorem State.setMreg_threads (s : State) (die : BitVec 2) (off : Nat) (v : Dword) : (s.setMreg die off v).threads = s.threads := rfl
@[simp] theorem State.setMreg_ended (s : State) (die : BitVec 2) (off : Nat) (v : Dword) : (s.setMreg die off v).ended = s.ended := rfl
@[simp] theorem State.setMreg_cur (s : State) (die : BitVec 2) (off : Nat) (v : Dword) : (s.setMreg die off v).cur = s.cur := rfl
@[simp] theorem State.setMreg_mem (s : State) (die : BitVec 2) (off : Nat) (v : Dword) : (s.setMreg die off v).mem = s.mem := rfl
@[simp] theorem State.setMreg_full (s : State) (die : BitVec 2) (off : Nat) (v : Dword) : (s.setMreg die off v).full = s.full := rfl
@[simp] theorem State.setMreg_poison (s : State) (die : BitVec 2) (off : Nat) (v : Dword) : (s.setMreg die off v).poison = s.poison := rfl
@[simp] theorem State.setMreg_tags (s : State) (die : BitVec 2) (off : Nat) (v : Dword) : (s.setMreg die off v).tags = s.tags := rfl
@[simp] theorem State.setMreg_quarantine (s : State) (die : BitVec 2) (off : Nat) (v : Dword) : (s.setMreg die off v).quarantine = s.quarantine := rfl
@[simp] theorem State.setMreg_frames (s : State) (die : BitVec 2) (off : Nat) (v : Dword) : (s.setMreg die off v).frames = s.frames := rfl
@[simp] theorem State.setMreg_ownership (s : State) (die : BitVec 2) (off : Nat) (v : Dword) : (s.setMreg die off v).ownership = s.ownership := rfl
@[simp] theorem State.setMreg_accords (s : State) (die : BitVec 2) (off : Nat) (v : Dword) : (s.setMreg die off v).accords = s.accords := rfl
@[simp] theorem State.setMreg_tiles (s : State) (die : BitVec 2) (off : Nat) (v : Dword) : (s.setMreg die off v).tiles = s.tiles := rfl
@[simp] theorem State.setMreg_tileGen (s : State) (die : BitVec 2) (off : Nat) (v : Dword) : (s.setMreg die off v).tileGen = s.tileGen := rfl
@[simp] theorem State.setMreg_claims (s : State) (die : BitVec 2) (off : Nat) (v : Dword) : (s.setMreg die off v).claims = s.claims := rfl
@[simp] theorem State.setMreg_claimSeq (s : State) (die : BitVec 2) (off : Nat) (v : Dword) : (s.setMreg die off v).claimSeq = s.claimSeq := rfl
@[simp] theorem State.setMreg_deferClaims (s : State) (die : BitVec 2) (off : Nat) (v : Dword) : (s.setMreg die off v).deferClaims = s.deferClaims := rfl
@[simp] theorem State.setMreg_acc (s : State) (die : BitVec 2) (off : Nat) (v : Dword) : (s.setMreg die off v).acc = s.acc := rfl
@[simp] theorem State.setMreg_accOwner (s : State) (die : BitVec 2) (off : Nat) (v : Dword) : (s.setMreg die off v).accOwner = s.accOwner := rfl
@[simp] theorem State.setMreg_accSaved (s : State) (die : BitVec 2) (off : Nat) (v : Dword) : (s.setMreg die off v).accSaved = s.accSaved := rfl
@[simp] theorem State.setMreg_accPoison (s : State) (die : BitVec 2) (off : Nat) (v : Dword) : (s.setMreg die off v).accPoison = s.accPoison := rfl
@[simp] theorem State.setMreg_macqWait (s : State) (die : BitVec 2) (off : Nat) (v : Dword) : (s.setMreg die off v).macqWait = s.macqWait := rfl
@[simp] theorem State.setMreg_matq (s : State) (die : BitVec 2) (off : Nat) (v : Dword) : (s.setMreg die off v).matq = s.matq := rfl
@[simp] theorem State.setMreg_cyc (s : State) (die : BitVec 2) (off : Nat) (v : Dword) : (s.setMreg die off v).cyc = s.cyc := rfl
@[simp] theorem State.setMreg_uncore (s : State) (die : BitVec 2) (off : Nat) (v : Dword) : (s.setMreg die off v).uncore = s.uncore := rfl
@[simp] theorem State.setMreg_mhz (s : State) (die : BitVec 2) (off : Nat) (v : Dword) : (s.setMreg die off v).mhz = s.mhz := rfl
@[simp] theorem State.setMreg_mgmt (s : State) (die : BitVec 2) (off : Nat) (v : Dword) : (s.setMreg die off v).mgmt = Sparse.set (mgmtReset off) s.mgmt (die.toNat * 0x10000 + off) v := rfl
@[simp] theorem State.setMreg_commands (s : State) (die : BitVec 2) (off : Nat) (v : Dword) : (s.setMreg die off v).commands = s.commands := rfl
@[simp] theorem State.setMreg_tokens (s : State) (die : BitVec 2) (off : Nat) (v : Dword) : (s.setMreg die off v).tokens = s.tokens := rfl
@[simp] theorem State.setMreg_fetches (s : State) (die : BitVec 2) (off : Nat) (v : Dword) : (s.setMreg die off v).fetches = s.fetches := rfl
@[simp] theorem State.setMreg_requests (s : State) (die : BitVec 2) (off : Nat) (v : Dword) : (s.setMreg die off v).requests = s.requests := rfl
@[simp] theorem State.setMreg_evicting (s : State) (die : BitVec 2) (off : Nat) (v : Dword) : (s.setMreg die off v).evicting = s.evicting := rfl
@[simp] theorem State.setMreg_tasks (s : State) (die : BitVec 2) (off : Nat) (v : Dword) : (s.setMreg die off v).tasks = s.tasks := rfl
@[simp] theorem State.setMreg_gangs (s : State) (die : BitVec 2) (off : Nat) (v : Dword) : (s.setMreg die off v).gangs = s.gangs := rfl
@[simp] theorem State.setMreg_gangCount (s : State) (die : BitVec 2) (off : Nat) (v : Dword) : (s.setMreg die off v).gangCount = s.gangCount := rfl
@[simp] theorem State.setMreg_launched (s : State) (die : BitVec 2) (off : Nat) (v : Dword) : (s.setMreg die off v).launched = s.launched := rfl
@[simp] theorem State.setMreg_slotGen (s : State) (die : BitVec 2) (off : Nat) (v : Dword) : (s.setMreg die off v).slotGen = s.slotGen := rfl
@[simp] theorem State.setMreg_rounds (s : State) (die : BitVec 2) (off : Nat) (v : Dword) : (s.setMreg die off v).rounds = s.rounds := rfl
@[simp] theorem State.setMreg_deficit (s : State) (die : BitVec 2) (off : Nat) (v : Dword) : (s.setMreg die off v).deficit = s.deficit := rfl
@[simp] theorem State.setMreg_lastQueue (s : State) (die : BitVec 2) (off : Nat) (v : Dword) : (s.setMreg die off v).lastQueue = s.lastQueue := rfl
@[simp] theorem State.setMreg_launchAtp (s : State) (die : BitVec 2) (off : Nat) (v : Dword) : (s.setMreg die off v).launchAtp = s.launchAtp := rfl
@[simp] theorem State.setMreg_debuggers (s : State) (die : BitVec 2) (off : Nat) (v : Dword) : (s.setMreg die off v).debuggers = s.debuggers := rfl
@[simp] theorem State.setMreg_removing (s : State) (die : BitVec 2) (off : Nat) (v : Dword) : (s.setMreg die off v).removing = s.removing := rfl
@[simp] theorem State.setMreg_msix (s : State) (die : BitVec 2) (off : Nat) (v : Dword) : (s.setMreg die off v).msix = s.msix := rfl
@[simp] theorem State.setMreg_msixTable (s : State) (die : BitVec 2) (off : Nat) (v : Dword) : (s.setMreg die off v).msixTable = s.msixTable := rfl
@[simp] theorem State.setMreg_l1 (s : State) (die : BitVec 2) (off : Nat) (v : Dword) : (s.setMreg die off v).l1 = s.l1 := rfl
@[simp] theorem State.setMreg_l2 (s : State) (die : BitVec 2) (off : Nat) (v : Dword) : (s.setMreg die off v).l2 = s.l2 := rfl
@[simp] theorem State.setMreg_hostCopies (s : State) (die : BitVec 2) (off : Nat) (v : Dword) : (s.setMreg die off v).hostCopies = s.hostCopies := rfl
@[simp] theorem State.setMreg_packets (s : State) (die : BitVec 2) (off : Nat) (v : Dword) : (s.setMreg die off v).packets = s.packets := rfl
@[simp] theorem State.setMreg_replies (s : State) (die : BitVec 2) (off : Nat) (v : Dword) : (s.setMreg die off v).replies = s.replies := rfl
@[simp] theorem State.setMreg_inflight (s : State) (die : BitVec 2) (off : Nat) (v : Dword) : (s.setMreg die off v).inflight = s.inflight := rfl
@[simp] theorem State.setMreg_portBuffer (s : State) (die : BitVec 2) (off : Nat) (v : Dword) : (s.setMreg die off v).portBuffer = s.portBuffer := rfl
@[simp] theorem State.setMreg_hbmDeficit (s : State) (die : BitVec 2) (off : Nat) (v : Dword) : (s.setMreg die off v).hbmDeficit = s.hbmDeficit := rfl
@[simp] theorem State.setMreg_hbmTurn (s : State) (die : BitVec 2) (off : Nat) (v : Dword) : (s.setMreg die off v).hbmTurn = s.hbmTurn := rfl
@[simp] theorem State.setMreg_fetchCopies (s : State) (die : BitVec 2) (off : Nat) (v : Dword) : (s.setMreg die off v).fetchCopies = s.fetchCopies := rfl
@[simp] theorem State.setMreg_leaves (s : State) (die : BitVec 2) (off : Nat) (v : Dword) : (s.setMreg die off v).leaves = s.leaves := rfl
@[simp] theorem State.setMreg_owed (s : State) (die : BitVec 2) (off : Nat) (v : Dword) : (s.setMreg die off v).owed = s.owed := rfl
@[simp] theorem State.setMreg_refreshDue (s : State) (die : BitVec 2) (off : Nat) (v : Dword) : (s.setMreg die off v).refreshDue = s.refreshDue := rfl
@[simp] theorem State.setMreg_rowLists (s : State) (die : BitVec 2) (off : Nat) (v : Dword) : (s.setMreg die off v).rowLists = s.rowLists := rfl
@[simp] theorem State.setMreg_hostBinned (s : State) (die : BitVec 2) (off : Nat) (v : Dword) : (s.setMreg die off v).hostBinned = s.hostBinned := rfl
@[simp] theorem State.setMreg_f32 (s : State) (die : BitVec 2) (off : Nat) (v : Dword) : (s.setMreg die off v).f32 = s.f32 := rfl
@[simp] theorem State.setMreg_f64 (s : State) (die : BitVec 2) (off : Nat) (v : Dword) : (s.setMreg die off v).f64 = s.f64 := rfl
@[simp] theorem State.setMreg_hot (s : State) (die : BitVec 2) (off : Nat) (v : Dword) : (s.setMreg die off v).hot = s.hot := rfl
@[simp] theorem State.setMreg_selfRefresh (s : State) (die : BitVec 2) (off : Nat) (v : Dword) : (s.setMreg die off v).selfRefresh = s.selfRefresh := rfl
@[simp] theorem State.setMreg_softErrors (s : State) (die : BitVec 2) (off : Nat) (v : Dword) : (s.setMreg die off v).softErrors = s.softErrors := rfl
@[simp] theorem State.setMreg_corrected (s : State) (die : BitVec 2) (off : Nat) (v : Dword) : (s.setMreg die off v).corrected = s.corrected := rfl
@[simp] theorem State.setMreg_boots (s : State) (die : BitVec 2) (off : Nat) (v : Dword) : (s.setMreg die off v).boots = s.boots := rfl
@[simp] theorem State.setMreg_bringUp (s : State) (die : BitVec 2) (off : Nat) (v : Dword) : (s.setMreg die off v).bringUp = s.bringUp := rfl
@[simp] theorem State.setMreg_firmware (s : State) (die : BitVec 2) (off : Nat) (v : Dword) : (s.setMreg die off v).firmware = s.firmware := rfl
@[simp] theorem State.setMreg_firmwareOk (s : State) (die : BitVec 2) (off : Nat) (v : Dword) : (s.setMreg die off v).firmwareOk = s.firmwareOk := rfl
@[simp] theorem State.setMreg_failedDies (s : State) (die : BitVec 2) (off : Nat) (v : Dword) : (s.setMreg die off v).failedDies = s.failedDies := rfl
@[simp] theorem State.setMreg_stoppedDies (s : State) (die : BitVec 2) (off : Nat) (v : Dword) : (s.setMreg die off v).stoppedDies = s.stoppedDies := rfl
@[simp] theorem State.setMreg_lostLines (s : State) (die : BitVec 2) (off : Nat) (v : Dword) : (s.setMreg die off v).lostLines = s.lostLines := rfl
@[simp] theorem State.setMreg_linkCount (s : State) (die : BitVec 2) (off : Nat) (v : Dword) : (s.setMreg die off v).linkCount = s.linkCount := rfl
@[simp] theorem State.setMreg_downPaths (s : State) (die : BitVec 2) (off : Nat) (v : Dword) : (s.setMreg die off v).downPaths = s.downPaths := rfl
@[simp] theorem State.setMreg_hostPaths (s : State) (die : BitVec 2) (off : Nat) (v : Dword) : (s.setMreg die off v).hostPaths = s.hostPaths := rfl
@[simp] theorem State.setMreg_deadPaths (s : State) (die : BitVec 2) (off : Nat) (v : Dword) : (s.setMreg die off v).deadPaths = s.deadPaths := rfl
@[simp] theorem State.setMreg_sendSeq (s : State) (die : BitVec 2) (off : Nat) (v : Dword) : (s.setMreg die off v).sendSeq = s.sendSeq := rfl
@[simp] theorem State.setMreg_unacked (s : State) (die : BitVec 2) (off : Nat) (v : Dword) : (s.setMreg die off v).unacked = s.unacked := rfl
@[simp] theorem State.setMreg_received (s : State) (die : BitVec 2) (off : Nat) (v : Dword) : (s.setMreg die off v).received = s.received := rfl
@[simp] theorem State.setMreg_records (s : State) (die : BitVec 2) (off : Nat) (v : Dword) : (s.setMreg die off v).records = s.records := rfl
@[simp] theorem State.setMreg_reports (s : State) (die : BitVec 2) (off : Nat) (v : Dword) : (s.setMreg die off v).reports = s.reports := rfl
@[simp] theorem State.setMreg_attested (s : State) (die : BitVec 2) (off : Nat) (v : Dword) : (s.setMreg die off v).attested = s.attested := rfl
@[simp] theorem State.setMreg_fetchBad (s : State) (die : BitVec 2) (off : Nat) (v : Dword) : (s.setMreg die off v).fetchBad = s.fetchBad := rfl
@[simp] theorem State.setMreg_deferAccords (s : State) (die : BitVec 2) (off : Nat) (v : Dword) : (s.setMreg die off v).deferAccords = s.deferAccords := rfl
@[simp] theorem State.setMreg_deferReplies (s : State) (die : BitVec 2) (off : Nat) (v : Dword) : (s.setMreg die off v).deferReplies = s.deferReplies := rfl
@[simp] theorem State.setMreg_accordSeq (s : State) (die : BitVec 2) (off : Nat) (v : Dword) : (s.setMreg die off v).accordSeq = s.accordSeq := rfl
@[simp] theorem State.setMreg_agenda (s : State) (die : BitVec 2) (off : Nat) (v : Dword) : (s.setMreg die off v).agenda = s.agenda := rfl
@[simp] theorem State.setMreg_steps (s : State) (die : BitVec 2) (off : Nat) (v : Dword) : (s.setMreg die off v).steps = s.steps := rfl

/-! ### Breaking gather links -/

@[simp] theorem State.breakLinksAt_ended (s : State) (l : Loc) (n : Nat) : (s.breakLinksAt l n).ended = s.ended := rfl
@[simp] theorem State.breakLinksAt_cur (s : State) (l : Loc) (n : Nat) : (s.breakLinksAt l n).cur = s.cur := rfl
@[simp] theorem State.breakLinksAt_mem (s : State) (l : Loc) (n : Nat) : (s.breakLinksAt l n).mem = s.mem := rfl
@[simp] theorem State.breakLinksAt_full (s : State) (l : Loc) (n : Nat) : (s.breakLinksAt l n).full = s.full := rfl
@[simp] theorem State.breakLinksAt_poison (s : State) (l : Loc) (n : Nat) : (s.breakLinksAt l n).poison = s.poison := rfl
@[simp] theorem State.breakLinksAt_tags (s : State) (l : Loc) (n : Nat) : (s.breakLinksAt l n).tags = s.tags := rfl
@[simp] theorem State.breakLinksAt_quarantine (s : State) (l : Loc) (n : Nat) : (s.breakLinksAt l n).quarantine = s.quarantine := rfl
@[simp] theorem State.breakLinksAt_frames (s : State) (l : Loc) (n : Nat) : (s.breakLinksAt l n).frames = s.frames := rfl
@[simp] theorem State.breakLinksAt_ownership (s : State) (l : Loc) (n : Nat) : (s.breakLinksAt l n).ownership = s.ownership := rfl
@[simp] theorem State.breakLinksAt_accords (s : State) (l : Loc) (n : Nat) : (s.breakLinksAt l n).accords = s.accords := rfl
@[simp] theorem State.breakLinksAt_tiles (s : State) (l : Loc) (n : Nat) : (s.breakLinksAt l n).tiles = s.tiles := rfl
@[simp] theorem State.breakLinksAt_tileGen (s : State) (l : Loc) (n : Nat) : (s.breakLinksAt l n).tileGen = s.tileGen := rfl
@[simp] theorem State.breakLinksAt_claims (s : State) (l : Loc) (n : Nat) : (s.breakLinksAt l n).claims = s.claims := rfl
@[simp] theorem State.breakLinksAt_claimSeq (s : State) (l : Loc) (n : Nat) : (s.breakLinksAt l n).claimSeq = s.claimSeq := rfl
@[simp] theorem State.breakLinksAt_deferClaims (s : State) (l : Loc) (n : Nat) : (s.breakLinksAt l n).deferClaims = s.deferClaims := rfl
@[simp] theorem State.breakLinksAt_acc (s : State) (l : Loc) (n : Nat) : (s.breakLinksAt l n).acc = s.acc := rfl
@[simp] theorem State.breakLinksAt_accOwner (s : State) (l : Loc) (n : Nat) : (s.breakLinksAt l n).accOwner = s.accOwner := rfl
@[simp] theorem State.breakLinksAt_accSaved (s : State) (l : Loc) (n : Nat) : (s.breakLinksAt l n).accSaved = s.accSaved := rfl
@[simp] theorem State.breakLinksAt_accPoison (s : State) (l : Loc) (n : Nat) : (s.breakLinksAt l n).accPoison = s.accPoison := rfl
@[simp] theorem State.breakLinksAt_macqWait (s : State) (l : Loc) (n : Nat) : (s.breakLinksAt l n).macqWait = s.macqWait := rfl
@[simp] theorem State.breakLinksAt_matq (s : State) (l : Loc) (n : Nat) : (s.breakLinksAt l n).matq = s.matq := rfl
@[simp] theorem State.breakLinksAt_cyc (s : State) (l : Loc) (n : Nat) : (s.breakLinksAt l n).cyc = s.cyc := rfl
@[simp] theorem State.breakLinksAt_uncore (s : State) (l : Loc) (n : Nat) : (s.breakLinksAt l n).uncore = s.uncore := rfl
@[simp] theorem State.breakLinksAt_mhz (s : State) (l : Loc) (n : Nat) : (s.breakLinksAt l n).mhz = s.mhz := rfl
@[simp] theorem State.breakLinksAt_mgmt (s : State) (l : Loc) (n : Nat) : (s.breakLinksAt l n).mgmt = s.mgmt := rfl
@[simp] theorem State.breakLinksAt_commands (s : State) (l : Loc) (n : Nat) : (s.breakLinksAt l n).commands = s.commands := rfl
@[simp] theorem State.breakLinksAt_tokens (s : State) (l : Loc) (n : Nat) : (s.breakLinksAt l n).tokens = s.tokens := rfl
@[simp] theorem State.breakLinksAt_fetches (s : State) (l : Loc) (n : Nat) : (s.breakLinksAt l n).fetches = s.fetches := rfl
@[simp] theorem State.breakLinksAt_requests (s : State) (l : Loc) (n : Nat) : (s.breakLinksAt l n).requests = s.requests := rfl
@[simp] theorem State.breakLinksAt_evicting (s : State) (l : Loc) (n : Nat) : (s.breakLinksAt l n).evicting = s.evicting := rfl
@[simp] theorem State.breakLinksAt_tasks (s : State) (l : Loc) (n : Nat) : (s.breakLinksAt l n).tasks = s.tasks := rfl
@[simp] theorem State.breakLinksAt_gangs (s : State) (l : Loc) (n : Nat) : (s.breakLinksAt l n).gangs = s.gangs := rfl
@[simp] theorem State.breakLinksAt_gangCount (s : State) (l : Loc) (n : Nat) : (s.breakLinksAt l n).gangCount = s.gangCount := rfl
@[simp] theorem State.breakLinksAt_launched (s : State) (l : Loc) (n : Nat) : (s.breakLinksAt l n).launched = s.launched := rfl
@[simp] theorem State.breakLinksAt_slotGen (s : State) (l : Loc) (n : Nat) : (s.breakLinksAt l n).slotGen = s.slotGen := rfl
@[simp] theorem State.breakLinksAt_rounds (s : State) (l : Loc) (n : Nat) : (s.breakLinksAt l n).rounds = s.rounds := rfl
@[simp] theorem State.breakLinksAt_deficit (s : State) (l : Loc) (n : Nat) : (s.breakLinksAt l n).deficit = s.deficit := rfl
@[simp] theorem State.breakLinksAt_lastQueue (s : State) (l : Loc) (n : Nat) : (s.breakLinksAt l n).lastQueue = s.lastQueue := rfl
@[simp] theorem State.breakLinksAt_launchAtp (s : State) (l : Loc) (n : Nat) : (s.breakLinksAt l n).launchAtp = s.launchAtp := rfl
@[simp] theorem State.breakLinksAt_debuggers (s : State) (l : Loc) (n : Nat) : (s.breakLinksAt l n).debuggers = s.debuggers := rfl
@[simp] theorem State.breakLinksAt_removing (s : State) (l : Loc) (n : Nat) : (s.breakLinksAt l n).removing = s.removing := rfl
@[simp] theorem State.breakLinksAt_msix (s : State) (l : Loc) (n : Nat) : (s.breakLinksAt l n).msix = s.msix := rfl
@[simp] theorem State.breakLinksAt_msixTable (s : State) (l : Loc) (n : Nat) : (s.breakLinksAt l n).msixTable = s.msixTable := rfl
@[simp] theorem State.breakLinksAt_l1 (s : State) (l : Loc) (n : Nat) : (s.breakLinksAt l n).l1 = s.l1 := rfl
@[simp] theorem State.breakLinksAt_l2 (s : State) (l : Loc) (n : Nat) : (s.breakLinksAt l n).l2 = s.l2 := rfl
@[simp] theorem State.breakLinksAt_hostCopies (s : State) (l : Loc) (n : Nat) : (s.breakLinksAt l n).hostCopies = s.hostCopies := rfl
@[simp] theorem State.breakLinksAt_packets (s : State) (l : Loc) (n : Nat) : (s.breakLinksAt l n).packets = s.packets := rfl
@[simp] theorem State.breakLinksAt_replies (s : State) (l : Loc) (n : Nat) : (s.breakLinksAt l n).replies = s.replies := rfl
@[simp] theorem State.breakLinksAt_inflight (s : State) (l : Loc) (n : Nat) : (s.breakLinksAt l n).inflight = s.inflight := rfl
@[simp] theorem State.breakLinksAt_portBuffer (s : State) (l : Loc) (n : Nat) : (s.breakLinksAt l n).portBuffer = s.portBuffer := rfl
@[simp] theorem State.breakLinksAt_hbmDeficit (s : State) (l : Loc) (n : Nat) : (s.breakLinksAt l n).hbmDeficit = s.hbmDeficit := rfl
@[simp] theorem State.breakLinksAt_hbmTurn (s : State) (l : Loc) (n : Nat) : (s.breakLinksAt l n).hbmTurn = s.hbmTurn := rfl
@[simp] theorem State.breakLinksAt_fetchCopies (s : State) (l : Loc) (n : Nat) : (s.breakLinksAt l n).fetchCopies = s.fetchCopies := rfl
@[simp] theorem State.breakLinksAt_leaves (s : State) (l : Loc) (n : Nat) : (s.breakLinksAt l n).leaves = s.leaves := rfl
@[simp] theorem State.breakLinksAt_owed (s : State) (l : Loc) (n : Nat) : (s.breakLinksAt l n).owed = s.owed := rfl
@[simp] theorem State.breakLinksAt_refreshDue (s : State) (l : Loc) (n : Nat) : (s.breakLinksAt l n).refreshDue = s.refreshDue := rfl
@[simp] theorem State.breakLinksAt_rowLists (s : State) (l : Loc) (n : Nat) : (s.breakLinksAt l n).rowLists = s.rowLists := rfl
@[simp] theorem State.breakLinksAt_hostBinned (s : State) (l : Loc) (n : Nat) : (s.breakLinksAt l n).hostBinned = s.hostBinned := rfl
@[simp] theorem State.breakLinksAt_f32 (s : State) (l : Loc) (n : Nat) : (s.breakLinksAt l n).f32 = s.f32 := rfl
@[simp] theorem State.breakLinksAt_f64 (s : State) (l : Loc) (n : Nat) : (s.breakLinksAt l n).f64 = s.f64 := rfl
@[simp] theorem State.breakLinksAt_hot (s : State) (l : Loc) (n : Nat) : (s.breakLinksAt l n).hot = s.hot := rfl
@[simp] theorem State.breakLinksAt_selfRefresh (s : State) (l : Loc) (n : Nat) : (s.breakLinksAt l n).selfRefresh = s.selfRefresh := rfl
@[simp] theorem State.breakLinksAt_softErrors (s : State) (l : Loc) (n : Nat) : (s.breakLinksAt l n).softErrors = s.softErrors := rfl
@[simp] theorem State.breakLinksAt_corrected (s : State) (l : Loc) (n : Nat) : (s.breakLinksAt l n).corrected = s.corrected := rfl
@[simp] theorem State.breakLinksAt_boots (s : State) (l : Loc) (n : Nat) : (s.breakLinksAt l n).boots = s.boots := rfl
@[simp] theorem State.breakLinksAt_bringUp (s : State) (l : Loc) (n : Nat) : (s.breakLinksAt l n).bringUp = s.bringUp := rfl
@[simp] theorem State.breakLinksAt_firmware (s : State) (l : Loc) (n : Nat) : (s.breakLinksAt l n).firmware = s.firmware := rfl
@[simp] theorem State.breakLinksAt_firmwareOk (s : State) (l : Loc) (n : Nat) : (s.breakLinksAt l n).firmwareOk = s.firmwareOk := rfl
@[simp] theorem State.breakLinksAt_failedDies (s : State) (l : Loc) (n : Nat) : (s.breakLinksAt l n).failedDies = s.failedDies := rfl
@[simp] theorem State.breakLinksAt_stoppedDies (s : State) (l : Loc) (n : Nat) : (s.breakLinksAt l n).stoppedDies = s.stoppedDies := rfl
@[simp] theorem State.breakLinksAt_lostLines (s : State) (l : Loc) (n : Nat) : (s.breakLinksAt l n).lostLines = s.lostLines := rfl
@[simp] theorem State.breakLinksAt_linkCount (s : State) (l : Loc) (n : Nat) : (s.breakLinksAt l n).linkCount = s.linkCount := rfl
@[simp] theorem State.breakLinksAt_downPaths (s : State) (l : Loc) (n : Nat) : (s.breakLinksAt l n).downPaths = s.downPaths := rfl
@[simp] theorem State.breakLinksAt_hostPaths (s : State) (l : Loc) (n : Nat) : (s.breakLinksAt l n).hostPaths = s.hostPaths := rfl
@[simp] theorem State.breakLinksAt_deadPaths (s : State) (l : Loc) (n : Nat) : (s.breakLinksAt l n).deadPaths = s.deadPaths := rfl
@[simp] theorem State.breakLinksAt_sendSeq (s : State) (l : Loc) (n : Nat) : (s.breakLinksAt l n).sendSeq = s.sendSeq := rfl
@[simp] theorem State.breakLinksAt_unacked (s : State) (l : Loc) (n : Nat) : (s.breakLinksAt l n).unacked = s.unacked := rfl
@[simp] theorem State.breakLinksAt_received (s : State) (l : Loc) (n : Nat) : (s.breakLinksAt l n).received = s.received := rfl
@[simp] theorem State.breakLinksAt_records (s : State) (l : Loc) (n : Nat) : (s.breakLinksAt l n).records = s.records := rfl
@[simp] theorem State.breakLinksAt_reports (s : State) (l : Loc) (n : Nat) : (s.breakLinksAt l n).reports = s.reports := rfl
@[simp] theorem State.breakLinksAt_attested (s : State) (l : Loc) (n : Nat) : (s.breakLinksAt l n).attested = s.attested := rfl
@[simp] theorem State.breakLinksAt_fetchBad (s : State) (l : Loc) (n : Nat) : (s.breakLinksAt l n).fetchBad = s.fetchBad := rfl
@[simp] theorem State.breakLinksAt_deferAccords (s : State) (l : Loc) (n : Nat) : (s.breakLinksAt l n).deferAccords = s.deferAccords := rfl
@[simp] theorem State.breakLinksAt_deferReplies (s : State) (l : Loc) (n : Nat) : (s.breakLinksAt l n).deferReplies = s.deferReplies := rfl
@[simp] theorem State.breakLinksAt_accordSeq (s : State) (l : Loc) (n : Nat) : (s.breakLinksAt l n).accordSeq = s.accordSeq := rfl
@[simp] theorem State.breakLinksAt_agenda (s : State) (l : Loc) (n : Nat) : (s.breakLinksAt l n).agenda = s.agenda := rfl
@[simp] theorem State.breakLinksAt_steps (s : State) (l : Loc) (n : Nat) : (s.breakLinksAt l n).steps = s.steps := rfl

/-! ### Reporting -/

@[simp] theorem State.report_threads (s : State) (r : Report) : (s.report r).threads = s.threads := rfl
@[simp] theorem State.report_ended (s : State) (r : Report) : (s.report r).ended = s.ended := rfl
@[simp] theorem State.report_cur (s : State) (r : Report) : (s.report r).cur = s.cur := rfl
@[simp] theorem State.report_mem (s : State) (r : Report) : (s.report r).mem = s.mem := rfl
@[simp] theorem State.report_full (s : State) (r : Report) : (s.report r).full = s.full := rfl
@[simp] theorem State.report_poison (s : State) (r : Report) : (s.report r).poison = s.poison := rfl
@[simp] theorem State.report_tags (s : State) (r : Report) : (s.report r).tags = s.tags := rfl
@[simp] theorem State.report_quarantine (s : State) (r : Report) : (s.report r).quarantine = s.quarantine := rfl
@[simp] theorem State.report_frames (s : State) (r : Report) : (s.report r).frames = s.frames := rfl
@[simp] theorem State.report_ownership (s : State) (r : Report) : (s.report r).ownership = s.ownership := rfl
@[simp] theorem State.report_accords (s : State) (r : Report) : (s.report r).accords = s.accords := rfl
@[simp] theorem State.report_tiles (s : State) (r : Report) : (s.report r).tiles = s.tiles := rfl
@[simp] theorem State.report_tileGen (s : State) (r : Report) : (s.report r).tileGen = s.tileGen := rfl
@[simp] theorem State.report_claims (s : State) (r : Report) : (s.report r).claims = s.claims := rfl
@[simp] theorem State.report_claimSeq (s : State) (r : Report) : (s.report r).claimSeq = s.claimSeq := rfl
@[simp] theorem State.report_deferClaims (s : State) (r : Report) : (s.report r).deferClaims = s.deferClaims := rfl
@[simp] theorem State.report_acc (s : State) (r : Report) : (s.report r).acc = s.acc := rfl
@[simp] theorem State.report_accOwner (s : State) (r : Report) : (s.report r).accOwner = s.accOwner := rfl
@[simp] theorem State.report_accSaved (s : State) (r : Report) : (s.report r).accSaved = s.accSaved := rfl
@[simp] theorem State.report_accPoison (s : State) (r : Report) : (s.report r).accPoison = s.accPoison := rfl
@[simp] theorem State.report_macqWait (s : State) (r : Report) : (s.report r).macqWait = s.macqWait := rfl
@[simp] theorem State.report_matq (s : State) (r : Report) : (s.report r).matq = s.matq := rfl
@[simp] theorem State.report_cyc (s : State) (r : Report) : (s.report r).cyc = s.cyc := rfl
@[simp] theorem State.report_uncore (s : State) (r : Report) : (s.report r).uncore = s.uncore := rfl
@[simp] theorem State.report_mhz (s : State) (r : Report) : (s.report r).mhz = s.mhz := rfl
@[simp] theorem State.report_mgmt (s : State) (r : Report) : (s.report r).mgmt = s.mgmt := rfl
@[simp] theorem State.report_commands (s : State) (r : Report) : (s.report r).commands = s.commands := rfl
@[simp] theorem State.report_tokens (s : State) (r : Report) : (s.report r).tokens = s.tokens := rfl
@[simp] theorem State.report_fetches (s : State) (r : Report) : (s.report r).fetches = s.fetches := rfl
@[simp] theorem State.report_requests (s : State) (r : Report) : (s.report r).requests = s.requests := rfl
@[simp] theorem State.report_evicting (s : State) (r : Report) : (s.report r).evicting = s.evicting := rfl
@[simp] theorem State.report_tasks (s : State) (r : Report) : (s.report r).tasks = s.tasks := rfl
@[simp] theorem State.report_gangs (s : State) (r : Report) : (s.report r).gangs = s.gangs := rfl
@[simp] theorem State.report_gangCount (s : State) (r : Report) : (s.report r).gangCount = s.gangCount := rfl
@[simp] theorem State.report_launched (s : State) (r : Report) : (s.report r).launched = s.launched := rfl
@[simp] theorem State.report_slotGen (s : State) (r : Report) : (s.report r).slotGen = s.slotGen := rfl
@[simp] theorem State.report_rounds (s : State) (r : Report) : (s.report r).rounds = s.rounds := rfl
@[simp] theorem State.report_deficit (s : State) (r : Report) : (s.report r).deficit = s.deficit := rfl
@[simp] theorem State.report_lastQueue (s : State) (r : Report) : (s.report r).lastQueue = s.lastQueue := rfl
@[simp] theorem State.report_launchAtp (s : State) (r : Report) : (s.report r).launchAtp = s.launchAtp := rfl
@[simp] theorem State.report_debuggers (s : State) (r : Report) : (s.report r).debuggers = s.debuggers := rfl
@[simp] theorem State.report_removing (s : State) (r : Report) : (s.report r).removing = s.removing := rfl
@[simp] theorem State.report_msix (s : State) (r : Report) : (s.report r).msix = s.msix := rfl
@[simp] theorem State.report_msixTable (s : State) (r : Report) : (s.report r).msixTable = s.msixTable := rfl
@[simp] theorem State.report_l1 (s : State) (r : Report) : (s.report r).l1 = s.l1 := rfl
@[simp] theorem State.report_l2 (s : State) (r : Report) : (s.report r).l2 = s.l2 := rfl
@[simp] theorem State.report_hostCopies (s : State) (r : Report) : (s.report r).hostCopies = s.hostCopies := rfl
@[simp] theorem State.report_packets (s : State) (r : Report) : (s.report r).packets = s.packets := rfl
@[simp] theorem State.report_replies (s : State) (r : Report) : (s.report r).replies = s.replies := rfl
@[simp] theorem State.report_inflight (s : State) (r : Report) : (s.report r).inflight = s.inflight := rfl
@[simp] theorem State.report_portBuffer (s : State) (r : Report) : (s.report r).portBuffer = s.portBuffer := rfl
@[simp] theorem State.report_hbmDeficit (s : State) (r : Report) : (s.report r).hbmDeficit = s.hbmDeficit := rfl
@[simp] theorem State.report_hbmTurn (s : State) (r : Report) : (s.report r).hbmTurn = s.hbmTurn := rfl
@[simp] theorem State.report_fetchCopies (s : State) (r : Report) : (s.report r).fetchCopies = s.fetchCopies := rfl
@[simp] theorem State.report_leaves (s : State) (r : Report) : (s.report r).leaves = s.leaves := rfl
@[simp] theorem State.report_owed (s : State) (r : Report) : (s.report r).owed = s.owed := rfl
@[simp] theorem State.report_refreshDue (s : State) (r : Report) : (s.report r).refreshDue = s.refreshDue := rfl
@[simp] theorem State.report_rowLists (s : State) (r : Report) : (s.report r).rowLists = s.rowLists := rfl
@[simp] theorem State.report_hostBinned (s : State) (r : Report) : (s.report r).hostBinned = s.hostBinned := rfl
@[simp] theorem State.report_f32 (s : State) (r : Report) : (s.report r).f32 = s.f32 := rfl
@[simp] theorem State.report_f64 (s : State) (r : Report) : (s.report r).f64 = s.f64 := rfl
@[simp] theorem State.report_hot (s : State) (r : Report) : (s.report r).hot = s.hot := rfl
@[simp] theorem State.report_selfRefresh (s : State) (r : Report) : (s.report r).selfRefresh = s.selfRefresh := rfl
@[simp] theorem State.report_softErrors (s : State) (r : Report) : (s.report r).softErrors = s.softErrors := rfl
@[simp] theorem State.report_corrected (s : State) (r : Report) : (s.report r).corrected = s.corrected := rfl
@[simp] theorem State.report_boots (s : State) (r : Report) : (s.report r).boots = s.boots := rfl
@[simp] theorem State.report_bringUp (s : State) (r : Report) : (s.report r).bringUp = s.bringUp := rfl
@[simp] theorem State.report_firmware (s : State) (r : Report) : (s.report r).firmware = s.firmware := rfl
@[simp] theorem State.report_firmwareOk (s : State) (r : Report) : (s.report r).firmwareOk = s.firmwareOk := rfl
@[simp] theorem State.report_failedDies (s : State) (r : Report) : (s.report r).failedDies = s.failedDies := rfl
@[simp] theorem State.report_stoppedDies (s : State) (r : Report) : (s.report r).stoppedDies = s.stoppedDies := rfl
@[simp] theorem State.report_lostLines (s : State) (r : Report) : (s.report r).lostLines = s.lostLines := rfl
@[simp] theorem State.report_linkCount (s : State) (r : Report) : (s.report r).linkCount = s.linkCount := rfl
@[simp] theorem State.report_downPaths (s : State) (r : Report) : (s.report r).downPaths = s.downPaths := rfl
@[simp] theorem State.report_hostPaths (s : State) (r : Report) : (s.report r).hostPaths = s.hostPaths := rfl
@[simp] theorem State.report_deadPaths (s : State) (r : Report) : (s.report r).deadPaths = s.deadPaths := rfl
@[simp] theorem State.report_sendSeq (s : State) (r : Report) : (s.report r).sendSeq = s.sendSeq := rfl
@[simp] theorem State.report_unacked (s : State) (r : Report) : (s.report r).unacked = s.unacked := rfl
@[simp] theorem State.report_received (s : State) (r : Report) : (s.report r).received = s.received := rfl
@[simp] theorem State.report_records (s : State) (r : Report) : (s.report r).records = s.records := rfl
@[simp] theorem State.report_reports (s : State) (r : Report) : (s.report r).reports = s.reports ++ [r] := rfl
@[simp] theorem State.report_attested (s : State) (r : Report) : (s.report r).attested = s.attested := rfl
@[simp] theorem State.report_fetchBad (s : State) (r : Report) : (s.report r).fetchBad = s.fetchBad := rfl
@[simp] theorem State.report_deferAccords (s : State) (r : Report) : (s.report r).deferAccords = s.deferAccords := rfl
@[simp] theorem State.report_deferReplies (s : State) (r : Report) : (s.report r).deferReplies = s.deferReplies := rfl
@[simp] theorem State.report_accordSeq (s : State) (r : Report) : (s.report r).accordSeq = s.accordSeq := rfl
@[simp] theorem State.report_agenda (s : State) (r : Report) : (s.report r).agenda = s.agenda := rfl
@[simp] theorem State.report_steps (s : State) (r : Report) : (s.report r).steps = s.steps := rfl

/-! ### What a write does to copies -/

@[simp] theorem State.invalidate_ended (s : State) (l : Loc) (n : Nat) : (s.invalidate l n).ended = s.ended := rfl
@[simp] theorem State.invalidate_cur (s : State) (l : Loc) (n : Nat) : (s.invalidate l n).cur = s.cur := rfl
@[simp] theorem State.invalidate_mem (s : State) (l : Loc) (n : Nat) : (s.invalidate l n).mem = s.mem := rfl
@[simp] theorem State.invalidate_full (s : State) (l : Loc) (n : Nat) : (s.invalidate l n).full = s.full := rfl
@[simp] theorem State.invalidate_tags (s : State) (l : Loc) (n : Nat) : (s.invalidate l n).tags = s.tags := rfl
@[simp] theorem State.invalidate_quarantine (s : State) (l : Loc) (n : Nat) : (s.invalidate l n).quarantine = s.quarantine := rfl
@[simp] theorem State.invalidate_frames (s : State) (l : Loc) (n : Nat) : (s.invalidate l n).frames = s.frames := rfl
@[simp] theorem State.invalidate_ownership (s : State) (l : Loc) (n : Nat) : (s.invalidate l n).ownership = s.ownership := rfl
@[simp] theorem State.invalidate_accords (s : State) (l : Loc) (n : Nat) : (s.invalidate l n).accords = s.accords := rfl
@[simp] theorem State.invalidate_tiles (s : State) (l : Loc) (n : Nat) : (s.invalidate l n).tiles = s.tiles := rfl
@[simp] theorem State.invalidate_tileGen (s : State) (l : Loc) (n : Nat) : (s.invalidate l n).tileGen = s.tileGen := rfl
@[simp] theorem State.invalidate_claims (s : State) (l : Loc) (n : Nat) : (s.invalidate l n).claims = s.claims := rfl
@[simp] theorem State.invalidate_claimSeq (s : State) (l : Loc) (n : Nat) : (s.invalidate l n).claimSeq = s.claimSeq := rfl
@[simp] theorem State.invalidate_deferClaims (s : State) (l : Loc) (n : Nat) : (s.invalidate l n).deferClaims = s.deferClaims := rfl
@[simp] theorem State.invalidate_acc (s : State) (l : Loc) (n : Nat) : (s.invalidate l n).acc = s.acc := rfl
@[simp] theorem State.invalidate_accOwner (s : State) (l : Loc) (n : Nat) : (s.invalidate l n).accOwner = s.accOwner := rfl
@[simp] theorem State.invalidate_accSaved (s : State) (l : Loc) (n : Nat) : (s.invalidate l n).accSaved = s.accSaved := rfl
@[simp] theorem State.invalidate_accPoison (s : State) (l : Loc) (n : Nat) : (s.invalidate l n).accPoison = s.accPoison := rfl
@[simp] theorem State.invalidate_macqWait (s : State) (l : Loc) (n : Nat) : (s.invalidate l n).macqWait = s.macqWait := rfl
@[simp] theorem State.invalidate_matq (s : State) (l : Loc) (n : Nat) : (s.invalidate l n).matq = s.matq := rfl
@[simp] theorem State.invalidate_cyc (s : State) (l : Loc) (n : Nat) : (s.invalidate l n).cyc = s.cyc := rfl
@[simp] theorem State.invalidate_uncore (s : State) (l : Loc) (n : Nat) : (s.invalidate l n).uncore = s.uncore := rfl
@[simp] theorem State.invalidate_mhz (s : State) (l : Loc) (n : Nat) : (s.invalidate l n).mhz = s.mhz := rfl
@[simp] theorem State.invalidate_mgmt (s : State) (l : Loc) (n : Nat) : (s.invalidate l n).mgmt = s.mgmt := rfl
@[simp] theorem State.invalidate_commands (s : State) (l : Loc) (n : Nat) : (s.invalidate l n).commands = s.commands := rfl
@[simp] theorem State.invalidate_tokens (s : State) (l : Loc) (n : Nat) : (s.invalidate l n).tokens = s.tokens := rfl
@[simp] theorem State.invalidate_fetches (s : State) (l : Loc) (n : Nat) : (s.invalidate l n).fetches = s.fetches := rfl
@[simp] theorem State.invalidate_requests (s : State) (l : Loc) (n : Nat) : (s.invalidate l n).requests = s.requests := rfl
@[simp] theorem State.invalidate_evicting (s : State) (l : Loc) (n : Nat) : (s.invalidate l n).evicting = s.evicting := rfl
@[simp] theorem State.invalidate_tasks (s : State) (l : Loc) (n : Nat) : (s.invalidate l n).tasks = s.tasks := rfl
@[simp] theorem State.invalidate_gangs (s : State) (l : Loc) (n : Nat) : (s.invalidate l n).gangs = s.gangs := rfl
@[simp] theorem State.invalidate_gangCount (s : State) (l : Loc) (n : Nat) : (s.invalidate l n).gangCount = s.gangCount := rfl
@[simp] theorem State.invalidate_launched (s : State) (l : Loc) (n : Nat) : (s.invalidate l n).launched = s.launched := rfl
@[simp] theorem State.invalidate_slotGen (s : State) (l : Loc) (n : Nat) : (s.invalidate l n).slotGen = s.slotGen := rfl
@[simp] theorem State.invalidate_rounds (s : State) (l : Loc) (n : Nat) : (s.invalidate l n).rounds = s.rounds := rfl
@[simp] theorem State.invalidate_deficit (s : State) (l : Loc) (n : Nat) : (s.invalidate l n).deficit = s.deficit := rfl
@[simp] theorem State.invalidate_lastQueue (s : State) (l : Loc) (n : Nat) : (s.invalidate l n).lastQueue = s.lastQueue := rfl
@[simp] theorem State.invalidate_launchAtp (s : State) (l : Loc) (n : Nat) : (s.invalidate l n).launchAtp = s.launchAtp := rfl
@[simp] theorem State.invalidate_debuggers (s : State) (l : Loc) (n : Nat) : (s.invalidate l n).debuggers = s.debuggers := rfl
@[simp] theorem State.invalidate_removing (s : State) (l : Loc) (n : Nat) : (s.invalidate l n).removing = s.removing := rfl
@[simp] theorem State.invalidate_msix (s : State) (l : Loc) (n : Nat) : (s.invalidate l n).msix = s.msix := rfl
@[simp] theorem State.invalidate_msixTable (s : State) (l : Loc) (n : Nat) : (s.invalidate l n).msixTable = s.msixTable := rfl
@[simp] theorem State.invalidate_l2 (s : State) (l : Loc) (n : Nat) : (s.invalidate l n).l2 = s.l2 := rfl
@[simp] theorem State.invalidate_packets (s : State) (l : Loc) (n : Nat) : (s.invalidate l n).packets = s.packets := rfl
@[simp] theorem State.invalidate_replies (s : State) (l : Loc) (n : Nat) : (s.invalidate l n).replies = s.replies := rfl
@[simp] theorem State.invalidate_inflight (s : State) (l : Loc) (n : Nat) : (s.invalidate l n).inflight = s.inflight := rfl
@[simp] theorem State.invalidate_portBuffer (s : State) (l : Loc) (n : Nat) : (s.invalidate l n).portBuffer = s.portBuffer := rfl
@[simp] theorem State.invalidate_hbmDeficit (s : State) (l : Loc) (n : Nat) : (s.invalidate l n).hbmDeficit = s.hbmDeficit := rfl
@[simp] theorem State.invalidate_hbmTurn (s : State) (l : Loc) (n : Nat) : (s.invalidate l n).hbmTurn = s.hbmTurn := rfl
@[simp] theorem State.invalidate_fetchCopies (s : State) (l : Loc) (n : Nat) : (s.invalidate l n).fetchCopies = s.fetchCopies := rfl
@[simp] theorem State.invalidate_leaves (s : State) (l : Loc) (n : Nat) : (s.invalidate l n).leaves = s.leaves := rfl
@[simp] theorem State.invalidate_owed (s : State) (l : Loc) (n : Nat) : (s.invalidate l n).owed = s.owed := rfl
@[simp] theorem State.invalidate_refreshDue (s : State) (l : Loc) (n : Nat) : (s.invalidate l n).refreshDue = s.refreshDue := rfl
@[simp] theorem State.invalidate_rowLists (s : State) (l : Loc) (n : Nat) : (s.invalidate l n).rowLists = s.rowLists := rfl
@[simp] theorem State.invalidate_hostBinned (s : State) (l : Loc) (n : Nat) : (s.invalidate l n).hostBinned = s.hostBinned := rfl
@[simp] theorem State.invalidate_f32 (s : State) (l : Loc) (n : Nat) : (s.invalidate l n).f32 = s.f32 := rfl
@[simp] theorem State.invalidate_f64 (s : State) (l : Loc) (n : Nat) : (s.invalidate l n).f64 = s.f64 := rfl
@[simp] theorem State.invalidate_hot (s : State) (l : Loc) (n : Nat) : (s.invalidate l n).hot = s.hot := rfl
@[simp] theorem State.invalidate_selfRefresh (s : State) (l : Loc) (n : Nat) : (s.invalidate l n).selfRefresh = s.selfRefresh := rfl
@[simp] theorem State.invalidate_softErrors (s : State) (l : Loc) (n : Nat) : (s.invalidate l n).softErrors = s.softErrors := rfl
@[simp] theorem State.invalidate_corrected (s : State) (l : Loc) (n : Nat) : (s.invalidate l n).corrected = s.corrected := rfl
@[simp] theorem State.invalidate_boots (s : State) (l : Loc) (n : Nat) : (s.invalidate l n).boots = s.boots := rfl
@[simp] theorem State.invalidate_bringUp (s : State) (l : Loc) (n : Nat) : (s.invalidate l n).bringUp = s.bringUp := rfl
@[simp] theorem State.invalidate_firmware (s : State) (l : Loc) (n : Nat) : (s.invalidate l n).firmware = s.firmware := rfl
@[simp] theorem State.invalidate_firmwareOk (s : State) (l : Loc) (n : Nat) : (s.invalidate l n).firmwareOk = s.firmwareOk := rfl
@[simp] theorem State.invalidate_failedDies (s : State) (l : Loc) (n : Nat) : (s.invalidate l n).failedDies = s.failedDies := rfl
@[simp] theorem State.invalidate_stoppedDies (s : State) (l : Loc) (n : Nat) : (s.invalidate l n).stoppedDies = s.stoppedDies := rfl
@[simp] theorem State.invalidate_lostLines (s : State) (l : Loc) (n : Nat) : (s.invalidate l n).lostLines = s.lostLines := rfl
@[simp] theorem State.invalidate_linkCount (s : State) (l : Loc) (n : Nat) : (s.invalidate l n).linkCount = s.linkCount := rfl
@[simp] theorem State.invalidate_downPaths (s : State) (l : Loc) (n : Nat) : (s.invalidate l n).downPaths = s.downPaths := rfl
@[simp] theorem State.invalidate_hostPaths (s : State) (l : Loc) (n : Nat) : (s.invalidate l n).hostPaths = s.hostPaths := rfl
@[simp] theorem State.invalidate_deadPaths (s : State) (l : Loc) (n : Nat) : (s.invalidate l n).deadPaths = s.deadPaths := rfl
@[simp] theorem State.invalidate_sendSeq (s : State) (l : Loc) (n : Nat) : (s.invalidate l n).sendSeq = s.sendSeq := rfl
@[simp] theorem State.invalidate_unacked (s : State) (l : Loc) (n : Nat) : (s.invalidate l n).unacked = s.unacked := rfl
@[simp] theorem State.invalidate_received (s : State) (l : Loc) (n : Nat) : (s.invalidate l n).received = s.received := rfl
@[simp] theorem State.invalidate_records (s : State) (l : Loc) (n : Nat) : (s.invalidate l n).records = s.records := rfl
@[simp] theorem State.invalidate_reports (s : State) (l : Loc) (n : Nat) : (s.invalidate l n).reports = s.reports := rfl
@[simp] theorem State.invalidate_attested (s : State) (l : Loc) (n : Nat) : (s.invalidate l n).attested = s.attested := rfl
@[simp] theorem State.invalidate_fetchBad (s : State) (l : Loc) (n : Nat) : (s.invalidate l n).fetchBad = s.fetchBad := rfl
@[simp] theorem State.invalidate_deferAccords (s : State) (l : Loc) (n : Nat) : (s.invalidate l n).deferAccords = s.deferAccords := rfl
@[simp] theorem State.invalidate_deferReplies (s : State) (l : Loc) (n : Nat) : (s.invalidate l n).deferReplies = s.deferReplies := rfl
@[simp] theorem State.invalidate_accordSeq (s : State) (l : Loc) (n : Nat) : (s.invalidate l n).accordSeq = s.accordSeq := rfl
@[simp] theorem State.invalidate_agenda (s : State) (l : Loc) (n : Nat) : (s.invalidate l n).agenda = s.agenda := rfl
@[simp] theorem State.invalidate_steps (s : State) (l : Loc) (n : Nat) : (s.invalidate l n).steps = s.steps := rfl

/-! ### Sending a message -/

@[simp] theorem State.sendMessage_threads (s : State) (tenant : BitVec 4) (v : Nat) : (s.sendMessage tenant v).threads = s.threads := rfl
@[simp] theorem State.sendMessage_ended (s : State) (tenant : BitVec 4) (v : Nat) : (s.sendMessage tenant v).ended = s.ended := rfl
@[simp] theorem State.sendMessage_cur (s : State) (tenant : BitVec 4) (v : Nat) : (s.sendMessage tenant v).cur = s.cur := rfl
@[simp] theorem State.sendMessage_mem (s : State) (tenant : BitVec 4) (v : Nat) : (s.sendMessage tenant v).mem = s.mem := rfl
@[simp] theorem State.sendMessage_full (s : State) (tenant : BitVec 4) (v : Nat) : (s.sendMessage tenant v).full = s.full := rfl
@[simp] theorem State.sendMessage_poison (s : State) (tenant : BitVec 4) (v : Nat) : (s.sendMessage tenant v).poison = s.poison := rfl
@[simp] theorem State.sendMessage_tags (s : State) (tenant : BitVec 4) (v : Nat) : (s.sendMessage tenant v).tags = s.tags := rfl
@[simp] theorem State.sendMessage_quarantine (s : State) (tenant : BitVec 4) (v : Nat) : (s.sendMessage tenant v).quarantine = s.quarantine := rfl
@[simp] theorem State.sendMessage_frames (s : State) (tenant : BitVec 4) (v : Nat) : (s.sendMessage tenant v).frames = s.frames := rfl
@[simp] theorem State.sendMessage_ownership (s : State) (tenant : BitVec 4) (v : Nat) : (s.sendMessage tenant v).ownership = s.ownership := rfl
@[simp] theorem State.sendMessage_accords (s : State) (tenant : BitVec 4) (v : Nat) : (s.sendMessage tenant v).accords = s.accords := rfl
@[simp] theorem State.sendMessage_tiles (s : State) (tenant : BitVec 4) (v : Nat) : (s.sendMessage tenant v).tiles = s.tiles := rfl
@[simp] theorem State.sendMessage_tileGen (s : State) (tenant : BitVec 4) (v : Nat) : (s.sendMessage tenant v).tileGen = s.tileGen := rfl
@[simp] theorem State.sendMessage_claims (s : State) (tenant : BitVec 4) (v : Nat) : (s.sendMessage tenant v).claims = s.claims := rfl
@[simp] theorem State.sendMessage_claimSeq (s : State) (tenant : BitVec 4) (v : Nat) : (s.sendMessage tenant v).claimSeq = s.claimSeq := rfl
@[simp] theorem State.sendMessage_deferClaims (s : State) (tenant : BitVec 4) (v : Nat) : (s.sendMessage tenant v).deferClaims = s.deferClaims := rfl
@[simp] theorem State.sendMessage_acc (s : State) (tenant : BitVec 4) (v : Nat) : (s.sendMessage tenant v).acc = s.acc := rfl
@[simp] theorem State.sendMessage_accOwner (s : State) (tenant : BitVec 4) (v : Nat) : (s.sendMessage tenant v).accOwner = s.accOwner := rfl
@[simp] theorem State.sendMessage_accSaved (s : State) (tenant : BitVec 4) (v : Nat) : (s.sendMessage tenant v).accSaved = s.accSaved := rfl
@[simp] theorem State.sendMessage_accPoison (s : State) (tenant : BitVec 4) (v : Nat) : (s.sendMessage tenant v).accPoison = s.accPoison := rfl
@[simp] theorem State.sendMessage_macqWait (s : State) (tenant : BitVec 4) (v : Nat) : (s.sendMessage tenant v).macqWait = s.macqWait := rfl
@[simp] theorem State.sendMessage_matq (s : State) (tenant : BitVec 4) (v : Nat) : (s.sendMessage tenant v).matq = s.matq := rfl
@[simp] theorem State.sendMessage_cyc (s : State) (tenant : BitVec 4) (v : Nat) : (s.sendMessage tenant v).cyc = s.cyc := rfl
@[simp] theorem State.sendMessage_uncore (s : State) (tenant : BitVec 4) (v : Nat) : (s.sendMessage tenant v).uncore = s.uncore := rfl
@[simp] theorem State.sendMessage_mhz (s : State) (tenant : BitVec 4) (v : Nat) : (s.sendMessage tenant v).mhz = s.mhz := rfl
@[simp] theorem State.sendMessage_mgmt (s : State) (tenant : BitVec 4) (v : Nat) : (s.sendMessage tenant v).mgmt = s.mgmt := rfl
@[simp] theorem State.sendMessage_commands (s : State) (tenant : BitVec 4) (v : Nat) : (s.sendMessage tenant v).commands = s.commands := rfl
@[simp] theorem State.sendMessage_tokens (s : State) (tenant : BitVec 4) (v : Nat) : (s.sendMessage tenant v).tokens = s.tokens := rfl
@[simp] theorem State.sendMessage_fetches (s : State) (tenant : BitVec 4) (v : Nat) : (s.sendMessage tenant v).fetches = s.fetches := rfl
@[simp] theorem State.sendMessage_requests (s : State) (tenant : BitVec 4) (v : Nat) : (s.sendMessage tenant v).requests = s.requests := rfl
@[simp] theorem State.sendMessage_evicting (s : State) (tenant : BitVec 4) (v : Nat) : (s.sendMessage tenant v).evicting = s.evicting := rfl
@[simp] theorem State.sendMessage_tasks (s : State) (tenant : BitVec 4) (v : Nat) : (s.sendMessage tenant v).tasks = s.tasks := rfl
@[simp] theorem State.sendMessage_gangs (s : State) (tenant : BitVec 4) (v : Nat) : (s.sendMessage tenant v).gangs = s.gangs := rfl
@[simp] theorem State.sendMessage_gangCount (s : State) (tenant : BitVec 4) (v : Nat) : (s.sendMessage tenant v).gangCount = s.gangCount := rfl
@[simp] theorem State.sendMessage_launched (s : State) (tenant : BitVec 4) (v : Nat) : (s.sendMessage tenant v).launched = s.launched := rfl
@[simp] theorem State.sendMessage_slotGen (s : State) (tenant : BitVec 4) (v : Nat) : (s.sendMessage tenant v).slotGen = s.slotGen := rfl
@[simp] theorem State.sendMessage_rounds (s : State) (tenant : BitVec 4) (v : Nat) : (s.sendMessage tenant v).rounds = s.rounds := rfl
@[simp] theorem State.sendMessage_deficit (s : State) (tenant : BitVec 4) (v : Nat) : (s.sendMessage tenant v).deficit = s.deficit := rfl
@[simp] theorem State.sendMessage_lastQueue (s : State) (tenant : BitVec 4) (v : Nat) : (s.sendMessage tenant v).lastQueue = s.lastQueue := rfl
@[simp] theorem State.sendMessage_launchAtp (s : State) (tenant : BitVec 4) (v : Nat) : (s.sendMessage tenant v).launchAtp = s.launchAtp := rfl
@[simp] theorem State.sendMessage_debuggers (s : State) (tenant : BitVec 4) (v : Nat) : (s.sendMessage tenant v).debuggers = s.debuggers := rfl
@[simp] theorem State.sendMessage_removing (s : State) (tenant : BitVec 4) (v : Nat) : (s.sendMessage tenant v).removing = s.removing := rfl
@[simp] theorem State.sendMessage_msix (s : State) (tenant : BitVec 4) (v : Nat) : (s.sendMessage tenant v).msix = s.msix := rfl
@[simp] theorem State.sendMessage_msixTable (s : State) (tenant : BitVec 4) (v : Nat) : (s.sendMessage tenant v).msixTable = s.msixTable := rfl
@[simp] theorem State.sendMessage_l1 (s : State) (tenant : BitVec 4) (v : Nat) : (s.sendMessage tenant v).l1 = s.l1 := rfl
@[simp] theorem State.sendMessage_l2 (s : State) (tenant : BitVec 4) (v : Nat) : (s.sendMessage tenant v).l2 = s.l2 := rfl
@[simp] theorem State.sendMessage_hostCopies (s : State) (tenant : BitVec 4) (v : Nat) : (s.sendMessage tenant v).hostCopies = s.hostCopies := rfl
@[simp] theorem State.sendMessage_packets (s : State) (tenant : BitVec 4) (v : Nat) : (s.sendMessage tenant v).packets = s.packets := rfl
@[simp] theorem State.sendMessage_replies (s : State) (tenant : BitVec 4) (v : Nat) : (s.sendMessage tenant v).replies = s.replies := rfl
@[simp] theorem State.sendMessage_inflight (s : State) (tenant : BitVec 4) (v : Nat) : (s.sendMessage tenant v).inflight = s.inflight := rfl
@[simp] theorem State.sendMessage_portBuffer (s : State) (tenant : BitVec 4) (v : Nat) : (s.sendMessage tenant v).portBuffer = s.portBuffer := rfl
@[simp] theorem State.sendMessage_hbmDeficit (s : State) (tenant : BitVec 4) (v : Nat) : (s.sendMessage tenant v).hbmDeficit = s.hbmDeficit := rfl
@[simp] theorem State.sendMessage_hbmTurn (s : State) (tenant : BitVec 4) (v : Nat) : (s.sendMessage tenant v).hbmTurn = s.hbmTurn := rfl
@[simp] theorem State.sendMessage_fetchCopies (s : State) (tenant : BitVec 4) (v : Nat) : (s.sendMessage tenant v).fetchCopies = s.fetchCopies := rfl
@[simp] theorem State.sendMessage_leaves (s : State) (tenant : BitVec 4) (v : Nat) : (s.sendMessage tenant v).leaves = s.leaves := rfl
@[simp] theorem State.sendMessage_owed (s : State) (tenant : BitVec 4) (v : Nat) : (s.sendMessage tenant v).owed = s.owed := rfl
@[simp] theorem State.sendMessage_refreshDue (s : State) (tenant : BitVec 4) (v : Nat) : (s.sendMessage tenant v).refreshDue = s.refreshDue := rfl
@[simp] theorem State.sendMessage_rowLists (s : State) (tenant : BitVec 4) (v : Nat) : (s.sendMessage tenant v).rowLists = s.rowLists := rfl
@[simp] theorem State.sendMessage_hostBinned (s : State) (tenant : BitVec 4) (v : Nat) : (s.sendMessage tenant v).hostBinned = s.hostBinned := rfl
@[simp] theorem State.sendMessage_f32 (s : State) (tenant : BitVec 4) (v : Nat) : (s.sendMessage tenant v).f32 = s.f32 := rfl
@[simp] theorem State.sendMessage_f64 (s : State) (tenant : BitVec 4) (v : Nat) : (s.sendMessage tenant v).f64 = s.f64 := rfl
@[simp] theorem State.sendMessage_hot (s : State) (tenant : BitVec 4) (v : Nat) : (s.sendMessage tenant v).hot = s.hot := rfl
@[simp] theorem State.sendMessage_selfRefresh (s : State) (tenant : BitVec 4) (v : Nat) : (s.sendMessage tenant v).selfRefresh = s.selfRefresh := rfl
@[simp] theorem State.sendMessage_softErrors (s : State) (tenant : BitVec 4) (v : Nat) : (s.sendMessage tenant v).softErrors = s.softErrors := rfl
@[simp] theorem State.sendMessage_corrected (s : State) (tenant : BitVec 4) (v : Nat) : (s.sendMessage tenant v).corrected = s.corrected := rfl
@[simp] theorem State.sendMessage_boots (s : State) (tenant : BitVec 4) (v : Nat) : (s.sendMessage tenant v).boots = s.boots := rfl
@[simp] theorem State.sendMessage_bringUp (s : State) (tenant : BitVec 4) (v : Nat) : (s.sendMessage tenant v).bringUp = s.bringUp := rfl
@[simp] theorem State.sendMessage_firmware (s : State) (tenant : BitVec 4) (v : Nat) : (s.sendMessage tenant v).firmware = s.firmware := rfl
@[simp] theorem State.sendMessage_firmwareOk (s : State) (tenant : BitVec 4) (v : Nat) : (s.sendMessage tenant v).firmwareOk = s.firmwareOk := rfl
@[simp] theorem State.sendMessage_failedDies (s : State) (tenant : BitVec 4) (v : Nat) : (s.sendMessage tenant v).failedDies = s.failedDies := rfl
@[simp] theorem State.sendMessage_stoppedDies (s : State) (tenant : BitVec 4) (v : Nat) : (s.sendMessage tenant v).stoppedDies = s.stoppedDies := rfl
@[simp] theorem State.sendMessage_lostLines (s : State) (tenant : BitVec 4) (v : Nat) : (s.sendMessage tenant v).lostLines = s.lostLines := rfl
@[simp] theorem State.sendMessage_linkCount (s : State) (tenant : BitVec 4) (v : Nat) : (s.sendMessage tenant v).linkCount = s.linkCount := rfl
@[simp] theorem State.sendMessage_downPaths (s : State) (tenant : BitVec 4) (v : Nat) : (s.sendMessage tenant v).downPaths = s.downPaths := rfl
@[simp] theorem State.sendMessage_hostPaths (s : State) (tenant : BitVec 4) (v : Nat) : (s.sendMessage tenant v).hostPaths = s.hostPaths := rfl
@[simp] theorem State.sendMessage_deadPaths (s : State) (tenant : BitVec 4) (v : Nat) : (s.sendMessage tenant v).deadPaths = s.deadPaths := rfl
@[simp] theorem State.sendMessage_sendSeq (s : State) (tenant : BitVec 4) (v : Nat) : (s.sendMessage tenant v).sendSeq = s.sendSeq := rfl
@[simp] theorem State.sendMessage_unacked (s : State) (tenant : BitVec 4) (v : Nat) : (s.sendMessage tenant v).unacked = s.unacked := rfl
@[simp] theorem State.sendMessage_received (s : State) (tenant : BitVec 4) (v : Nat) : (s.sendMessage tenant v).received = s.received := rfl
@[simp] theorem State.sendMessage_records (s : State) (tenant : BitVec 4) (v : Nat) : (s.sendMessage tenant v).records = s.records := rfl
@[simp] theorem State.sendMessage_attested (s : State) (tenant : BitVec 4) (v : Nat) : (s.sendMessage tenant v).attested = s.attested := rfl
@[simp] theorem State.sendMessage_fetchBad (s : State) (tenant : BitVec 4) (v : Nat) : (s.sendMessage tenant v).fetchBad = s.fetchBad := rfl
@[simp] theorem State.sendMessage_deferAccords (s : State) (tenant : BitVec 4) (v : Nat) : (s.sendMessage tenant v).deferAccords = s.deferAccords := rfl
@[simp] theorem State.sendMessage_deferReplies (s : State) (tenant : BitVec 4) (v : Nat) : (s.sendMessage tenant v).deferReplies = s.deferReplies := rfl
@[simp] theorem State.sendMessage_accordSeq (s : State) (tenant : BitVec 4) (v : Nat) : (s.sendMessage tenant v).accordSeq = s.accordSeq := rfl
@[simp] theorem State.sendMessage_agenda (s : State) (tenant : BitVec 4) (v : Nat) : (s.sendMessage tenant v).agenda = s.agenda := rfl
@[simp] theorem State.sendMessage_steps (s : State) (tenant : BitVec 4) (v : Nat) : (s.sendMessage tenant v).steps = s.steps := rfl

/-! ### Raising a vector -/

@[simp] theorem State.raiseVector_threads (s : State) (tenant : BitVec 4) (v : Nat) : (s.raiseVector tenant v).threads = s.threads := by unfold State.raiseVector; split <;> rfl
@[simp] theorem State.raiseVector_ended (s : State) (tenant : BitVec 4) (v : Nat) : (s.raiseVector tenant v).ended = s.ended := by unfold State.raiseVector; split <;> rfl
@[simp] theorem State.raiseVector_cur (s : State) (tenant : BitVec 4) (v : Nat) : (s.raiseVector tenant v).cur = s.cur := by unfold State.raiseVector; split <;> rfl
@[simp] theorem State.raiseVector_mem (s : State) (tenant : BitVec 4) (v : Nat) : (s.raiseVector tenant v).mem = s.mem := by unfold State.raiseVector; split <;> rfl
@[simp] theorem State.raiseVector_full (s : State) (tenant : BitVec 4) (v : Nat) : (s.raiseVector tenant v).full = s.full := by unfold State.raiseVector; split <;> rfl
@[simp] theorem State.raiseVector_poison (s : State) (tenant : BitVec 4) (v : Nat) : (s.raiseVector tenant v).poison = s.poison := by unfold State.raiseVector; split <;> rfl
@[simp] theorem State.raiseVector_tags (s : State) (tenant : BitVec 4) (v : Nat) : (s.raiseVector tenant v).tags = s.tags := by unfold State.raiseVector; split <;> rfl
@[simp] theorem State.raiseVector_quarantine (s : State) (tenant : BitVec 4) (v : Nat) : (s.raiseVector tenant v).quarantine = s.quarantine := by unfold State.raiseVector; split <;> rfl
@[simp] theorem State.raiseVector_frames (s : State) (tenant : BitVec 4) (v : Nat) : (s.raiseVector tenant v).frames = s.frames := by unfold State.raiseVector; split <;> rfl
@[simp] theorem State.raiseVector_ownership (s : State) (tenant : BitVec 4) (v : Nat) : (s.raiseVector tenant v).ownership = s.ownership := by unfold State.raiseVector; split <;> rfl
@[simp] theorem State.raiseVector_accords (s : State) (tenant : BitVec 4) (v : Nat) : (s.raiseVector tenant v).accords = s.accords := by unfold State.raiseVector; split <;> rfl
@[simp] theorem State.raiseVector_tiles (s : State) (tenant : BitVec 4) (v : Nat) : (s.raiseVector tenant v).tiles = s.tiles := by unfold State.raiseVector; split <;> rfl
@[simp] theorem State.raiseVector_tileGen (s : State) (tenant : BitVec 4) (v : Nat) : (s.raiseVector tenant v).tileGen = s.tileGen := by unfold State.raiseVector; split <;> rfl
@[simp] theorem State.raiseVector_claims (s : State) (tenant : BitVec 4) (v : Nat) : (s.raiseVector tenant v).claims = s.claims := by unfold State.raiseVector; split <;> rfl
@[simp] theorem State.raiseVector_claimSeq (s : State) (tenant : BitVec 4) (v : Nat) : (s.raiseVector tenant v).claimSeq = s.claimSeq := by unfold State.raiseVector; split <;> rfl
@[simp] theorem State.raiseVector_deferClaims (s : State) (tenant : BitVec 4) (v : Nat) : (s.raiseVector tenant v).deferClaims = s.deferClaims := by unfold State.raiseVector; split <;> rfl
@[simp] theorem State.raiseVector_acc (s : State) (tenant : BitVec 4) (v : Nat) : (s.raiseVector tenant v).acc = s.acc := by unfold State.raiseVector; split <;> rfl
@[simp] theorem State.raiseVector_accOwner (s : State) (tenant : BitVec 4) (v : Nat) : (s.raiseVector tenant v).accOwner = s.accOwner := by unfold State.raiseVector; split <;> rfl
@[simp] theorem State.raiseVector_accSaved (s : State) (tenant : BitVec 4) (v : Nat) : (s.raiseVector tenant v).accSaved = s.accSaved := by unfold State.raiseVector; split <;> rfl
@[simp] theorem State.raiseVector_accPoison (s : State) (tenant : BitVec 4) (v : Nat) : (s.raiseVector tenant v).accPoison = s.accPoison := by unfold State.raiseVector; split <;> rfl
@[simp] theorem State.raiseVector_macqWait (s : State) (tenant : BitVec 4) (v : Nat) : (s.raiseVector tenant v).macqWait = s.macqWait := by unfold State.raiseVector; split <;> rfl
@[simp] theorem State.raiseVector_matq (s : State) (tenant : BitVec 4) (v : Nat) : (s.raiseVector tenant v).matq = s.matq := by unfold State.raiseVector; split <;> rfl
@[simp] theorem State.raiseVector_cyc (s : State) (tenant : BitVec 4) (v : Nat) : (s.raiseVector tenant v).cyc = s.cyc := by unfold State.raiseVector; split <;> rfl
@[simp] theorem State.raiseVector_uncore (s : State) (tenant : BitVec 4) (v : Nat) : (s.raiseVector tenant v).uncore = s.uncore := by unfold State.raiseVector; split <;> rfl
@[simp] theorem State.raiseVector_mhz (s : State) (tenant : BitVec 4) (v : Nat) : (s.raiseVector tenant v).mhz = s.mhz := by unfold State.raiseVector; split <;> rfl
@[simp] theorem State.raiseVector_mgmt (s : State) (tenant : BitVec 4) (v : Nat) : (s.raiseVector tenant v).mgmt = s.mgmt := by unfold State.raiseVector; split <;> rfl
@[simp] theorem State.raiseVector_commands (s : State) (tenant : BitVec 4) (v : Nat) : (s.raiseVector tenant v).commands = s.commands := by unfold State.raiseVector; split <;> rfl
@[simp] theorem State.raiseVector_tokens (s : State) (tenant : BitVec 4) (v : Nat) : (s.raiseVector tenant v).tokens = s.tokens := by unfold State.raiseVector; split <;> rfl
@[simp] theorem State.raiseVector_fetches (s : State) (tenant : BitVec 4) (v : Nat) : (s.raiseVector tenant v).fetches = s.fetches := by unfold State.raiseVector; split <;> rfl
@[simp] theorem State.raiseVector_requests (s : State) (tenant : BitVec 4) (v : Nat) : (s.raiseVector tenant v).requests = s.requests := by unfold State.raiseVector; split <;> rfl
@[simp] theorem State.raiseVector_evicting (s : State) (tenant : BitVec 4) (v : Nat) : (s.raiseVector tenant v).evicting = s.evicting := by unfold State.raiseVector; split <;> rfl
@[simp] theorem State.raiseVector_tasks (s : State) (tenant : BitVec 4) (v : Nat) : (s.raiseVector tenant v).tasks = s.tasks := by unfold State.raiseVector; split <;> rfl
@[simp] theorem State.raiseVector_gangs (s : State) (tenant : BitVec 4) (v : Nat) : (s.raiseVector tenant v).gangs = s.gangs := by unfold State.raiseVector; split <;> rfl
@[simp] theorem State.raiseVector_gangCount (s : State) (tenant : BitVec 4) (v : Nat) : (s.raiseVector tenant v).gangCount = s.gangCount := by unfold State.raiseVector; split <;> rfl
@[simp] theorem State.raiseVector_launched (s : State) (tenant : BitVec 4) (v : Nat) : (s.raiseVector tenant v).launched = s.launched := by unfold State.raiseVector; split <;> rfl
@[simp] theorem State.raiseVector_slotGen (s : State) (tenant : BitVec 4) (v : Nat) : (s.raiseVector tenant v).slotGen = s.slotGen := by unfold State.raiseVector; split <;> rfl
@[simp] theorem State.raiseVector_rounds (s : State) (tenant : BitVec 4) (v : Nat) : (s.raiseVector tenant v).rounds = s.rounds := by unfold State.raiseVector; split <;> rfl
@[simp] theorem State.raiseVector_deficit (s : State) (tenant : BitVec 4) (v : Nat) : (s.raiseVector tenant v).deficit = s.deficit := by unfold State.raiseVector; split <;> rfl
@[simp] theorem State.raiseVector_lastQueue (s : State) (tenant : BitVec 4) (v : Nat) : (s.raiseVector tenant v).lastQueue = s.lastQueue := by unfold State.raiseVector; split <;> rfl
@[simp] theorem State.raiseVector_launchAtp (s : State) (tenant : BitVec 4) (v : Nat) : (s.raiseVector tenant v).launchAtp = s.launchAtp := by unfold State.raiseVector; split <;> rfl
@[simp] theorem State.raiseVector_debuggers (s : State) (tenant : BitVec 4) (v : Nat) : (s.raiseVector tenant v).debuggers = s.debuggers := by unfold State.raiseVector; split <;> rfl
@[simp] theorem State.raiseVector_removing (s : State) (tenant : BitVec 4) (v : Nat) : (s.raiseVector tenant v).removing = s.removing := by unfold State.raiseVector; split <;> rfl
@[simp] theorem State.raiseVector_msixTable (s : State) (tenant : BitVec 4) (v : Nat) : (s.raiseVector tenant v).msixTable = s.msixTable := by unfold State.raiseVector; split <;> rfl
@[simp] theorem State.raiseVector_l1 (s : State) (tenant : BitVec 4) (v : Nat) : (s.raiseVector tenant v).l1 = s.l1 := by unfold State.raiseVector; split <;> rfl
@[simp] theorem State.raiseVector_l2 (s : State) (tenant : BitVec 4) (v : Nat) : (s.raiseVector tenant v).l2 = s.l2 := by unfold State.raiseVector; split <;> rfl
@[simp] theorem State.raiseVector_hostCopies (s : State) (tenant : BitVec 4) (v : Nat) : (s.raiseVector tenant v).hostCopies = s.hostCopies := by unfold State.raiseVector; split <;> rfl
@[simp] theorem State.raiseVector_packets (s : State) (tenant : BitVec 4) (v : Nat) : (s.raiseVector tenant v).packets = s.packets := by unfold State.raiseVector; split <;> rfl
@[simp] theorem State.raiseVector_replies (s : State) (tenant : BitVec 4) (v : Nat) : (s.raiseVector tenant v).replies = s.replies := by unfold State.raiseVector; split <;> rfl
@[simp] theorem State.raiseVector_inflight (s : State) (tenant : BitVec 4) (v : Nat) : (s.raiseVector tenant v).inflight = s.inflight := by unfold State.raiseVector; split <;> rfl
@[simp] theorem State.raiseVector_portBuffer (s : State) (tenant : BitVec 4) (v : Nat) : (s.raiseVector tenant v).portBuffer = s.portBuffer := by unfold State.raiseVector; split <;> rfl
@[simp] theorem State.raiseVector_hbmDeficit (s : State) (tenant : BitVec 4) (v : Nat) : (s.raiseVector tenant v).hbmDeficit = s.hbmDeficit := by unfold State.raiseVector; split <;> rfl
@[simp] theorem State.raiseVector_hbmTurn (s : State) (tenant : BitVec 4) (v : Nat) : (s.raiseVector tenant v).hbmTurn = s.hbmTurn := by unfold State.raiseVector; split <;> rfl
@[simp] theorem State.raiseVector_fetchCopies (s : State) (tenant : BitVec 4) (v : Nat) : (s.raiseVector tenant v).fetchCopies = s.fetchCopies := by unfold State.raiseVector; split <;> rfl
@[simp] theorem State.raiseVector_leaves (s : State) (tenant : BitVec 4) (v : Nat) : (s.raiseVector tenant v).leaves = s.leaves := by unfold State.raiseVector; split <;> rfl
@[simp] theorem State.raiseVector_owed (s : State) (tenant : BitVec 4) (v : Nat) : (s.raiseVector tenant v).owed = s.owed := by unfold State.raiseVector; split <;> rfl
@[simp] theorem State.raiseVector_refreshDue (s : State) (tenant : BitVec 4) (v : Nat) : (s.raiseVector tenant v).refreshDue = s.refreshDue := by unfold State.raiseVector; split <;> rfl
@[simp] theorem State.raiseVector_rowLists (s : State) (tenant : BitVec 4) (v : Nat) : (s.raiseVector tenant v).rowLists = s.rowLists := by unfold State.raiseVector; split <;> rfl
@[simp] theorem State.raiseVector_hostBinned (s : State) (tenant : BitVec 4) (v : Nat) : (s.raiseVector tenant v).hostBinned = s.hostBinned := by unfold State.raiseVector; split <;> rfl
@[simp] theorem State.raiseVector_f32 (s : State) (tenant : BitVec 4) (v : Nat) : (s.raiseVector tenant v).f32 = s.f32 := by unfold State.raiseVector; split <;> rfl
@[simp] theorem State.raiseVector_f64 (s : State) (tenant : BitVec 4) (v : Nat) : (s.raiseVector tenant v).f64 = s.f64 := by unfold State.raiseVector; split <;> rfl
@[simp] theorem State.raiseVector_hot (s : State) (tenant : BitVec 4) (v : Nat) : (s.raiseVector tenant v).hot = s.hot := by unfold State.raiseVector; split <;> rfl
@[simp] theorem State.raiseVector_selfRefresh (s : State) (tenant : BitVec 4) (v : Nat) : (s.raiseVector tenant v).selfRefresh = s.selfRefresh := by unfold State.raiseVector; split <;> rfl
@[simp] theorem State.raiseVector_softErrors (s : State) (tenant : BitVec 4) (v : Nat) : (s.raiseVector tenant v).softErrors = s.softErrors := by unfold State.raiseVector; split <;> rfl
@[simp] theorem State.raiseVector_corrected (s : State) (tenant : BitVec 4) (v : Nat) : (s.raiseVector tenant v).corrected = s.corrected := by unfold State.raiseVector; split <;> rfl
@[simp] theorem State.raiseVector_boots (s : State) (tenant : BitVec 4) (v : Nat) : (s.raiseVector tenant v).boots = s.boots := by unfold State.raiseVector; split <;> rfl
@[simp] theorem State.raiseVector_bringUp (s : State) (tenant : BitVec 4) (v : Nat) : (s.raiseVector tenant v).bringUp = s.bringUp := by unfold State.raiseVector; split <;> rfl
@[simp] theorem State.raiseVector_firmware (s : State) (tenant : BitVec 4) (v : Nat) : (s.raiseVector tenant v).firmware = s.firmware := by unfold State.raiseVector; split <;> rfl
@[simp] theorem State.raiseVector_firmwareOk (s : State) (tenant : BitVec 4) (v : Nat) : (s.raiseVector tenant v).firmwareOk = s.firmwareOk := by unfold State.raiseVector; split <;> rfl
@[simp] theorem State.raiseVector_failedDies (s : State) (tenant : BitVec 4) (v : Nat) : (s.raiseVector tenant v).failedDies = s.failedDies := by unfold State.raiseVector; split <;> rfl
@[simp] theorem State.raiseVector_stoppedDies (s : State) (tenant : BitVec 4) (v : Nat) : (s.raiseVector tenant v).stoppedDies = s.stoppedDies := by unfold State.raiseVector; split <;> rfl
@[simp] theorem State.raiseVector_lostLines (s : State) (tenant : BitVec 4) (v : Nat) : (s.raiseVector tenant v).lostLines = s.lostLines := by unfold State.raiseVector; split <;> rfl
@[simp] theorem State.raiseVector_linkCount (s : State) (tenant : BitVec 4) (v : Nat) : (s.raiseVector tenant v).linkCount = s.linkCount := by unfold State.raiseVector; split <;> rfl
@[simp] theorem State.raiseVector_downPaths (s : State) (tenant : BitVec 4) (v : Nat) : (s.raiseVector tenant v).downPaths = s.downPaths := by unfold State.raiseVector; split <;> rfl
@[simp] theorem State.raiseVector_hostPaths (s : State) (tenant : BitVec 4) (v : Nat) : (s.raiseVector tenant v).hostPaths = s.hostPaths := by unfold State.raiseVector; split <;> rfl
@[simp] theorem State.raiseVector_deadPaths (s : State) (tenant : BitVec 4) (v : Nat) : (s.raiseVector tenant v).deadPaths = s.deadPaths := by unfold State.raiseVector; split <;> rfl
@[simp] theorem State.raiseVector_sendSeq (s : State) (tenant : BitVec 4) (v : Nat) : (s.raiseVector tenant v).sendSeq = s.sendSeq := by unfold State.raiseVector; split <;> rfl
@[simp] theorem State.raiseVector_unacked (s : State) (tenant : BitVec 4) (v : Nat) : (s.raiseVector tenant v).unacked = s.unacked := by unfold State.raiseVector; split <;> rfl
@[simp] theorem State.raiseVector_received (s : State) (tenant : BitVec 4) (v : Nat) : (s.raiseVector tenant v).received = s.received := by unfold State.raiseVector; split <;> rfl
@[simp] theorem State.raiseVector_records (s : State) (tenant : BitVec 4) (v : Nat) : (s.raiseVector tenant v).records = s.records := by unfold State.raiseVector; split <;> rfl
@[simp] theorem State.raiseVector_attested (s : State) (tenant : BitVec 4) (v : Nat) : (s.raiseVector tenant v).attested = s.attested := by unfold State.raiseVector; split <;> rfl
@[simp] theorem State.raiseVector_fetchBad (s : State) (tenant : BitVec 4) (v : Nat) : (s.raiseVector tenant v).fetchBad = s.fetchBad := by unfold State.raiseVector; split <;> rfl
@[simp] theorem State.raiseVector_deferAccords (s : State) (tenant : BitVec 4) (v : Nat) : (s.raiseVector tenant v).deferAccords = s.deferAccords := by unfold State.raiseVector; split <;> rfl
@[simp] theorem State.raiseVector_deferReplies (s : State) (tenant : BitVec 4) (v : Nat) : (s.raiseVector tenant v).deferReplies = s.deferReplies := by unfold State.raiseVector; split <;> rfl
@[simp] theorem State.raiseVector_accordSeq (s : State) (tenant : BitVec 4) (v : Nat) : (s.raiseVector tenant v).accordSeq = s.accordSeq := by unfold State.raiseVector; split <;> rfl
@[simp] theorem State.raiseVector_agenda (s : State) (tenant : BitVec 4) (v : Nat) : (s.raiseVector tenant v).agenda = s.agenda := by unfold State.raiseVector; split <;> rfl
@[simp] theorem State.raiseVector_steps (s : State) (tenant : BitVec 4) (v : Nat) : (s.raiseVector tenant v).steps = s.steps := by unfold State.raiseVector; split <;> rfl

/-! ### Charging bandwidth -/

@[simp] theorem State.chargeHbm_threads (s : State) (stack tenant : BitVec 4) (n : Nat) : (s.chargeHbm stack tenant n).threads = s.threads := rfl
@[simp] theorem State.chargeHbm_ended (s : State) (stack tenant : BitVec 4) (n : Nat) : (s.chargeHbm stack tenant n).ended = s.ended := rfl
@[simp] theorem State.chargeHbm_cur (s : State) (stack tenant : BitVec 4) (n : Nat) : (s.chargeHbm stack tenant n).cur = s.cur := rfl
@[simp] theorem State.chargeHbm_mem (s : State) (stack tenant : BitVec 4) (n : Nat) : (s.chargeHbm stack tenant n).mem = s.mem := rfl
@[simp] theorem State.chargeHbm_full (s : State) (stack tenant : BitVec 4) (n : Nat) : (s.chargeHbm stack tenant n).full = s.full := rfl
@[simp] theorem State.chargeHbm_poison (s : State) (stack tenant : BitVec 4) (n : Nat) : (s.chargeHbm stack tenant n).poison = s.poison := rfl
@[simp] theorem State.chargeHbm_tags (s : State) (stack tenant : BitVec 4) (n : Nat) : (s.chargeHbm stack tenant n).tags = s.tags := rfl
@[simp] theorem State.chargeHbm_quarantine (s : State) (stack tenant : BitVec 4) (n : Nat) : (s.chargeHbm stack tenant n).quarantine = s.quarantine := rfl
@[simp] theorem State.chargeHbm_frames (s : State) (stack tenant : BitVec 4) (n : Nat) : (s.chargeHbm stack tenant n).frames = s.frames := rfl
@[simp] theorem State.chargeHbm_ownership (s : State) (stack tenant : BitVec 4) (n : Nat) : (s.chargeHbm stack tenant n).ownership = s.ownership := rfl
@[simp] theorem State.chargeHbm_accords (s : State) (stack tenant : BitVec 4) (n : Nat) : (s.chargeHbm stack tenant n).accords = s.accords := rfl
@[simp] theorem State.chargeHbm_tiles (s : State) (stack tenant : BitVec 4) (n : Nat) : (s.chargeHbm stack tenant n).tiles = s.tiles := rfl
@[simp] theorem State.chargeHbm_tileGen (s : State) (stack tenant : BitVec 4) (n : Nat) : (s.chargeHbm stack tenant n).tileGen = s.tileGen := rfl
@[simp] theorem State.chargeHbm_claims (s : State) (stack tenant : BitVec 4) (n : Nat) : (s.chargeHbm stack tenant n).claims = s.claims := rfl
@[simp] theorem State.chargeHbm_claimSeq (s : State) (stack tenant : BitVec 4) (n : Nat) : (s.chargeHbm stack tenant n).claimSeq = s.claimSeq := rfl
@[simp] theorem State.chargeHbm_deferClaims (s : State) (stack tenant : BitVec 4) (n : Nat) : (s.chargeHbm stack tenant n).deferClaims = s.deferClaims := rfl
@[simp] theorem State.chargeHbm_acc (s : State) (stack tenant : BitVec 4) (n : Nat) : (s.chargeHbm stack tenant n).acc = s.acc := rfl
@[simp] theorem State.chargeHbm_accOwner (s : State) (stack tenant : BitVec 4) (n : Nat) : (s.chargeHbm stack tenant n).accOwner = s.accOwner := rfl
@[simp] theorem State.chargeHbm_accSaved (s : State) (stack tenant : BitVec 4) (n : Nat) : (s.chargeHbm stack tenant n).accSaved = s.accSaved := rfl
@[simp] theorem State.chargeHbm_accPoison (s : State) (stack tenant : BitVec 4) (n : Nat) : (s.chargeHbm stack tenant n).accPoison = s.accPoison := rfl
@[simp] theorem State.chargeHbm_macqWait (s : State) (stack tenant : BitVec 4) (n : Nat) : (s.chargeHbm stack tenant n).macqWait = s.macqWait := rfl
@[simp] theorem State.chargeHbm_matq (s : State) (stack tenant : BitVec 4) (n : Nat) : (s.chargeHbm stack tenant n).matq = s.matq := rfl
@[simp] theorem State.chargeHbm_cyc (s : State) (stack tenant : BitVec 4) (n : Nat) : (s.chargeHbm stack tenant n).cyc = s.cyc := rfl
@[simp] theorem State.chargeHbm_uncore (s : State) (stack tenant : BitVec 4) (n : Nat) : (s.chargeHbm stack tenant n).uncore = s.uncore := rfl
@[simp] theorem State.chargeHbm_mhz (s : State) (stack tenant : BitVec 4) (n : Nat) : (s.chargeHbm stack tenant n).mhz = s.mhz := rfl
@[simp] theorem State.chargeHbm_mgmt (s : State) (stack tenant : BitVec 4) (n : Nat) : (s.chargeHbm stack tenant n).mgmt = s.mgmt := rfl
@[simp] theorem State.chargeHbm_commands (s : State) (stack tenant : BitVec 4) (n : Nat) : (s.chargeHbm stack tenant n).commands = s.commands := rfl
@[simp] theorem State.chargeHbm_tokens (s : State) (stack tenant : BitVec 4) (n : Nat) : (s.chargeHbm stack tenant n).tokens = s.tokens := rfl
@[simp] theorem State.chargeHbm_fetches (s : State) (stack tenant : BitVec 4) (n : Nat) : (s.chargeHbm stack tenant n).fetches = s.fetches := rfl
@[simp] theorem State.chargeHbm_requests (s : State) (stack tenant : BitVec 4) (n : Nat) : (s.chargeHbm stack tenant n).requests = s.requests := rfl
@[simp] theorem State.chargeHbm_evicting (s : State) (stack tenant : BitVec 4) (n : Nat) : (s.chargeHbm stack tenant n).evicting = s.evicting := rfl
@[simp] theorem State.chargeHbm_tasks (s : State) (stack tenant : BitVec 4) (n : Nat) : (s.chargeHbm stack tenant n).tasks = s.tasks := rfl
@[simp] theorem State.chargeHbm_gangs (s : State) (stack tenant : BitVec 4) (n : Nat) : (s.chargeHbm stack tenant n).gangs = s.gangs := rfl
@[simp] theorem State.chargeHbm_gangCount (s : State) (stack tenant : BitVec 4) (n : Nat) : (s.chargeHbm stack tenant n).gangCount = s.gangCount := rfl
@[simp] theorem State.chargeHbm_launched (s : State) (stack tenant : BitVec 4) (n : Nat) : (s.chargeHbm stack tenant n).launched = s.launched := rfl
@[simp] theorem State.chargeHbm_slotGen (s : State) (stack tenant : BitVec 4) (n : Nat) : (s.chargeHbm stack tenant n).slotGen = s.slotGen := rfl
@[simp] theorem State.chargeHbm_rounds (s : State) (stack tenant : BitVec 4) (n : Nat) : (s.chargeHbm stack tenant n).rounds = s.rounds := rfl
@[simp] theorem State.chargeHbm_deficit (s : State) (stack tenant : BitVec 4) (n : Nat) : (s.chargeHbm stack tenant n).deficit = s.deficit := rfl
@[simp] theorem State.chargeHbm_lastQueue (s : State) (stack tenant : BitVec 4) (n : Nat) : (s.chargeHbm stack tenant n).lastQueue = s.lastQueue := rfl
@[simp] theorem State.chargeHbm_launchAtp (s : State) (stack tenant : BitVec 4) (n : Nat) : (s.chargeHbm stack tenant n).launchAtp = s.launchAtp := rfl
@[simp] theorem State.chargeHbm_debuggers (s : State) (stack tenant : BitVec 4) (n : Nat) : (s.chargeHbm stack tenant n).debuggers = s.debuggers := rfl
@[simp] theorem State.chargeHbm_removing (s : State) (stack tenant : BitVec 4) (n : Nat) : (s.chargeHbm stack tenant n).removing = s.removing := rfl
@[simp] theorem State.chargeHbm_msix (s : State) (stack tenant : BitVec 4) (n : Nat) : (s.chargeHbm stack tenant n).msix = s.msix := rfl
@[simp] theorem State.chargeHbm_msixTable (s : State) (stack tenant : BitVec 4) (n : Nat) : (s.chargeHbm stack tenant n).msixTable = s.msixTable := rfl
@[simp] theorem State.chargeHbm_l1 (s : State) (stack tenant : BitVec 4) (n : Nat) : (s.chargeHbm stack tenant n).l1 = s.l1 := rfl
@[simp] theorem State.chargeHbm_l2 (s : State) (stack tenant : BitVec 4) (n : Nat) : (s.chargeHbm stack tenant n).l2 = s.l2 := rfl
@[simp] theorem State.chargeHbm_hostCopies (s : State) (stack tenant : BitVec 4) (n : Nat) : (s.chargeHbm stack tenant n).hostCopies = s.hostCopies := rfl
@[simp] theorem State.chargeHbm_packets (s : State) (stack tenant : BitVec 4) (n : Nat) : (s.chargeHbm stack tenant n).packets = s.packets := rfl
@[simp] theorem State.chargeHbm_replies (s : State) (stack tenant : BitVec 4) (n : Nat) : (s.chargeHbm stack tenant n).replies = s.replies := rfl
@[simp] theorem State.chargeHbm_inflight (s : State) (stack tenant : BitVec 4) (n : Nat) : (s.chargeHbm stack tenant n).inflight = s.inflight := rfl
@[simp] theorem State.chargeHbm_portBuffer (s : State) (stack tenant : BitVec 4) (n : Nat) : (s.chargeHbm stack tenant n).portBuffer = s.portBuffer := rfl
@[simp] theorem State.chargeHbm_hbmTurn (s : State) (stack tenant : BitVec 4) (n : Nat) : (s.chargeHbm stack tenant n).hbmTurn = s.hbmTurn := rfl
@[simp] theorem State.chargeHbm_fetchCopies (s : State) (stack tenant : BitVec 4) (n : Nat) : (s.chargeHbm stack tenant n).fetchCopies = s.fetchCopies := rfl
@[simp] theorem State.chargeHbm_leaves (s : State) (stack tenant : BitVec 4) (n : Nat) : (s.chargeHbm stack tenant n).leaves = s.leaves := rfl
@[simp] theorem State.chargeHbm_owed (s : State) (stack tenant : BitVec 4) (n : Nat) : (s.chargeHbm stack tenant n).owed = s.owed := rfl
@[simp] theorem State.chargeHbm_refreshDue (s : State) (stack tenant : BitVec 4) (n : Nat) : (s.chargeHbm stack tenant n).refreshDue = s.refreshDue := rfl
@[simp] theorem State.chargeHbm_rowLists (s : State) (stack tenant : BitVec 4) (n : Nat) : (s.chargeHbm stack tenant n).rowLists = s.rowLists := rfl
@[simp] theorem State.chargeHbm_hostBinned (s : State) (stack tenant : BitVec 4) (n : Nat) : (s.chargeHbm stack tenant n).hostBinned = s.hostBinned := rfl
@[simp] theorem State.chargeHbm_f32 (s : State) (stack tenant : BitVec 4) (n : Nat) : (s.chargeHbm stack tenant n).f32 = s.f32 := rfl
@[simp] theorem State.chargeHbm_f64 (s : State) (stack tenant : BitVec 4) (n : Nat) : (s.chargeHbm stack tenant n).f64 = s.f64 := rfl
@[simp] theorem State.chargeHbm_hot (s : State) (stack tenant : BitVec 4) (n : Nat) : (s.chargeHbm stack tenant n).hot = s.hot := rfl
@[simp] theorem State.chargeHbm_selfRefresh (s : State) (stack tenant : BitVec 4) (n : Nat) : (s.chargeHbm stack tenant n).selfRefresh = s.selfRefresh := rfl
@[simp] theorem State.chargeHbm_softErrors (s : State) (stack tenant : BitVec 4) (n : Nat) : (s.chargeHbm stack tenant n).softErrors = s.softErrors := rfl
@[simp] theorem State.chargeHbm_corrected (s : State) (stack tenant : BitVec 4) (n : Nat) : (s.chargeHbm stack tenant n).corrected = s.corrected := rfl
@[simp] theorem State.chargeHbm_boots (s : State) (stack tenant : BitVec 4) (n : Nat) : (s.chargeHbm stack tenant n).boots = s.boots := rfl
@[simp] theorem State.chargeHbm_bringUp (s : State) (stack tenant : BitVec 4) (n : Nat) : (s.chargeHbm stack tenant n).bringUp = s.bringUp := rfl
@[simp] theorem State.chargeHbm_firmware (s : State) (stack tenant : BitVec 4) (n : Nat) : (s.chargeHbm stack tenant n).firmware = s.firmware := rfl
@[simp] theorem State.chargeHbm_firmwareOk (s : State) (stack tenant : BitVec 4) (n : Nat) : (s.chargeHbm stack tenant n).firmwareOk = s.firmwareOk := rfl
@[simp] theorem State.chargeHbm_failedDies (s : State) (stack tenant : BitVec 4) (n : Nat) : (s.chargeHbm stack tenant n).failedDies = s.failedDies := rfl
@[simp] theorem State.chargeHbm_stoppedDies (s : State) (stack tenant : BitVec 4) (n : Nat) : (s.chargeHbm stack tenant n).stoppedDies = s.stoppedDies := rfl
@[simp] theorem State.chargeHbm_lostLines (s : State) (stack tenant : BitVec 4) (n : Nat) : (s.chargeHbm stack tenant n).lostLines = s.lostLines := rfl
@[simp] theorem State.chargeHbm_linkCount (s : State) (stack tenant : BitVec 4) (n : Nat) : (s.chargeHbm stack tenant n).linkCount = s.linkCount := rfl
@[simp] theorem State.chargeHbm_downPaths (s : State) (stack tenant : BitVec 4) (n : Nat) : (s.chargeHbm stack tenant n).downPaths = s.downPaths := rfl
@[simp] theorem State.chargeHbm_hostPaths (s : State) (stack tenant : BitVec 4) (n : Nat) : (s.chargeHbm stack tenant n).hostPaths = s.hostPaths := rfl
@[simp] theorem State.chargeHbm_deadPaths (s : State) (stack tenant : BitVec 4) (n : Nat) : (s.chargeHbm stack tenant n).deadPaths = s.deadPaths := rfl
@[simp] theorem State.chargeHbm_sendSeq (s : State) (stack tenant : BitVec 4) (n : Nat) : (s.chargeHbm stack tenant n).sendSeq = s.sendSeq := rfl
@[simp] theorem State.chargeHbm_unacked (s : State) (stack tenant : BitVec 4) (n : Nat) : (s.chargeHbm stack tenant n).unacked = s.unacked := rfl
@[simp] theorem State.chargeHbm_received (s : State) (stack tenant : BitVec 4) (n : Nat) : (s.chargeHbm stack tenant n).received = s.received := rfl
@[simp] theorem State.chargeHbm_records (s : State) (stack tenant : BitVec 4) (n : Nat) : (s.chargeHbm stack tenant n).records = s.records := rfl
@[simp] theorem State.chargeHbm_reports (s : State) (stack tenant : BitVec 4) (n : Nat) : (s.chargeHbm stack tenant n).reports = s.reports := rfl
@[simp] theorem State.chargeHbm_attested (s : State) (stack tenant : BitVec 4) (n : Nat) : (s.chargeHbm stack tenant n).attested = s.attested := rfl
@[simp] theorem State.chargeHbm_fetchBad (s : State) (stack tenant : BitVec 4) (n : Nat) : (s.chargeHbm stack tenant n).fetchBad = s.fetchBad := rfl
@[simp] theorem State.chargeHbm_deferAccords (s : State) (stack tenant : BitVec 4) (n : Nat) : (s.chargeHbm stack tenant n).deferAccords = s.deferAccords := rfl
@[simp] theorem State.chargeHbm_deferReplies (s : State) (stack tenant : BitVec 4) (n : Nat) : (s.chargeHbm stack tenant n).deferReplies = s.deferReplies := rfl
@[simp] theorem State.chargeHbm_accordSeq (s : State) (stack tenant : BitVec 4) (n : Nat) : (s.chargeHbm stack tenant n).accordSeq = s.accordSeq := rfl
@[simp] theorem State.chargeHbm_agenda (s : State) (stack tenant : BitVec 4) (n : Nat) : (s.chargeHbm stack tenant n).agenda = s.agenda := rfl
@[simp] theorem State.chargeHbm_steps (s : State) (stack tenant : BitVec 4) (n : Nat) : (s.chargeHbm stack tenant n).steps = s.steps := rfl

/-! ### Sending over the Bruron Link -/

@[simp] theorem State.sendPacket_threads (s : State) (l : Loc) (op : MemOp) (release : Bool) : (s.sendPacket l op release).threads = s.threads := by unfold State.sendPacket; split <;> rfl
@[simp] theorem State.sendPacket_ended (s : State) (l : Loc) (op : MemOp) (release : Bool) : (s.sendPacket l op release).ended = s.ended := by unfold State.sendPacket; split <;> rfl
@[simp] theorem State.sendPacket_cur (s : State) (l : Loc) (op : MemOp) (release : Bool) : (s.sendPacket l op release).cur = s.cur := by unfold State.sendPacket; split <;> rfl
@[simp] theorem State.sendPacket_mem (s : State) (l : Loc) (op : MemOp) (release : Bool) : (s.sendPacket l op release).mem = s.mem := by unfold State.sendPacket; split <;> rfl
@[simp] theorem State.sendPacket_full (s : State) (l : Loc) (op : MemOp) (release : Bool) : (s.sendPacket l op release).full = s.full := by unfold State.sendPacket; split <;> rfl
@[simp] theorem State.sendPacket_poison (s : State) (l : Loc) (op : MemOp) (release : Bool) : (s.sendPacket l op release).poison = s.poison := by unfold State.sendPacket; split <;> rfl
@[simp] theorem State.sendPacket_tags (s : State) (l : Loc) (op : MemOp) (release : Bool) : (s.sendPacket l op release).tags = s.tags := by unfold State.sendPacket; split <;> rfl
@[simp] theorem State.sendPacket_quarantine (s : State) (l : Loc) (op : MemOp) (release : Bool) : (s.sendPacket l op release).quarantine = s.quarantine := by unfold State.sendPacket; split <;> rfl
@[simp] theorem State.sendPacket_frames (s : State) (l : Loc) (op : MemOp) (release : Bool) : (s.sendPacket l op release).frames = s.frames := by unfold State.sendPacket; split <;> rfl
@[simp] theorem State.sendPacket_ownership (s : State) (l : Loc) (op : MemOp) (release : Bool) : (s.sendPacket l op release).ownership = s.ownership := by unfold State.sendPacket; split <;> rfl
@[simp] theorem State.sendPacket_accords (s : State) (l : Loc) (op : MemOp) (release : Bool) : (s.sendPacket l op release).accords = s.accords := by unfold State.sendPacket; split <;> rfl
@[simp] theorem State.sendPacket_tiles (s : State) (l : Loc) (op : MemOp) (release : Bool) : (s.sendPacket l op release).tiles = s.tiles := by unfold State.sendPacket; split <;> rfl
@[simp] theorem State.sendPacket_tileGen (s : State) (l : Loc) (op : MemOp) (release : Bool) : (s.sendPacket l op release).tileGen = s.tileGen := by unfold State.sendPacket; split <;> rfl
@[simp] theorem State.sendPacket_claims (s : State) (l : Loc) (op : MemOp) (release : Bool) : (s.sendPacket l op release).claims = s.claims := by unfold State.sendPacket; split <;> rfl
@[simp] theorem State.sendPacket_claimSeq (s : State) (l : Loc) (op : MemOp) (release : Bool) : (s.sendPacket l op release).claimSeq = s.claimSeq := by unfold State.sendPacket; split <;> rfl
@[simp] theorem State.sendPacket_deferClaims (s : State) (l : Loc) (op : MemOp) (release : Bool) : (s.sendPacket l op release).deferClaims = s.deferClaims := by unfold State.sendPacket; split <;> rfl
@[simp] theorem State.sendPacket_acc (s : State) (l : Loc) (op : MemOp) (release : Bool) : (s.sendPacket l op release).acc = s.acc := by unfold State.sendPacket; split <;> rfl
@[simp] theorem State.sendPacket_accOwner (s : State) (l : Loc) (op : MemOp) (release : Bool) : (s.sendPacket l op release).accOwner = s.accOwner := by unfold State.sendPacket; split <;> rfl
@[simp] theorem State.sendPacket_accSaved (s : State) (l : Loc) (op : MemOp) (release : Bool) : (s.sendPacket l op release).accSaved = s.accSaved := by unfold State.sendPacket; split <;> rfl
@[simp] theorem State.sendPacket_accPoison (s : State) (l : Loc) (op : MemOp) (release : Bool) : (s.sendPacket l op release).accPoison = s.accPoison := by unfold State.sendPacket; split <;> rfl
@[simp] theorem State.sendPacket_macqWait (s : State) (l : Loc) (op : MemOp) (release : Bool) : (s.sendPacket l op release).macqWait = s.macqWait := by unfold State.sendPacket; split <;> rfl
@[simp] theorem State.sendPacket_matq (s : State) (l : Loc) (op : MemOp) (release : Bool) : (s.sendPacket l op release).matq = s.matq := by unfold State.sendPacket; split <;> rfl
@[simp] theorem State.sendPacket_cyc (s : State) (l : Loc) (op : MemOp) (release : Bool) : (s.sendPacket l op release).cyc = s.cyc := by unfold State.sendPacket; split <;> rfl
@[simp] theorem State.sendPacket_uncore (s : State) (l : Loc) (op : MemOp) (release : Bool) : (s.sendPacket l op release).uncore = s.uncore := by unfold State.sendPacket; split <;> rfl
@[simp] theorem State.sendPacket_mhz (s : State) (l : Loc) (op : MemOp) (release : Bool) : (s.sendPacket l op release).mhz = s.mhz := by unfold State.sendPacket; split <;> rfl
@[simp] theorem State.sendPacket_mgmt (s : State) (l : Loc) (op : MemOp) (release : Bool) : (s.sendPacket l op release).mgmt = s.mgmt := by unfold State.sendPacket; split <;> rfl
@[simp] theorem State.sendPacket_commands (s : State) (l : Loc) (op : MemOp) (release : Bool) : (s.sendPacket l op release).commands = s.commands := by unfold State.sendPacket; split <;> rfl
@[simp] theorem State.sendPacket_tokens (s : State) (l : Loc) (op : MemOp) (release : Bool) : (s.sendPacket l op release).tokens = s.tokens := by unfold State.sendPacket; split <;> rfl
@[simp] theorem State.sendPacket_fetches (s : State) (l : Loc) (op : MemOp) (release : Bool) : (s.sendPacket l op release).fetches = s.fetches := by unfold State.sendPacket; split <;> rfl
@[simp] theorem State.sendPacket_requests (s : State) (l : Loc) (op : MemOp) (release : Bool) : (s.sendPacket l op release).requests = s.requests := by unfold State.sendPacket; split <;> rfl
@[simp] theorem State.sendPacket_evicting (s : State) (l : Loc) (op : MemOp) (release : Bool) : (s.sendPacket l op release).evicting = s.evicting := by unfold State.sendPacket; split <;> rfl
@[simp] theorem State.sendPacket_tasks (s : State) (l : Loc) (op : MemOp) (release : Bool) : (s.sendPacket l op release).tasks = s.tasks := by unfold State.sendPacket; split <;> rfl
@[simp] theorem State.sendPacket_gangs (s : State) (l : Loc) (op : MemOp) (release : Bool) : (s.sendPacket l op release).gangs = s.gangs := by unfold State.sendPacket; split <;> rfl
@[simp] theorem State.sendPacket_gangCount (s : State) (l : Loc) (op : MemOp) (release : Bool) : (s.sendPacket l op release).gangCount = s.gangCount := by unfold State.sendPacket; split <;> rfl
@[simp] theorem State.sendPacket_launched (s : State) (l : Loc) (op : MemOp) (release : Bool) : (s.sendPacket l op release).launched = s.launched := by unfold State.sendPacket; split <;> rfl
@[simp] theorem State.sendPacket_slotGen (s : State) (l : Loc) (op : MemOp) (release : Bool) : (s.sendPacket l op release).slotGen = s.slotGen := by unfold State.sendPacket; split <;> rfl
@[simp] theorem State.sendPacket_rounds (s : State) (l : Loc) (op : MemOp) (release : Bool) : (s.sendPacket l op release).rounds = s.rounds := by unfold State.sendPacket; split <;> rfl
@[simp] theorem State.sendPacket_deficit (s : State) (l : Loc) (op : MemOp) (release : Bool) : (s.sendPacket l op release).deficit = s.deficit := by unfold State.sendPacket; split <;> rfl
@[simp] theorem State.sendPacket_lastQueue (s : State) (l : Loc) (op : MemOp) (release : Bool) : (s.sendPacket l op release).lastQueue = s.lastQueue := by unfold State.sendPacket; split <;> rfl
@[simp] theorem State.sendPacket_launchAtp (s : State) (l : Loc) (op : MemOp) (release : Bool) : (s.sendPacket l op release).launchAtp = s.launchAtp := by unfold State.sendPacket; split <;> rfl
@[simp] theorem State.sendPacket_debuggers (s : State) (l : Loc) (op : MemOp) (release : Bool) : (s.sendPacket l op release).debuggers = s.debuggers := by unfold State.sendPacket; split <;> rfl
@[simp] theorem State.sendPacket_removing (s : State) (l : Loc) (op : MemOp) (release : Bool) : (s.sendPacket l op release).removing = s.removing := by unfold State.sendPacket; split <;> rfl
@[simp] theorem State.sendPacket_msix (s : State) (l : Loc) (op : MemOp) (release : Bool) : (s.sendPacket l op release).msix = s.msix := by unfold State.sendPacket; split <;> rfl
@[simp] theorem State.sendPacket_msixTable (s : State) (l : Loc) (op : MemOp) (release : Bool) : (s.sendPacket l op release).msixTable = s.msixTable := by unfold State.sendPacket; split <;> rfl
@[simp] theorem State.sendPacket_l1 (s : State) (l : Loc) (op : MemOp) (release : Bool) : (s.sendPacket l op release).l1 = s.l1 := by unfold State.sendPacket; split <;> rfl
@[simp] theorem State.sendPacket_l2 (s : State) (l : Loc) (op : MemOp) (release : Bool) : (s.sendPacket l op release).l2 = s.l2 := by unfold State.sendPacket; split <;> rfl
@[simp] theorem State.sendPacket_hostCopies (s : State) (l : Loc) (op : MemOp) (release : Bool) : (s.sendPacket l op release).hostCopies = s.hostCopies := by unfold State.sendPacket; split <;> rfl
@[simp] theorem State.sendPacket_packets (s : State) (l : Loc) (op : MemOp) (release : Bool) : (s.sendPacket l op release).packets = s.packets := by unfold State.sendPacket; split <;> rfl
@[simp] theorem State.sendPacket_replies (s : State) (l : Loc) (op : MemOp) (release : Bool) : (s.sendPacket l op release).replies = s.replies := by unfold State.sendPacket; split <;> rfl
@[simp] theorem State.sendPacket_inflight (s : State) (l : Loc) (op : MemOp) (release : Bool) : (s.sendPacket l op release).inflight = s.inflight := by unfold State.sendPacket; split <;> rfl
@[simp] theorem State.sendPacket_portBuffer (s : State) (l : Loc) (op : MemOp) (release : Bool) : (s.sendPacket l op release).portBuffer = s.portBuffer := by unfold State.sendPacket; split <;> rfl
@[simp] theorem State.sendPacket_hbmDeficit (s : State) (l : Loc) (op : MemOp) (release : Bool) : (s.sendPacket l op release).hbmDeficit = s.hbmDeficit := by unfold State.sendPacket; split <;> rfl
@[simp] theorem State.sendPacket_hbmTurn (s : State) (l : Loc) (op : MemOp) (release : Bool) : (s.sendPacket l op release).hbmTurn = s.hbmTurn := by unfold State.sendPacket; split <;> rfl
@[simp] theorem State.sendPacket_fetchCopies (s : State) (l : Loc) (op : MemOp) (release : Bool) : (s.sendPacket l op release).fetchCopies = s.fetchCopies := by unfold State.sendPacket; split <;> rfl
@[simp] theorem State.sendPacket_leaves (s : State) (l : Loc) (op : MemOp) (release : Bool) : (s.sendPacket l op release).leaves = s.leaves := by unfold State.sendPacket; split <;> rfl
@[simp] theorem State.sendPacket_owed (s : State) (l : Loc) (op : MemOp) (release : Bool) : (s.sendPacket l op release).owed = s.owed := by unfold State.sendPacket; split <;> rfl
@[simp] theorem State.sendPacket_refreshDue (s : State) (l : Loc) (op : MemOp) (release : Bool) : (s.sendPacket l op release).refreshDue = s.refreshDue := by unfold State.sendPacket; split <;> rfl
@[simp] theorem State.sendPacket_rowLists (s : State) (l : Loc) (op : MemOp) (release : Bool) : (s.sendPacket l op release).rowLists = s.rowLists := by unfold State.sendPacket; split <;> rfl
@[simp] theorem State.sendPacket_hostBinned (s : State) (l : Loc) (op : MemOp) (release : Bool) : (s.sendPacket l op release).hostBinned = s.hostBinned := by unfold State.sendPacket; split <;> rfl
@[simp] theorem State.sendPacket_f32 (s : State) (l : Loc) (op : MemOp) (release : Bool) : (s.sendPacket l op release).f32 = s.f32 := by unfold State.sendPacket; split <;> rfl
@[simp] theorem State.sendPacket_f64 (s : State) (l : Loc) (op : MemOp) (release : Bool) : (s.sendPacket l op release).f64 = s.f64 := by unfold State.sendPacket; split <;> rfl
@[simp] theorem State.sendPacket_hot (s : State) (l : Loc) (op : MemOp) (release : Bool) : (s.sendPacket l op release).hot = s.hot := by unfold State.sendPacket; split <;> rfl
@[simp] theorem State.sendPacket_selfRefresh (s : State) (l : Loc) (op : MemOp) (release : Bool) : (s.sendPacket l op release).selfRefresh = s.selfRefresh := by unfold State.sendPacket; split <;> rfl
@[simp] theorem State.sendPacket_softErrors (s : State) (l : Loc) (op : MemOp) (release : Bool) : (s.sendPacket l op release).softErrors = s.softErrors := by unfold State.sendPacket; split <;> rfl
@[simp] theorem State.sendPacket_corrected (s : State) (l : Loc) (op : MemOp) (release : Bool) : (s.sendPacket l op release).corrected = s.corrected := by unfold State.sendPacket; split <;> rfl
@[simp] theorem State.sendPacket_boots (s : State) (l : Loc) (op : MemOp) (release : Bool) : (s.sendPacket l op release).boots = s.boots := by unfold State.sendPacket; split <;> rfl
@[simp] theorem State.sendPacket_bringUp (s : State) (l : Loc) (op : MemOp) (release : Bool) : (s.sendPacket l op release).bringUp = s.bringUp := by unfold State.sendPacket; split <;> rfl
@[simp] theorem State.sendPacket_firmware (s : State) (l : Loc) (op : MemOp) (release : Bool) : (s.sendPacket l op release).firmware = s.firmware := by unfold State.sendPacket; split <;> rfl
@[simp] theorem State.sendPacket_firmwareOk (s : State) (l : Loc) (op : MemOp) (release : Bool) : (s.sendPacket l op release).firmwareOk = s.firmwareOk := by unfold State.sendPacket; split <;> rfl
@[simp] theorem State.sendPacket_failedDies (s : State) (l : Loc) (op : MemOp) (release : Bool) : (s.sendPacket l op release).failedDies = s.failedDies := by unfold State.sendPacket; split <;> rfl
@[simp] theorem State.sendPacket_stoppedDies (s : State) (l : Loc) (op : MemOp) (release : Bool) : (s.sendPacket l op release).stoppedDies = s.stoppedDies := by unfold State.sendPacket; split <;> rfl
@[simp] theorem State.sendPacket_lostLines (s : State) (l : Loc) (op : MemOp) (release : Bool) : (s.sendPacket l op release).lostLines = s.lostLines := by unfold State.sendPacket; split <;> rfl
@[simp] theorem State.sendPacket_linkCount (s : State) (l : Loc) (op : MemOp) (release : Bool) : (s.sendPacket l op release).linkCount = s.linkCount := by unfold State.sendPacket; split <;> rfl
@[simp] theorem State.sendPacket_downPaths (s : State) (l : Loc) (op : MemOp) (release : Bool) : (s.sendPacket l op release).downPaths = s.downPaths := by unfold State.sendPacket; split <;> rfl
@[simp] theorem State.sendPacket_hostPaths (s : State) (l : Loc) (op : MemOp) (release : Bool) : (s.sendPacket l op release).hostPaths = s.hostPaths := by unfold State.sendPacket; split <;> rfl
@[simp] theorem State.sendPacket_deadPaths (s : State) (l : Loc) (op : MemOp) (release : Bool) : (s.sendPacket l op release).deadPaths = s.deadPaths := by unfold State.sendPacket; split <;> rfl
@[simp] theorem State.sendPacket_received (s : State) (l : Loc) (op : MemOp) (release : Bool) : (s.sendPacket l op release).received = s.received := by unfold State.sendPacket; split <;> rfl
@[simp] theorem State.sendPacket_records (s : State) (l : Loc) (op : MemOp) (release : Bool) : (s.sendPacket l op release).records = s.records := by unfold State.sendPacket; split <;> rfl
@[simp] theorem State.sendPacket_reports (s : State) (l : Loc) (op : MemOp) (release : Bool) : (s.sendPacket l op release).reports = s.reports := by unfold State.sendPacket; split <;> rfl
@[simp] theorem State.sendPacket_attested (s : State) (l : Loc) (op : MemOp) (release : Bool) : (s.sendPacket l op release).attested = s.attested := by unfold State.sendPacket; split <;> rfl
@[simp] theorem State.sendPacket_fetchBad (s : State) (l : Loc) (op : MemOp) (release : Bool) : (s.sendPacket l op release).fetchBad = s.fetchBad := by unfold State.sendPacket; split <;> rfl
@[simp] theorem State.sendPacket_deferAccords (s : State) (l : Loc) (op : MemOp) (release : Bool) : (s.sendPacket l op release).deferAccords = s.deferAccords := by unfold State.sendPacket; split <;> rfl
@[simp] theorem State.sendPacket_deferReplies (s : State) (l : Loc) (op : MemOp) (release : Bool) : (s.sendPacket l op release).deferReplies = s.deferReplies := by unfold State.sendPacket; split <;> rfl
@[simp] theorem State.sendPacket_accordSeq (s : State) (l : Loc) (op : MemOp) (release : Bool) : (s.sendPacket l op release).accordSeq = s.accordSeq := by unfold State.sendPacket; split <;> rfl
@[simp] theorem State.sendPacket_agenda (s : State) (l : Loc) (op : MemOp) (release : Bool) : (s.sendPacket l op release).agenda = s.agenda := by unfold State.sendPacket; split <;> rfl
@[simp] theorem State.sendPacket_steps (s : State) (l : Loc) (op : MemOp) (release : Bool) : (s.sendPacket l op release).steps = s.steps := by unfold State.sendPacket; split <;> rfl

/-! ### Zeroing a range -/

@[simp] theorem State.zeroRange_ended (s : State) (l : Loc) (n : Nat) : (s.zeroRange l n).ended = s.ended := rfl
@[simp] theorem State.zeroRange_cur (s : State) (l : Loc) (n : Nat) : (s.zeroRange l n).cur = s.cur := rfl
@[simp] theorem State.zeroRange_mem (s : State) (l : Loc) (n : Nat) : (s.zeroRange l n).mem = Sparse.clear s.mem l n := rfl
@[simp] theorem State.zeroRange_full (s : State) (l : Loc) (n : Nat) : (s.zeroRange l n).full = s.full := rfl
@[simp] theorem State.zeroRange_poison (s : State) (l : Loc) (n : Nat) : (s.zeroRange l n).poison = poisonAfter (s.invalidate l n).poison l n := rfl
@[simp] theorem State.zeroRange_tags (s : State) (l : Loc) (n : Nat) : (s.zeroRange l n).tags = s.tags := rfl
@[simp] theorem State.zeroRange_quarantine (s : State) (l : Loc) (n : Nat) : (s.zeroRange l n).quarantine = s.quarantine := rfl
@[simp] theorem State.zeroRange_frames (s : State) (l : Loc) (n : Nat) : (s.zeroRange l n).frames = s.frames := rfl
@[simp] theorem State.zeroRange_ownership (s : State) (l : Loc) (n : Nat) : (s.zeroRange l n).ownership = s.ownership := rfl
@[simp] theorem State.zeroRange_accords (s : State) (l : Loc) (n : Nat) : (s.zeroRange l n).accords = s.accords := rfl
@[simp] theorem State.zeroRange_tiles (s : State) (l : Loc) (n : Nat) : (s.zeroRange l n).tiles = s.tiles := rfl
@[simp] theorem State.zeroRange_tileGen (s : State) (l : Loc) (n : Nat) : (s.zeroRange l n).tileGen = s.tileGen := rfl
@[simp] theorem State.zeroRange_claims (s : State) (l : Loc) (n : Nat) : (s.zeroRange l n).claims = s.claims := rfl
@[simp] theorem State.zeroRange_claimSeq (s : State) (l : Loc) (n : Nat) : (s.zeroRange l n).claimSeq = s.claimSeq := rfl
@[simp] theorem State.zeroRange_deferClaims (s : State) (l : Loc) (n : Nat) : (s.zeroRange l n).deferClaims = s.deferClaims := rfl
@[simp] theorem State.zeroRange_acc (s : State) (l : Loc) (n : Nat) : (s.zeroRange l n).acc = s.acc := rfl
@[simp] theorem State.zeroRange_accOwner (s : State) (l : Loc) (n : Nat) : (s.zeroRange l n).accOwner = s.accOwner := rfl
@[simp] theorem State.zeroRange_accSaved (s : State) (l : Loc) (n : Nat) : (s.zeroRange l n).accSaved = s.accSaved := rfl
@[simp] theorem State.zeroRange_accPoison (s : State) (l : Loc) (n : Nat) : (s.zeroRange l n).accPoison = s.accPoison := rfl
@[simp] theorem State.zeroRange_macqWait (s : State) (l : Loc) (n : Nat) : (s.zeroRange l n).macqWait = s.macqWait := rfl
@[simp] theorem State.zeroRange_matq (s : State) (l : Loc) (n : Nat) : (s.zeroRange l n).matq = s.matq := rfl
@[simp] theorem State.zeroRange_cyc (s : State) (l : Loc) (n : Nat) : (s.zeroRange l n).cyc = s.cyc := rfl
@[simp] theorem State.zeroRange_uncore (s : State) (l : Loc) (n : Nat) : (s.zeroRange l n).uncore = s.uncore := rfl
@[simp] theorem State.zeroRange_mhz (s : State) (l : Loc) (n : Nat) : (s.zeroRange l n).mhz = s.mhz := rfl
@[simp] theorem State.zeroRange_mgmt (s : State) (l : Loc) (n : Nat) : (s.zeroRange l n).mgmt = s.mgmt := rfl
@[simp] theorem State.zeroRange_commands (s : State) (l : Loc) (n : Nat) : (s.zeroRange l n).commands = s.commands := rfl
@[simp] theorem State.zeroRange_tokens (s : State) (l : Loc) (n : Nat) : (s.zeroRange l n).tokens = s.tokens := rfl
@[simp] theorem State.zeroRange_fetches (s : State) (l : Loc) (n : Nat) : (s.zeroRange l n).fetches = s.fetches := rfl
@[simp] theorem State.zeroRange_requests (s : State) (l : Loc) (n : Nat) : (s.zeroRange l n).requests = s.requests := rfl
@[simp] theorem State.zeroRange_evicting (s : State) (l : Loc) (n : Nat) : (s.zeroRange l n).evicting = s.evicting := rfl
@[simp] theorem State.zeroRange_tasks (s : State) (l : Loc) (n : Nat) : (s.zeroRange l n).tasks = s.tasks := rfl
@[simp] theorem State.zeroRange_gangs (s : State) (l : Loc) (n : Nat) : (s.zeroRange l n).gangs = s.gangs := rfl
@[simp] theorem State.zeroRange_gangCount (s : State) (l : Loc) (n : Nat) : (s.zeroRange l n).gangCount = s.gangCount := rfl
@[simp] theorem State.zeroRange_launched (s : State) (l : Loc) (n : Nat) : (s.zeroRange l n).launched = s.launched := rfl
@[simp] theorem State.zeroRange_slotGen (s : State) (l : Loc) (n : Nat) : (s.zeroRange l n).slotGen = s.slotGen := rfl
@[simp] theorem State.zeroRange_rounds (s : State) (l : Loc) (n : Nat) : (s.zeroRange l n).rounds = s.rounds := rfl
@[simp] theorem State.zeroRange_deficit (s : State) (l : Loc) (n : Nat) : (s.zeroRange l n).deficit = s.deficit := rfl
@[simp] theorem State.zeroRange_lastQueue (s : State) (l : Loc) (n : Nat) : (s.zeroRange l n).lastQueue = s.lastQueue := rfl
@[simp] theorem State.zeroRange_launchAtp (s : State) (l : Loc) (n : Nat) : (s.zeroRange l n).launchAtp = s.launchAtp := rfl
@[simp] theorem State.zeroRange_debuggers (s : State) (l : Loc) (n : Nat) : (s.zeroRange l n).debuggers = s.debuggers := rfl
@[simp] theorem State.zeroRange_removing (s : State) (l : Loc) (n : Nat) : (s.zeroRange l n).removing = s.removing := rfl
@[simp] theorem State.zeroRange_msix (s : State) (l : Loc) (n : Nat) : (s.zeroRange l n).msix = s.msix := rfl
@[simp] theorem State.zeroRange_msixTable (s : State) (l : Loc) (n : Nat) : (s.zeroRange l n).msixTable = s.msixTable := rfl
@[simp] theorem State.zeroRange_packets (s : State) (l : Loc) (n : Nat) : (s.zeroRange l n).packets = s.packets := rfl
@[simp] theorem State.zeroRange_replies (s : State) (l : Loc) (n : Nat) : (s.zeroRange l n).replies = s.replies := rfl
@[simp] theorem State.zeroRange_inflight (s : State) (l : Loc) (n : Nat) : (s.zeroRange l n).inflight = s.inflight := rfl
@[simp] theorem State.zeroRange_portBuffer (s : State) (l : Loc) (n : Nat) : (s.zeroRange l n).portBuffer = s.portBuffer := rfl
@[simp] theorem State.zeroRange_hbmDeficit (s : State) (l : Loc) (n : Nat) : (s.zeroRange l n).hbmDeficit = s.hbmDeficit := rfl
@[simp] theorem State.zeroRange_hbmTurn (s : State) (l : Loc) (n : Nat) : (s.zeroRange l n).hbmTurn = s.hbmTurn := rfl
@[simp] theorem State.zeroRange_fetchCopies (s : State) (l : Loc) (n : Nat) : (s.zeroRange l n).fetchCopies = s.fetchCopies := rfl
@[simp] theorem State.zeroRange_leaves (s : State) (l : Loc) (n : Nat) : (s.zeroRange l n).leaves = s.leaves := rfl
@[simp] theorem State.zeroRange_owed (s : State) (l : Loc) (n : Nat) : (s.zeroRange l n).owed = s.owed := rfl
@[simp] theorem State.zeroRange_refreshDue (s : State) (l : Loc) (n : Nat) : (s.zeroRange l n).refreshDue = s.refreshDue := rfl
@[simp] theorem State.zeroRange_rowLists (s : State) (l : Loc) (n : Nat) : (s.zeroRange l n).rowLists = s.rowLists := rfl
@[simp] theorem State.zeroRange_hostBinned (s : State) (l : Loc) (n : Nat) : (s.zeroRange l n).hostBinned = s.hostBinned := rfl
@[simp] theorem State.zeroRange_f32 (s : State) (l : Loc) (n : Nat) : (s.zeroRange l n).f32 = s.f32 := rfl
@[simp] theorem State.zeroRange_f64 (s : State) (l : Loc) (n : Nat) : (s.zeroRange l n).f64 = s.f64 := rfl
@[simp] theorem State.zeroRange_hot (s : State) (l : Loc) (n : Nat) : (s.zeroRange l n).hot = s.hot := rfl
@[simp] theorem State.zeroRange_selfRefresh (s : State) (l : Loc) (n : Nat) : (s.zeroRange l n).selfRefresh = s.selfRefresh := rfl
@[simp] theorem State.zeroRange_softErrors (s : State) (l : Loc) (n : Nat) : (s.zeroRange l n).softErrors = poisonAfter s.softErrors l n := rfl
@[simp] theorem State.zeroRange_corrected (s : State) (l : Loc) (n : Nat) : (s.zeroRange l n).corrected = s.corrected := rfl
@[simp] theorem State.zeroRange_boots (s : State) (l : Loc) (n : Nat) : (s.zeroRange l n).boots = s.boots := rfl
@[simp] theorem State.zeroRange_bringUp (s : State) (l : Loc) (n : Nat) : (s.zeroRange l n).bringUp = s.bringUp := rfl
@[simp] theorem State.zeroRange_firmware (s : State) (l : Loc) (n : Nat) : (s.zeroRange l n).firmware = s.firmware := rfl
@[simp] theorem State.zeroRange_firmwareOk (s : State) (l : Loc) (n : Nat) : (s.zeroRange l n).firmwareOk = s.firmwareOk := rfl
@[simp] theorem State.zeroRange_failedDies (s : State) (l : Loc) (n : Nat) : (s.zeroRange l n).failedDies = s.failedDies := rfl
@[simp] theorem State.zeroRange_stoppedDies (s : State) (l : Loc) (n : Nat) : (s.zeroRange l n).stoppedDies = s.stoppedDies := rfl
@[simp] theorem State.zeroRange_lostLines (s : State) (l : Loc) (n : Nat) : (s.zeroRange l n).lostLines = s.lostLines := rfl
@[simp] theorem State.zeroRange_linkCount (s : State) (l : Loc) (n : Nat) : (s.zeroRange l n).linkCount = s.linkCount := rfl
@[simp] theorem State.zeroRange_downPaths (s : State) (l : Loc) (n : Nat) : (s.zeroRange l n).downPaths = s.downPaths := rfl
@[simp] theorem State.zeroRange_hostPaths (s : State) (l : Loc) (n : Nat) : (s.zeroRange l n).hostPaths = s.hostPaths := rfl
@[simp] theorem State.zeroRange_deadPaths (s : State) (l : Loc) (n : Nat) : (s.zeroRange l n).deadPaths = s.deadPaths := rfl
@[simp] theorem State.zeroRange_sendSeq (s : State) (l : Loc) (n : Nat) : (s.zeroRange l n).sendSeq = s.sendSeq := rfl
@[simp] theorem State.zeroRange_unacked (s : State) (l : Loc) (n : Nat) : (s.zeroRange l n).unacked = s.unacked := rfl
@[simp] theorem State.zeroRange_received (s : State) (l : Loc) (n : Nat) : (s.zeroRange l n).received = s.received := rfl
@[simp] theorem State.zeroRange_records (s : State) (l : Loc) (n : Nat) : (s.zeroRange l n).records = s.records := rfl
@[simp] theorem State.zeroRange_reports (s : State) (l : Loc) (n : Nat) : (s.zeroRange l n).reports = s.reports := rfl
@[simp] theorem State.zeroRange_attested (s : State) (l : Loc) (n : Nat) : (s.zeroRange l n).attested = s.attested := rfl
@[simp] theorem State.zeroRange_fetchBad (s : State) (l : Loc) (n : Nat) : (s.zeroRange l n).fetchBad = s.fetchBad := rfl
@[simp] theorem State.zeroRange_deferAccords (s : State) (l : Loc) (n : Nat) : (s.zeroRange l n).deferAccords = s.deferAccords := rfl
@[simp] theorem State.zeroRange_deferReplies (s : State) (l : Loc) (n : Nat) : (s.zeroRange l n).deferReplies = s.deferReplies := rfl
@[simp] theorem State.zeroRange_accordSeq (s : State) (l : Loc) (n : Nat) : (s.zeroRange l n).accordSeq = s.accordSeq := rfl
@[simp] theorem State.zeroRange_agenda (s : State) (l : Loc) (n : Nat) : (s.zeroRange l n).agenda = s.agenda := rfl
@[simp] theorem State.zeroRange_steps (s : State) (l : Loc) (n : Nat) : (s.zeroRange l n).steps = s.steps := rfl

/-! ### Writing L1 copies back -/

@[simp] theorem State.cleanL1_threads (s : State) (p : L1Line → Bool) : (s.cleanL1 p).threads = s.threads := rfl
@[simp] theorem State.cleanL1_ended (s : State) (p : L1Line → Bool) : (s.cleanL1 p).ended = s.ended := rfl
@[simp] theorem State.cleanL1_cur (s : State) (p : L1Line → Bool) : (s.cleanL1 p).cur = s.cur := rfl
@[simp] theorem State.cleanL1_mem (s : State) (p : L1Line → Bool) : (s.cleanL1 p).mem = s.mem := rfl
@[simp] theorem State.cleanL1_full (s : State) (p : L1Line → Bool) : (s.cleanL1 p).full = s.full := rfl
@[simp] theorem State.cleanL1_tags (s : State) (p : L1Line → Bool) : (s.cleanL1 p).tags = s.tags := rfl
@[simp] theorem State.cleanL1_quarantine (s : State) (p : L1Line → Bool) : (s.cleanL1 p).quarantine = s.quarantine := rfl
@[simp] theorem State.cleanL1_frames (s : State) (p : L1Line → Bool) : (s.cleanL1 p).frames = s.frames := rfl
@[simp] theorem State.cleanL1_ownership (s : State) (p : L1Line → Bool) : (s.cleanL1 p).ownership = s.ownership := rfl
@[simp] theorem State.cleanL1_accords (s : State) (p : L1Line → Bool) : (s.cleanL1 p).accords = s.accords := rfl
@[simp] theorem State.cleanL1_tiles (s : State) (p : L1Line → Bool) : (s.cleanL1 p).tiles = s.tiles := rfl
@[simp] theorem State.cleanL1_tileGen (s : State) (p : L1Line → Bool) : (s.cleanL1 p).tileGen = s.tileGen := rfl
@[simp] theorem State.cleanL1_claims (s : State) (p : L1Line → Bool) : (s.cleanL1 p).claims = s.claims := rfl
@[simp] theorem State.cleanL1_claimSeq (s : State) (p : L1Line → Bool) : (s.cleanL1 p).claimSeq = s.claimSeq := rfl
@[simp] theorem State.cleanL1_deferClaims (s : State) (p : L1Line → Bool) : (s.cleanL1 p).deferClaims = s.deferClaims := rfl
@[simp] theorem State.cleanL1_acc (s : State) (p : L1Line → Bool) : (s.cleanL1 p).acc = s.acc := rfl
@[simp] theorem State.cleanL1_accOwner (s : State) (p : L1Line → Bool) : (s.cleanL1 p).accOwner = s.accOwner := rfl
@[simp] theorem State.cleanL1_accSaved (s : State) (p : L1Line → Bool) : (s.cleanL1 p).accSaved = s.accSaved := rfl
@[simp] theorem State.cleanL1_accPoison (s : State) (p : L1Line → Bool) : (s.cleanL1 p).accPoison = s.accPoison := rfl
@[simp] theorem State.cleanL1_macqWait (s : State) (p : L1Line → Bool) : (s.cleanL1 p).macqWait = s.macqWait := rfl
@[simp] theorem State.cleanL1_matq (s : State) (p : L1Line → Bool) : (s.cleanL1 p).matq = s.matq := rfl
@[simp] theorem State.cleanL1_cyc (s : State) (p : L1Line → Bool) : (s.cleanL1 p).cyc = s.cyc := rfl
@[simp] theorem State.cleanL1_uncore (s : State) (p : L1Line → Bool) : (s.cleanL1 p).uncore = s.uncore := rfl
@[simp] theorem State.cleanL1_mhz (s : State) (p : L1Line → Bool) : (s.cleanL1 p).mhz = s.mhz := rfl
@[simp] theorem State.cleanL1_mgmt (s : State) (p : L1Line → Bool) : (s.cleanL1 p).mgmt = s.mgmt := rfl
@[simp] theorem State.cleanL1_commands (s : State) (p : L1Line → Bool) : (s.cleanL1 p).commands = s.commands := rfl
@[simp] theorem State.cleanL1_tokens (s : State) (p : L1Line → Bool) : (s.cleanL1 p).tokens = s.tokens := rfl
@[simp] theorem State.cleanL1_fetches (s : State) (p : L1Line → Bool) : (s.cleanL1 p).fetches = s.fetches := rfl
@[simp] theorem State.cleanL1_requests (s : State) (p : L1Line → Bool) : (s.cleanL1 p).requests = s.requests := rfl
@[simp] theorem State.cleanL1_evicting (s : State) (p : L1Line → Bool) : (s.cleanL1 p).evicting = s.evicting := rfl
@[simp] theorem State.cleanL1_tasks (s : State) (p : L1Line → Bool) : (s.cleanL1 p).tasks = s.tasks := rfl
@[simp] theorem State.cleanL1_gangs (s : State) (p : L1Line → Bool) : (s.cleanL1 p).gangs = s.gangs := rfl
@[simp] theorem State.cleanL1_gangCount (s : State) (p : L1Line → Bool) : (s.cleanL1 p).gangCount = s.gangCount := rfl
@[simp] theorem State.cleanL1_launched (s : State) (p : L1Line → Bool) : (s.cleanL1 p).launched = s.launched := rfl
@[simp] theorem State.cleanL1_slotGen (s : State) (p : L1Line → Bool) : (s.cleanL1 p).slotGen = s.slotGen := rfl
@[simp] theorem State.cleanL1_rounds (s : State) (p : L1Line → Bool) : (s.cleanL1 p).rounds = s.rounds := rfl
@[simp] theorem State.cleanL1_deficit (s : State) (p : L1Line → Bool) : (s.cleanL1 p).deficit = s.deficit := rfl
@[simp] theorem State.cleanL1_lastQueue (s : State) (p : L1Line → Bool) : (s.cleanL1 p).lastQueue = s.lastQueue := rfl
@[simp] theorem State.cleanL1_launchAtp (s : State) (p : L1Line → Bool) : (s.cleanL1 p).launchAtp = s.launchAtp := rfl
@[simp] theorem State.cleanL1_debuggers (s : State) (p : L1Line → Bool) : (s.cleanL1 p).debuggers = s.debuggers := rfl
@[simp] theorem State.cleanL1_removing (s : State) (p : L1Line → Bool) : (s.cleanL1 p).removing = s.removing := rfl
@[simp] theorem State.cleanL1_msix (s : State) (p : L1Line → Bool) : (s.cleanL1 p).msix = s.msix := rfl
@[simp] theorem State.cleanL1_msixTable (s : State) (p : L1Line → Bool) : (s.cleanL1 p).msixTable = s.msixTable := rfl
@[simp] theorem State.cleanL1_l1 (s : State) (p : L1Line → Bool) : (s.cleanL1 p).l1 = s.l1.map fun c => if p c then { c with modified := false } else c := rfl
@[simp] theorem State.cleanL1_l2 (s : State) (p : L1Line → Bool) : (s.cleanL1 p).l2 = s.l2 := rfl
@[simp] theorem State.cleanL1_hostCopies (s : State) (p : L1Line → Bool) : (s.cleanL1 p).hostCopies = s.hostCopies := rfl
@[simp] theorem State.cleanL1_packets (s : State) (p : L1Line → Bool) : (s.cleanL1 p).packets = s.packets := rfl
@[simp] theorem State.cleanL1_replies (s : State) (p : L1Line → Bool) : (s.cleanL1 p).replies = s.replies := rfl
@[simp] theorem State.cleanL1_inflight (s : State) (p : L1Line → Bool) : (s.cleanL1 p).inflight = s.inflight := rfl
@[simp] theorem State.cleanL1_portBuffer (s : State) (p : L1Line → Bool) : (s.cleanL1 p).portBuffer = s.portBuffer := rfl
@[simp] theorem State.cleanL1_hbmDeficit (s : State) (p : L1Line → Bool) : (s.cleanL1 p).hbmDeficit = s.hbmDeficit := rfl
@[simp] theorem State.cleanL1_hbmTurn (s : State) (p : L1Line → Bool) : (s.cleanL1 p).hbmTurn = s.hbmTurn := rfl
@[simp] theorem State.cleanL1_fetchCopies (s : State) (p : L1Line → Bool) : (s.cleanL1 p).fetchCopies = s.fetchCopies := rfl
@[simp] theorem State.cleanL1_leaves (s : State) (p : L1Line → Bool) : (s.cleanL1 p).leaves = s.leaves := rfl
@[simp] theorem State.cleanL1_owed (s : State) (p : L1Line → Bool) : (s.cleanL1 p).owed = s.owed := rfl
@[simp] theorem State.cleanL1_refreshDue (s : State) (p : L1Line → Bool) : (s.cleanL1 p).refreshDue = s.refreshDue := rfl
@[simp] theorem State.cleanL1_rowLists (s : State) (p : L1Line → Bool) : (s.cleanL1 p).rowLists = s.rowLists := rfl
@[simp] theorem State.cleanL1_hostBinned (s : State) (p : L1Line → Bool) : (s.cleanL1 p).hostBinned = s.hostBinned := rfl
@[simp] theorem State.cleanL1_f32 (s : State) (p : L1Line → Bool) : (s.cleanL1 p).f32 = s.f32 := rfl
@[simp] theorem State.cleanL1_f64 (s : State) (p : L1Line → Bool) : (s.cleanL1 p).f64 = s.f64 := rfl
@[simp] theorem State.cleanL1_hot (s : State) (p : L1Line → Bool) : (s.cleanL1 p).hot = s.hot := rfl
@[simp] theorem State.cleanL1_selfRefresh (s : State) (p : L1Line → Bool) : (s.cleanL1 p).selfRefresh = s.selfRefresh := rfl
@[simp] theorem State.cleanL1_softErrors (s : State) (p : L1Line → Bool) : (s.cleanL1 p).softErrors = s.softErrors := rfl
@[simp] theorem State.cleanL1_corrected (s : State) (p : L1Line → Bool) : (s.cleanL1 p).corrected = s.corrected := rfl
@[simp] theorem State.cleanL1_boots (s : State) (p : L1Line → Bool) : (s.cleanL1 p).boots = s.boots := rfl
@[simp] theorem State.cleanL1_bringUp (s : State) (p : L1Line → Bool) : (s.cleanL1 p).bringUp = s.bringUp := rfl
@[simp] theorem State.cleanL1_firmware (s : State) (p : L1Line → Bool) : (s.cleanL1 p).firmware = s.firmware := rfl
@[simp] theorem State.cleanL1_firmwareOk (s : State) (p : L1Line → Bool) : (s.cleanL1 p).firmwareOk = s.firmwareOk := rfl
@[simp] theorem State.cleanL1_failedDies (s : State) (p : L1Line → Bool) : (s.cleanL1 p).failedDies = s.failedDies := rfl
@[simp] theorem State.cleanL1_stoppedDies (s : State) (p : L1Line → Bool) : (s.cleanL1 p).stoppedDies = s.stoppedDies := rfl
@[simp] theorem State.cleanL1_lostLines (s : State) (p : L1Line → Bool) : (s.cleanL1 p).lostLines = s.lostLines := rfl
@[simp] theorem State.cleanL1_linkCount (s : State) (p : L1Line → Bool) : (s.cleanL1 p).linkCount = s.linkCount := rfl
@[simp] theorem State.cleanL1_downPaths (s : State) (p : L1Line → Bool) : (s.cleanL1 p).downPaths = s.downPaths := rfl
@[simp] theorem State.cleanL1_hostPaths (s : State) (p : L1Line → Bool) : (s.cleanL1 p).hostPaths = s.hostPaths := rfl
@[simp] theorem State.cleanL1_deadPaths (s : State) (p : L1Line → Bool) : (s.cleanL1 p).deadPaths = s.deadPaths := rfl
@[simp] theorem State.cleanL1_sendSeq (s : State) (p : L1Line → Bool) : (s.cleanL1 p).sendSeq = s.sendSeq := rfl
@[simp] theorem State.cleanL1_unacked (s : State) (p : L1Line → Bool) : (s.cleanL1 p).unacked = s.unacked := rfl
@[simp] theorem State.cleanL1_received (s : State) (p : L1Line → Bool) : (s.cleanL1 p).received = s.received := rfl
@[simp] theorem State.cleanL1_records (s : State) (p : L1Line → Bool) : (s.cleanL1 p).records = s.records := rfl
@[simp] theorem State.cleanL1_reports (s : State) (p : L1Line → Bool) : (s.cleanL1 p).reports = s.reports := rfl
@[simp] theorem State.cleanL1_attested (s : State) (p : L1Line → Bool) : (s.cleanL1 p).attested = s.attested := rfl
@[simp] theorem State.cleanL1_fetchBad (s : State) (p : L1Line → Bool) : (s.cleanL1 p).fetchBad = s.fetchBad := rfl
@[simp] theorem State.cleanL1_deferAccords (s : State) (p : L1Line → Bool) : (s.cleanL1 p).deferAccords = s.deferAccords := rfl
@[simp] theorem State.cleanL1_deferReplies (s : State) (p : L1Line → Bool) : (s.cleanL1 p).deferReplies = s.deferReplies := rfl
@[simp] theorem State.cleanL1_accordSeq (s : State) (p : L1Line → Bool) : (s.cleanL1 p).accordSeq = s.accordSeq := rfl
@[simp] theorem State.cleanL1_agenda (s : State) (p : L1Line → Bool) : (s.cleanL1 p).agenda = s.agenda := rfl
@[simp] theorem State.cleanL1_steps (s : State) (p : L1Line → Bool) : (s.cleanL1 p).steps = s.steps := rfl

/-! ### Writing L1 copies back and dropping them -/

@[simp] theorem State.discardL1_threads (s : State) (p : L1Line → Bool) : (s.discardL1 p).threads = s.threads := rfl
@[simp] theorem State.discardL1_ended (s : State) (p : L1Line → Bool) : (s.discardL1 p).ended = s.ended := rfl
@[simp] theorem State.discardL1_cur (s : State) (p : L1Line → Bool) : (s.discardL1 p).cur = s.cur := rfl
@[simp] theorem State.discardL1_mem (s : State) (p : L1Line → Bool) : (s.discardL1 p).mem = s.mem := rfl
@[simp] theorem State.discardL1_full (s : State) (p : L1Line → Bool) : (s.discardL1 p).full = s.full := rfl
@[simp] theorem State.discardL1_tags (s : State) (p : L1Line → Bool) : (s.discardL1 p).tags = s.tags := rfl
@[simp] theorem State.discardL1_quarantine (s : State) (p : L1Line → Bool) : (s.discardL1 p).quarantine = s.quarantine := rfl
@[simp] theorem State.discardL1_frames (s : State) (p : L1Line → Bool) : (s.discardL1 p).frames = s.frames := rfl
@[simp] theorem State.discardL1_ownership (s : State) (p : L1Line → Bool) : (s.discardL1 p).ownership = s.ownership := rfl
@[simp] theorem State.discardL1_accords (s : State) (p : L1Line → Bool) : (s.discardL1 p).accords = s.accords := rfl
@[simp] theorem State.discardL1_tiles (s : State) (p : L1Line → Bool) : (s.discardL1 p).tiles = s.tiles := rfl
@[simp] theorem State.discardL1_tileGen (s : State) (p : L1Line → Bool) : (s.discardL1 p).tileGen = s.tileGen := rfl
@[simp] theorem State.discardL1_claims (s : State) (p : L1Line → Bool) : (s.discardL1 p).claims = s.claims := rfl
@[simp] theorem State.discardL1_claimSeq (s : State) (p : L1Line → Bool) : (s.discardL1 p).claimSeq = s.claimSeq := rfl
@[simp] theorem State.discardL1_deferClaims (s : State) (p : L1Line → Bool) : (s.discardL1 p).deferClaims = s.deferClaims := rfl
@[simp] theorem State.discardL1_acc (s : State) (p : L1Line → Bool) : (s.discardL1 p).acc = s.acc := rfl
@[simp] theorem State.discardL1_accOwner (s : State) (p : L1Line → Bool) : (s.discardL1 p).accOwner = s.accOwner := rfl
@[simp] theorem State.discardL1_accSaved (s : State) (p : L1Line → Bool) : (s.discardL1 p).accSaved = s.accSaved := rfl
@[simp] theorem State.discardL1_accPoison (s : State) (p : L1Line → Bool) : (s.discardL1 p).accPoison = s.accPoison := rfl
@[simp] theorem State.discardL1_macqWait (s : State) (p : L1Line → Bool) : (s.discardL1 p).macqWait = s.macqWait := rfl
@[simp] theorem State.discardL1_matq (s : State) (p : L1Line → Bool) : (s.discardL1 p).matq = s.matq := rfl
@[simp] theorem State.discardL1_cyc (s : State) (p : L1Line → Bool) : (s.discardL1 p).cyc = s.cyc := rfl
@[simp] theorem State.discardL1_uncore (s : State) (p : L1Line → Bool) : (s.discardL1 p).uncore = s.uncore := rfl
@[simp] theorem State.discardL1_mhz (s : State) (p : L1Line → Bool) : (s.discardL1 p).mhz = s.mhz := rfl
@[simp] theorem State.discardL1_mgmt (s : State) (p : L1Line → Bool) : (s.discardL1 p).mgmt = s.mgmt := rfl
@[simp] theorem State.discardL1_commands (s : State) (p : L1Line → Bool) : (s.discardL1 p).commands = s.commands := rfl
@[simp] theorem State.discardL1_tokens (s : State) (p : L1Line → Bool) : (s.discardL1 p).tokens = s.tokens := rfl
@[simp] theorem State.discardL1_fetches (s : State) (p : L1Line → Bool) : (s.discardL1 p).fetches = s.fetches := rfl
@[simp] theorem State.discardL1_requests (s : State) (p : L1Line → Bool) : (s.discardL1 p).requests = s.requests := rfl
@[simp] theorem State.discardL1_evicting (s : State) (p : L1Line → Bool) : (s.discardL1 p).evicting = s.evicting := rfl
@[simp] theorem State.discardL1_tasks (s : State) (p : L1Line → Bool) : (s.discardL1 p).tasks = s.tasks := rfl
@[simp] theorem State.discardL1_gangs (s : State) (p : L1Line → Bool) : (s.discardL1 p).gangs = s.gangs := rfl
@[simp] theorem State.discardL1_gangCount (s : State) (p : L1Line → Bool) : (s.discardL1 p).gangCount = s.gangCount := rfl
@[simp] theorem State.discardL1_launched (s : State) (p : L1Line → Bool) : (s.discardL1 p).launched = s.launched := rfl
@[simp] theorem State.discardL1_slotGen (s : State) (p : L1Line → Bool) : (s.discardL1 p).slotGen = s.slotGen := rfl
@[simp] theorem State.discardL1_rounds (s : State) (p : L1Line → Bool) : (s.discardL1 p).rounds = s.rounds := rfl
@[simp] theorem State.discardL1_deficit (s : State) (p : L1Line → Bool) : (s.discardL1 p).deficit = s.deficit := rfl
@[simp] theorem State.discardL1_lastQueue (s : State) (p : L1Line → Bool) : (s.discardL1 p).lastQueue = s.lastQueue := rfl
@[simp] theorem State.discardL1_launchAtp (s : State) (p : L1Line → Bool) : (s.discardL1 p).launchAtp = s.launchAtp := rfl
@[simp] theorem State.discardL1_debuggers (s : State) (p : L1Line → Bool) : (s.discardL1 p).debuggers = s.debuggers := rfl
@[simp] theorem State.discardL1_removing (s : State) (p : L1Line → Bool) : (s.discardL1 p).removing = s.removing := rfl
@[simp] theorem State.discardL1_msix (s : State) (p : L1Line → Bool) : (s.discardL1 p).msix = s.msix := rfl
@[simp] theorem State.discardL1_msixTable (s : State) (p : L1Line → Bool) : (s.discardL1 p).msixTable = s.msixTable := rfl
@[simp] theorem State.discardL1_l1 (s : State) (p : L1Line → Bool) : (s.discardL1 p).l1 = s.l1.filter fun c => !p c := rfl
@[simp] theorem State.discardL1_l2 (s : State) (p : L1Line → Bool) : (s.discardL1 p).l2 = s.l2 := rfl
@[simp] theorem State.discardL1_hostCopies (s : State) (p : L1Line → Bool) : (s.discardL1 p).hostCopies = s.hostCopies := rfl
@[simp] theorem State.discardL1_packets (s : State) (p : L1Line → Bool) : (s.discardL1 p).packets = s.packets := rfl
@[simp] theorem State.discardL1_replies (s : State) (p : L1Line → Bool) : (s.discardL1 p).replies = s.replies := rfl
@[simp] theorem State.discardL1_inflight (s : State) (p : L1Line → Bool) : (s.discardL1 p).inflight = s.inflight := rfl
@[simp] theorem State.discardL1_portBuffer (s : State) (p : L1Line → Bool) : (s.discardL1 p).portBuffer = s.portBuffer := rfl
@[simp] theorem State.discardL1_hbmDeficit (s : State) (p : L1Line → Bool) : (s.discardL1 p).hbmDeficit = s.hbmDeficit := rfl
@[simp] theorem State.discardL1_hbmTurn (s : State) (p : L1Line → Bool) : (s.discardL1 p).hbmTurn = s.hbmTurn := rfl
@[simp] theorem State.discardL1_fetchCopies (s : State) (p : L1Line → Bool) : (s.discardL1 p).fetchCopies = s.fetchCopies := rfl
@[simp] theorem State.discardL1_leaves (s : State) (p : L1Line → Bool) : (s.discardL1 p).leaves = s.leaves := rfl
@[simp] theorem State.discardL1_owed (s : State) (p : L1Line → Bool) : (s.discardL1 p).owed = s.owed := rfl
@[simp] theorem State.discardL1_refreshDue (s : State) (p : L1Line → Bool) : (s.discardL1 p).refreshDue = s.refreshDue := rfl
@[simp] theorem State.discardL1_rowLists (s : State) (p : L1Line → Bool) : (s.discardL1 p).rowLists = s.rowLists := rfl
@[simp] theorem State.discardL1_hostBinned (s : State) (p : L1Line → Bool) : (s.discardL1 p).hostBinned = s.hostBinned := rfl
@[simp] theorem State.discardL1_f32 (s : State) (p : L1Line → Bool) : (s.discardL1 p).f32 = s.f32 := rfl
@[simp] theorem State.discardL1_f64 (s : State) (p : L1Line → Bool) : (s.discardL1 p).f64 = s.f64 := rfl
@[simp] theorem State.discardL1_hot (s : State) (p : L1Line → Bool) : (s.discardL1 p).hot = s.hot := rfl
@[simp] theorem State.discardL1_selfRefresh (s : State) (p : L1Line → Bool) : (s.discardL1 p).selfRefresh = s.selfRefresh := rfl
@[simp] theorem State.discardL1_softErrors (s : State) (p : L1Line → Bool) : (s.discardL1 p).softErrors = s.softErrors := rfl
@[simp] theorem State.discardL1_corrected (s : State) (p : L1Line → Bool) : (s.discardL1 p).corrected = s.corrected := rfl
@[simp] theorem State.discardL1_boots (s : State) (p : L1Line → Bool) : (s.discardL1 p).boots = s.boots := rfl
@[simp] theorem State.discardL1_bringUp (s : State) (p : L1Line → Bool) : (s.discardL1 p).bringUp = s.bringUp := rfl
@[simp] theorem State.discardL1_firmware (s : State) (p : L1Line → Bool) : (s.discardL1 p).firmware = s.firmware := rfl
@[simp] theorem State.discardL1_firmwareOk (s : State) (p : L1Line → Bool) : (s.discardL1 p).firmwareOk = s.firmwareOk := rfl
@[simp] theorem State.discardL1_failedDies (s : State) (p : L1Line → Bool) : (s.discardL1 p).failedDies = s.failedDies := rfl
@[simp] theorem State.discardL1_stoppedDies (s : State) (p : L1Line → Bool) : (s.discardL1 p).stoppedDies = s.stoppedDies := rfl
@[simp] theorem State.discardL1_lostLines (s : State) (p : L1Line → Bool) : (s.discardL1 p).lostLines = s.lostLines := rfl
@[simp] theorem State.discardL1_linkCount (s : State) (p : L1Line → Bool) : (s.discardL1 p).linkCount = s.linkCount := rfl
@[simp] theorem State.discardL1_downPaths (s : State) (p : L1Line → Bool) : (s.discardL1 p).downPaths = s.downPaths := rfl
@[simp] theorem State.discardL1_hostPaths (s : State) (p : L1Line → Bool) : (s.discardL1 p).hostPaths = s.hostPaths := rfl
@[simp] theorem State.discardL1_deadPaths (s : State) (p : L1Line → Bool) : (s.discardL1 p).deadPaths = s.deadPaths := rfl
@[simp] theorem State.discardL1_sendSeq (s : State) (p : L1Line → Bool) : (s.discardL1 p).sendSeq = s.sendSeq := rfl
@[simp] theorem State.discardL1_unacked (s : State) (p : L1Line → Bool) : (s.discardL1 p).unacked = s.unacked := rfl
@[simp] theorem State.discardL1_received (s : State) (p : L1Line → Bool) : (s.discardL1 p).received = s.received := rfl
@[simp] theorem State.discardL1_records (s : State) (p : L1Line → Bool) : (s.discardL1 p).records = s.records := rfl
@[simp] theorem State.discardL1_reports (s : State) (p : L1Line → Bool) : (s.discardL1 p).reports = s.reports := rfl
@[simp] theorem State.discardL1_attested (s : State) (p : L1Line → Bool) : (s.discardL1 p).attested = s.attested := rfl
@[simp] theorem State.discardL1_fetchBad (s : State) (p : L1Line → Bool) : (s.discardL1 p).fetchBad = s.fetchBad := rfl
@[simp] theorem State.discardL1_deferAccords (s : State) (p : L1Line → Bool) : (s.discardL1 p).deferAccords = s.deferAccords := rfl
@[simp] theorem State.discardL1_deferReplies (s : State) (p : L1Line → Bool) : (s.discardL1 p).deferReplies = s.deferReplies := rfl
@[simp] theorem State.discardL1_accordSeq (s : State) (p : L1Line → Bool) : (s.discardL1 p).accordSeq = s.accordSeq := rfl
@[simp] theorem State.discardL1_agenda (s : State) (p : L1Line → Bool) : (s.discardL1 p).agenda = s.agenda := rfl
@[simp] theorem State.discardL1_steps (s : State) (p : L1Line → Bool) : (s.discardL1 p).steps = s.steps := rfl

/-! ### Interrupting a run -/

@[simp] theorem State.interrupt_threads (s : State) (t : Thread) : (s.interrupt t).threads = s.threads.map fun x => if x.tid = t.tid then t.interrupted else x := rfl
@[simp] theorem State.interrupt_ended (s : State) (t : Thread) : (s.interrupt t).ended = s.ended := rfl
@[simp] theorem State.interrupt_cur (s : State) (t : Thread) : (s.interrupt t).cur = s.cur := rfl
@[simp] theorem State.interrupt_mem (s : State) (t : Thread) : (s.interrupt t).mem = s.mem := rfl
@[simp] theorem State.interrupt_poison (s : State) (t : Thread) : (s.interrupt t).poison = s.poison := rfl
@[simp] theorem State.interrupt_tags (s : State) (t : Thread) : (s.interrupt t).tags = s.tags := rfl
@[simp] theorem State.interrupt_quarantine (s : State) (t : Thread) : (s.interrupt t).quarantine = s.quarantine := rfl
@[simp] theorem State.interrupt_frames (s : State) (t : Thread) : (s.interrupt t).frames = s.frames := rfl
@[simp] theorem State.interrupt_ownership (s : State) (t : Thread) : (s.interrupt t).ownership = s.ownership := rfl
@[simp] theorem State.interrupt_accords (s : State) (t : Thread) : (s.interrupt t).accords = s.accords := rfl
@[simp] theorem State.interrupt_tiles (s : State) (t : Thread) : (s.interrupt t).tiles = s.tiles := rfl
@[simp] theorem State.interrupt_tileGen (s : State) (t : Thread) : (s.interrupt t).tileGen = s.tileGen := rfl
@[simp] theorem State.interrupt_claims (s : State) (t : Thread) : (s.interrupt t).claims = s.claims := rfl
@[simp] theorem State.interrupt_claimSeq (s : State) (t : Thread) : (s.interrupt t).claimSeq = s.claimSeq := rfl
@[simp] theorem State.interrupt_deferClaims (s : State) (t : Thread) : (s.interrupt t).deferClaims = s.deferClaims := rfl
@[simp] theorem State.interrupt_acc (s : State) (t : Thread) : (s.interrupt t).acc = s.acc := rfl
@[simp] theorem State.interrupt_accOwner (s : State) (t : Thread) : (s.interrupt t).accOwner = s.accOwner := rfl
@[simp] theorem State.interrupt_accSaved (s : State) (t : Thread) : (s.interrupt t).accSaved = s.accSaved := rfl
@[simp] theorem State.interrupt_accPoison (s : State) (t : Thread) : (s.interrupt t).accPoison = s.accPoison := rfl
@[simp] theorem State.interrupt_macqWait (s : State) (t : Thread) : (s.interrupt t).macqWait = s.macqWait := rfl
@[simp] theorem State.interrupt_matq (s : State) (t : Thread) : (s.interrupt t).matq = s.matq := rfl
@[simp] theorem State.interrupt_cyc (s : State) (t : Thread) : (s.interrupt t).cyc = s.cyc := rfl
@[simp] theorem State.interrupt_uncore (s : State) (t : Thread) : (s.interrupt t).uncore = s.uncore := rfl
@[simp] theorem State.interrupt_mhz (s : State) (t : Thread) : (s.interrupt t).mhz = s.mhz := rfl
@[simp] theorem State.interrupt_mgmt (s : State) (t : Thread) : (s.interrupt t).mgmt = s.mgmt := rfl
@[simp] theorem State.interrupt_commands (s : State) (t : Thread) : (s.interrupt t).commands = s.commands := rfl
@[simp] theorem State.interrupt_tokens (s : State) (t : Thread) : (s.interrupt t).tokens = s.tokens := rfl
@[simp] theorem State.interrupt_fetches (s : State) (t : Thread) : (s.interrupt t).fetches = s.fetches := rfl
@[simp] theorem State.interrupt_requests (s : State) (t : Thread) : (s.interrupt t).requests = s.requests := rfl
@[simp] theorem State.interrupt_evicting (s : State) (t : Thread) : (s.interrupt t).evicting = s.evicting := rfl
@[simp] theorem State.interrupt_tasks (s : State) (t : Thread) : (s.interrupt t).tasks = s.tasks := rfl
@[simp] theorem State.interrupt_gangs (s : State) (t : Thread) : (s.interrupt t).gangs = s.gangs := rfl
@[simp] theorem State.interrupt_gangCount (s : State) (t : Thread) : (s.interrupt t).gangCount = s.gangCount := rfl
@[simp] theorem State.interrupt_launched (s : State) (t : Thread) : (s.interrupt t).launched = s.launched := rfl
@[simp] theorem State.interrupt_slotGen (s : State) (t : Thread) : (s.interrupt t).slotGen = s.slotGen := rfl
@[simp] theorem State.interrupt_rounds (s : State) (t : Thread) : (s.interrupt t).rounds = s.rounds := rfl
@[simp] theorem State.interrupt_deficit (s : State) (t : Thread) : (s.interrupt t).deficit = s.deficit := rfl
@[simp] theorem State.interrupt_lastQueue (s : State) (t : Thread) : (s.interrupt t).lastQueue = s.lastQueue := rfl
@[simp] theorem State.interrupt_launchAtp (s : State) (t : Thread) : (s.interrupt t).launchAtp = s.launchAtp := rfl
@[simp] theorem State.interrupt_debuggers (s : State) (t : Thread) : (s.interrupt t).debuggers = s.debuggers := rfl
@[simp] theorem State.interrupt_removing (s : State) (t : Thread) : (s.interrupt t).removing = s.removing := rfl
@[simp] theorem State.interrupt_msix (s : State) (t : Thread) : (s.interrupt t).msix = s.msix := rfl
@[simp] theorem State.interrupt_msixTable (s : State) (t : Thread) : (s.interrupt t).msixTable = s.msixTable := rfl
@[simp] theorem State.interrupt_l1 (s : State) (t : Thread) : (s.interrupt t).l1 = s.l1 := rfl
@[simp] theorem State.interrupt_l2 (s : State) (t : Thread) : (s.interrupt t).l2 = s.l2 := rfl
@[simp] theorem State.interrupt_hostCopies (s : State) (t : Thread) : (s.interrupt t).hostCopies = s.hostCopies := rfl
@[simp] theorem State.interrupt_packets (s : State) (t : Thread) : (s.interrupt t).packets = s.packets := rfl
@[simp] theorem State.interrupt_replies (s : State) (t : Thread) : (s.interrupt t).replies = s.replies := rfl
@[simp] theorem State.interrupt_inflight (s : State) (t : Thread) : (s.interrupt t).inflight = s.inflight := rfl
@[simp] theorem State.interrupt_portBuffer (s : State) (t : Thread) : (s.interrupt t).portBuffer = s.portBuffer := rfl
@[simp] theorem State.interrupt_hbmDeficit (s : State) (t : Thread) : (s.interrupt t).hbmDeficit = s.hbmDeficit := rfl
@[simp] theorem State.interrupt_hbmTurn (s : State) (t : Thread) : (s.interrupt t).hbmTurn = s.hbmTurn := rfl
@[simp] theorem State.interrupt_fetchCopies (s : State) (t : Thread) : (s.interrupt t).fetchCopies = s.fetchCopies := rfl
@[simp] theorem State.interrupt_leaves (s : State) (t : Thread) : (s.interrupt t).leaves = s.leaves := rfl
@[simp] theorem State.interrupt_owed (s : State) (t : Thread) : (s.interrupt t).owed = s.owed := rfl
@[simp] theorem State.interrupt_refreshDue (s : State) (t : Thread) : (s.interrupt t).refreshDue = s.refreshDue := rfl
@[simp] theorem State.interrupt_rowLists (s : State) (t : Thread) : (s.interrupt t).rowLists = s.rowLists := rfl
@[simp] theorem State.interrupt_hostBinned (s : State) (t : Thread) : (s.interrupt t).hostBinned = s.hostBinned := rfl
@[simp] theorem State.interrupt_f32 (s : State) (t : Thread) : (s.interrupt t).f32 = s.f32 := rfl
@[simp] theorem State.interrupt_f64 (s : State) (t : Thread) : (s.interrupt t).f64 = s.f64 := rfl
@[simp] theorem State.interrupt_hot (s : State) (t : Thread) : (s.interrupt t).hot = s.hot := rfl
@[simp] theorem State.interrupt_selfRefresh (s : State) (t : Thread) : (s.interrupt t).selfRefresh = s.selfRefresh := rfl
@[simp] theorem State.interrupt_softErrors (s : State) (t : Thread) : (s.interrupt t).softErrors = s.softErrors := rfl
@[simp] theorem State.interrupt_corrected (s : State) (t : Thread) : (s.interrupt t).corrected = s.corrected := rfl
@[simp] theorem State.interrupt_boots (s : State) (t : Thread) : (s.interrupt t).boots = s.boots := rfl
@[simp] theorem State.interrupt_bringUp (s : State) (t : Thread) : (s.interrupt t).bringUp = s.bringUp := rfl
@[simp] theorem State.interrupt_firmware (s : State) (t : Thread) : (s.interrupt t).firmware = s.firmware := rfl
@[simp] theorem State.interrupt_firmwareOk (s : State) (t : Thread) : (s.interrupt t).firmwareOk = s.firmwareOk := rfl
@[simp] theorem State.interrupt_failedDies (s : State) (t : Thread) : (s.interrupt t).failedDies = s.failedDies := rfl
@[simp] theorem State.interrupt_stoppedDies (s : State) (t : Thread) : (s.interrupt t).stoppedDies = s.stoppedDies := rfl
@[simp] theorem State.interrupt_lostLines (s : State) (t : Thread) : (s.interrupt t).lostLines = s.lostLines := rfl
@[simp] theorem State.interrupt_linkCount (s : State) (t : Thread) : (s.interrupt t).linkCount = s.linkCount := rfl
@[simp] theorem State.interrupt_downPaths (s : State) (t : Thread) : (s.interrupt t).downPaths = s.downPaths := rfl
@[simp] theorem State.interrupt_hostPaths (s : State) (t : Thread) : (s.interrupt t).hostPaths = s.hostPaths := rfl
@[simp] theorem State.interrupt_deadPaths (s : State) (t : Thread) : (s.interrupt t).deadPaths = s.deadPaths := rfl
@[simp] theorem State.interrupt_sendSeq (s : State) (t : Thread) : (s.interrupt t).sendSeq = s.sendSeq := rfl
@[simp] theorem State.interrupt_unacked (s : State) (t : Thread) : (s.interrupt t).unacked = s.unacked := rfl
@[simp] theorem State.interrupt_received (s : State) (t : Thread) : (s.interrupt t).received = s.received := rfl
@[simp] theorem State.interrupt_records (s : State) (t : Thread) : (s.interrupt t).records = s.records := rfl
@[simp] theorem State.interrupt_reports (s : State) (t : Thread) : (s.interrupt t).reports = s.reports := rfl
@[simp] theorem State.interrupt_attested (s : State) (t : Thread) : (s.interrupt t).attested = s.attested := rfl
@[simp] theorem State.interrupt_fetchBad (s : State) (t : Thread) : (s.interrupt t).fetchBad = s.fetchBad := rfl
@[simp] theorem State.interrupt_deferAccords (s : State) (t : Thread) : (s.interrupt t).deferAccords = s.deferAccords := rfl
@[simp] theorem State.interrupt_deferReplies (s : State) (t : Thread) : (s.interrupt t).deferReplies = s.deferReplies := rfl
@[simp] theorem State.interrupt_accordSeq (s : State) (t : Thread) : (s.interrupt t).accordSeq = s.accordSeq := rfl
@[simp] theorem State.interrupt_agenda (s : State) (t : Thread) : (s.interrupt t).agenda = s.agenda := rfl
@[simp] theorem State.interrupt_steps (s : State) (t : Thread) : (s.interrupt t).steps = s.steps := rfl

/-! ### Passing an instruction -/

@[simp] theorem Thread.advance_tid (t : Thread) (n : Nat) : (t.advance n).tid = t.tid := rfl
@[simp] theorem Thread.advance_crewIndex (t : Thread) (n : Nat) : (t.advance n).crewIndex = t.crewIndex := rfl
@[simp] theorem Thread.advance_sizeM1 (t : Thread) (n : Nat) : (t.advance n).sizeM1 = t.sizeM1 := rfl
@[simp] theorem Thread.advance_member (t : Thread) (n : Nat) : (t.advance n).member = t.member := rfl
@[simp] theorem Thread.advance_gang (t : Thread) (n : Nat) : (t.advance n).gang = t.gang := rfl
@[simp] theorem Thread.advance_tgpos (t : Thread) (n : Nat) : (t.advance n).tgpos = t.tgpos := rfl
@[simp] theorem Thread.advance_tileg (t : Thread) (n : Nat) : (t.advance n).tileg = t.tileg := rfl
@[simp] theorem Thread.advance_ncrewM1 (t : Thread) (n : Nat) : (t.advance n).ncrewM1 = t.ncrewM1 := rfl
@[simp] theorem Thread.advance_taskSeq (t : Thread) (n : Nat) : (t.advance n).taskSeq = t.taskSeq := rfl
@[simp] theorem Thread.advance_gangIdx (t : Thread) (n : Nat) : (t.advance n).gangIdx = t.gangIdx := rfl
@[simp] theorem Thread.advance_queue (t : Thread) (n : Nat) : (t.advance n).queue = t.queue := rfl
@[simp] theorem Thread.advance_sup (t : Thread) (n : Nat) : (t.advance n).sup = t.sup := rfl
@[simp] theorem Thread.advance_prio (t : Thread) (n : Nat) : (t.advance n).prio = t.prio := rfl
@[simp] theorem Thread.advance_tenant (t : Thread) (n : Nat) : (t.advance n).tenant = t.tenant := rfl
@[simp] theorem Thread.advance_spadLo (t : Thread) (n : Nat) : (t.advance n).spadLo = t.spadLo := rfl
@[simp] theorem Thread.advance_spadLen (t : Thread) (n : Nat) : (t.advance n).spadLen = t.spadLen := rfl
@[simp] theorem Thread.advance_image (t : Thread) (n : Nat) : (t.advance n).image = t.image := rfl
@[simp] theorem Thread.advance_parked (t : Thread) (n : Nat) : (t.advance n).parked = t.parked := rfl
@[simp] theorem Thread.advance_pc (t : Thread) (n : Nat) : (t.advance n).pc = slotAfter t.pc n := rfl
@[simp] theorem Thread.advance_arrived (t : Thread) (n : Nat) : (t.advance n).arrived = none := rfl
@[simp] theorem Thread.advance_arrivedPage (t : Thread) (n : Nat) : (t.advance n).arrivedPage = t.arrivedPage := rfl
@[simp] theorem Thread.advance_scal (t : Thread) (n : Nat) : (t.advance n).scal = t.scal := rfl
@[simp] theorem Thread.advance_vregs (t : Thread) (n : Nat) : (t.advance n).vregs = t.vregs := rfl
@[simp] theorem Thread.advance_masks (t : Thread) (n : Nat) : (t.advance n).masks = t.masks := rfl
@[simp] theorem Thread.advance_vl (t : Thread) (n : Nat) : (t.advance n).vl = t.vl := rfl
@[simp] theorem Thread.advance_vtype (t : Thread) (n : Nat) : (t.advance n).vtype = t.vtype := rfl
@[simp] theorem Thread.advance_vstart (t : Thread) (n : Nat) : (t.advance n).vstart = t.vstart := rfl
@[simp] theorem Thread.advance_vcpAddr (t : Thread) (n : Nat) : (t.advance n).vcpAddr = t.vcpAddr := rfl
@[simp] theorem Thread.advance_grant (t : Thread) (n : Nat) : (t.advance n).grant = t.grant := rfl
@[simp] theorem Thread.advance_lanes (t : Thread) (n : Nat) : (t.advance n).lanes = t.lanes := rfl
@[simp] theorem Thread.advance_fcsr (t : Thread) (n : Nat) : (t.advance n).fcsr = t.fcsr := rfl
@[simp] theorem Thread.advance_xcls (t : Thread) (n : Nat) : (t.advance n).xcls = t.xcls := rfl
@[simp] theorem Thread.advance_mshape (t : Thread) (n : Nat) : (t.advance n).mshape = t.mshape := rfl
@[simp] theorem Thread.advance_mrow (t : Thread) (n : Nat) : (t.advance n).mrow = t.mrow := rfl
@[simp] theorem Thread.advance_mkoff (t : Thread) (n : Nat) : (t.advance n).mkoff = t.mkoff := rfl
@[simp] theorem Thread.advance_swb (t : Thread) (n : Nat) : (t.advance n).swb = t.swb := rfl
@[simp] theorem Thread.advance_vwb (t : Thread) (n : Nat) : (t.advance n).vwb = t.vwb := rfl
@[simp] theorem Thread.advance_trap (t : Thread) (n : Nat) : (t.advance n).trap = t.trap := rfl
@[simp] theorem Thread.advance_trapVec (t : Thread) (n : Nat) : (t.advance n).trapVec = t.trapVec := rfl
@[simp] theorem Thread.advance_atp (t : Thread) (n : Nat) : (t.advance n).atp = t.atp := rfl
@[simp] theorem Thread.advance_latReq (t : Thread) (n : Nat) : (t.advance n).latReq = t.latReq := rfl
@[simp] theorem Thread.advance_inHandler (t : Thread) (n : Nat) : (t.advance n).inHandler = t.inHandler := rfl
@[simp] theorem Thread.advance_snapshot (t : Thread) (n : Nat) : (t.advance n).snapshot = t.snapshot := rfl
@[simp] theorem Thread.advance_vq (t : Thread) (n : Nat) : (t.advance n).vq = t.vq := rfl
@[simp] theorem Thread.advance_epoch (t : Thread) (n : Nat) : (t.advance n).epoch = t.epoch := rfl
@[simp] theorem Thread.advance_order (t : Thread) (n : Nat) : (t.advance n).order = t.order := rfl
@[simp] theorem Thread.advance_replay (t : Thread) (n : Nat) : (t.advance n).replay = t.replay := rfl
@[simp] theorem Thread.advance_repeats (t : Thread) (n : Nat) : (t.advance n).repeats = t.laterRepeats := rfl
@[simp] theorem Thread.advance_wait (t : Thread) (n : Nat) : (t.advance n).wait = t.wait := rfl
@[simp] theorem Thread.advance_yielded (t : Thread) (n : Nat) : (t.advance n).yielded = t.yielded := rfl
@[simp] theorem Thread.advance_links (t : Thread) (n : Nat) : (t.advance n).links = t.links := rfl
@[simp] theorem Thread.advance_tickets (t : Thread) (n : Nat) : (t.advance n).tickets = t.tickets := rfl
@[simp] theorem Thread.advance_issued (t : Thread) (n : Nat) : (t.advance n).issued = t.issued := rfl
@[simp] theorem Thread.advance_sbuf (t : Thread) (n : Nat) : (t.advance n).sbuf = t.sbuf := rfl
@[simp] theorem Thread.advance_stores (t : Thread) (n : Nat) : (t.advance n).stores = t.stores := rfl
@[simp] theorem Thread.advance_fences (t : Thread) (n : Nat) : (t.advance n).fences = t.fences := rfl
@[simp] theorem Thread.advance_holdStore (t : Thread) (n : Nat) : (t.advance n).holdStore = t.holdStore := rfl
@[simp] theorem Thread.advance_holdVec (t : Thread) (n : Nat) : (t.advance n).holdVec = t.holdVec := rfl
@[simp] theorem Thread.advance_holdMat (t : Thread) (n : Nat) : (t.advance n).holdMat = t.holdMat := rfl
@[simp] theorem Thread.advance_noAhead (t : Thread) (n : Nat) : (t.advance n).noAhead = t.noAhead := rfl
@[simp] theorem Thread.advance_stale (t : Thread) (n : Nat) : (t.advance n).stale = t.stale := rfl
@[simp] theorem Thread.advance_badScal (t : Thread) (n : Nat) : (t.advance n).badScal = t.badScal := rfl
@[simp] theorem Thread.advance_badVregs (t : Thread) (n : Nat) : (t.advance n).badVregs = t.badVregs := rfl
@[simp] theorem Thread.advance_badMasks (t : Thread) (n : Nat) : (t.advance n).badMasks = t.badMasks := rfl

/-! ### Interrupting a run -/

@[simp] theorem Thread.interrupted_tid (t : Thread)  : (t.interrupted).tid = t.tid := rfl
@[simp] theorem Thread.interrupted_crewIndex (t : Thread)  : (t.interrupted).crewIndex = t.crewIndex := rfl
@[simp] theorem Thread.interrupted_sizeM1 (t : Thread)  : (t.interrupted).sizeM1 = t.sizeM1 := rfl
@[simp] theorem Thread.interrupted_member (t : Thread)  : (t.interrupted).member = t.member := rfl
@[simp] theorem Thread.interrupted_gang (t : Thread)  : (t.interrupted).gang = t.gang := rfl
@[simp] theorem Thread.interrupted_tgpos (t : Thread)  : (t.interrupted).tgpos = t.tgpos := rfl
@[simp] theorem Thread.interrupted_tileg (t : Thread)  : (t.interrupted).tileg = t.tileg := rfl
@[simp] theorem Thread.interrupted_ncrewM1 (t : Thread)  : (t.interrupted).ncrewM1 = t.ncrewM1 := rfl
@[simp] theorem Thread.interrupted_taskSeq (t : Thread)  : (t.interrupted).taskSeq = t.taskSeq := rfl
@[simp] theorem Thread.interrupted_gangIdx (t : Thread)  : (t.interrupted).gangIdx = t.gangIdx := rfl
@[simp] theorem Thread.interrupted_queue (t : Thread)  : (t.interrupted).queue = t.queue := rfl
@[simp] theorem Thread.interrupted_sup (t : Thread)  : (t.interrupted).sup = t.sup := rfl
@[simp] theorem Thread.interrupted_prio (t : Thread)  : (t.interrupted).prio = t.prio := rfl
@[simp] theorem Thread.interrupted_tenant (t : Thread)  : (t.interrupted).tenant = t.tenant := rfl
@[simp] theorem Thread.interrupted_spadLo (t : Thread)  : (t.interrupted).spadLo = t.spadLo := rfl
@[simp] theorem Thread.interrupted_spadLen (t : Thread)  : (t.interrupted).spadLen = t.spadLen := rfl
@[simp] theorem Thread.interrupted_image (t : Thread)  : (t.interrupted).image = t.image := rfl
@[simp] theorem Thread.interrupted_parked (t : Thread)  : (t.interrupted).parked = t.parked := rfl
@[simp] theorem Thread.interrupted_pc (t : Thread)  : (t.interrupted).pc = t.pc := rfl
@[simp] theorem Thread.interrupted_arrived (t : Thread)  : (t.interrupted).arrived = t.arrived := rfl
@[simp] theorem Thread.interrupted_arrivedPage (t : Thread)  : (t.interrupted).arrivedPage = t.arrivedPage := rfl
@[simp] theorem Thread.interrupted_scal (t : Thread)  : (t.interrupted).scal = t.scal := rfl
@[simp] theorem Thread.interrupted_vregs (t : Thread)  : (t.interrupted).vregs = t.vregs := rfl
@[simp] theorem Thread.interrupted_masks (t : Thread)  : (t.interrupted).masks = t.masks := rfl
@[simp] theorem Thread.interrupted_vl (t : Thread)  : (t.interrupted).vl = t.vl := rfl
@[simp] theorem Thread.interrupted_vtype (t : Thread)  : (t.interrupted).vtype = t.vtype := rfl
@[simp] theorem Thread.interrupted_vstart (t : Thread)  : (t.interrupted).vstart = t.vstart := rfl
@[simp] theorem Thread.interrupted_vcpAddr (t : Thread)  : (t.interrupted).vcpAddr = t.vcpAddr := rfl
@[simp] theorem Thread.interrupted_grant (t : Thread)  : (t.interrupted).grant = t.grant := rfl
@[simp] theorem Thread.interrupted_lanes (t : Thread)  : (t.interrupted).lanes = t.lanes := rfl
@[simp] theorem Thread.interrupted_fcsr (t : Thread)  : (t.interrupted).fcsr = t.fcsr := rfl
@[simp] theorem Thread.interrupted_xcls (t : Thread)  : (t.interrupted).xcls = t.xcls := rfl
@[simp] theorem Thread.interrupted_mshape (t : Thread)  : (t.interrupted).mshape = t.mshape := rfl
@[simp] theorem Thread.interrupted_mrow (t : Thread)  : (t.interrupted).mrow = t.mrow := rfl
@[simp] theorem Thread.interrupted_mkoff (t : Thread)  : (t.interrupted).mkoff = t.mkoff := rfl
@[simp] theorem Thread.interrupted_swb (t : Thread)  : (t.interrupted).swb = t.swb := rfl
@[simp] theorem Thread.interrupted_vwb (t : Thread)  : (t.interrupted).vwb = t.vwb := rfl
@[simp] theorem Thread.interrupted_trap (t : Thread)  : (t.interrupted).trap = t.trap := rfl
@[simp] theorem Thread.interrupted_trapVec (t : Thread)  : (t.interrupted).trapVec = t.trapVec := rfl
@[simp] theorem Thread.interrupted_atp (t : Thread)  : (t.interrupted).atp = t.atp := rfl
@[simp] theorem Thread.interrupted_latReq (t : Thread)  : (t.interrupted).latReq = t.latReq := rfl
@[simp] theorem Thread.interrupted_inHandler (t : Thread)  : (t.interrupted).inHandler = t.inHandler := rfl
@[simp] theorem Thread.interrupted_snapshot (t : Thread)  : (t.interrupted).snapshot = t.snapshot := rfl
@[simp] theorem Thread.interrupted_epoch (t : Thread)  : (t.interrupted).epoch = t.epoch := rfl
@[simp] theorem Thread.interrupted_order (t : Thread)  : (t.interrupted).order = t.order := rfl
@[simp] theorem Thread.interrupted_replay (t : Thread)  : (t.interrupted).replay = t.replay := rfl
@[simp] theorem Thread.interrupted_repeats (t : Thread)  : (t.interrupted).repeats = t.repeats := rfl
@[simp] theorem Thread.interrupted_wait (t : Thread)  : (t.interrupted).wait = t.wait := rfl
@[simp] theorem Thread.interrupted_yielded (t : Thread)  : (t.interrupted).yielded = t.yielded := rfl
@[simp] theorem Thread.interrupted_links (t : Thread)  : (t.interrupted).links = t.links := rfl
@[simp] theorem Thread.interrupted_tickets (t : Thread)  : (t.interrupted).tickets = t.tickets := rfl
@[simp] theorem Thread.interrupted_issued (t : Thread)  : (t.interrupted).issued = t.issued := rfl
@[simp] theorem Thread.interrupted_sbuf (t : Thread)  : (t.interrupted).sbuf = t.sbuf := rfl
@[simp] theorem Thread.interrupted_stores (t : Thread)  : (t.interrupted).stores = t.stores := rfl
@[simp] theorem Thread.interrupted_fences (t : Thread)  : (t.interrupted).fences = t.fences := rfl
@[simp] theorem Thread.interrupted_holdStore (t : Thread)  : (t.interrupted).holdStore = t.holdStore := rfl
@[simp] theorem Thread.interrupted_holdVec (t : Thread)  : (t.interrupted).holdVec = t.holdVec := rfl
@[simp] theorem Thread.interrupted_holdMat (t : Thread)  : (t.interrupted).holdMat = t.holdMat := rfl
@[simp] theorem Thread.interrupted_noAhead (t : Thread)  : (t.interrupted).noAhead = false := rfl
@[simp] theorem Thread.interrupted_stale (t : Thread)  : (t.interrupted).stale = t.stale := rfl
@[simp] theorem Thread.interrupted_badScal (t : Thread)  : (t.interrupted).badScal = t.badScal := rfl
@[simp] theorem Thread.interrupted_badVregs (t : Thread)  : (t.interrupted).badVregs = t.badVregs := rfl
@[simp] theorem Thread.interrupted_badMasks (t : Thread)  : (t.interrupted).badMasks = t.badMasks := rfl

/-! ### Writing a scalar register -/

@[simp] theorem Thread.setG_tid (t : Thread) (f : BitVec 7) (v : Dword) : (t.setG f v).tid = t.tid := by unfold Thread.setG; split <;> rfl
@[simp] theorem Thread.setG_crewIndex (t : Thread) (f : BitVec 7) (v : Dword) : (t.setG f v).crewIndex = t.crewIndex := by unfold Thread.setG; split <;> rfl
@[simp] theorem Thread.setG_sizeM1 (t : Thread) (f : BitVec 7) (v : Dword) : (t.setG f v).sizeM1 = t.sizeM1 := by unfold Thread.setG; split <;> rfl
@[simp] theorem Thread.setG_member (t : Thread) (f : BitVec 7) (v : Dword) : (t.setG f v).member = t.member := by unfold Thread.setG; split <;> rfl
@[simp] theorem Thread.setG_gang (t : Thread) (f : BitVec 7) (v : Dword) : (t.setG f v).gang = t.gang := by unfold Thread.setG; split <;> rfl
@[simp] theorem Thread.setG_tgpos (t : Thread) (f : BitVec 7) (v : Dword) : (t.setG f v).tgpos = t.tgpos := by unfold Thread.setG; split <;> rfl
@[simp] theorem Thread.setG_tileg (t : Thread) (f : BitVec 7) (v : Dword) : (t.setG f v).tileg = t.tileg := by unfold Thread.setG; split <;> rfl
@[simp] theorem Thread.setG_ncrewM1 (t : Thread) (f : BitVec 7) (v : Dword) : (t.setG f v).ncrewM1 = t.ncrewM1 := by unfold Thread.setG; split <;> rfl
@[simp] theorem Thread.setG_taskSeq (t : Thread) (f : BitVec 7) (v : Dword) : (t.setG f v).taskSeq = t.taskSeq := by unfold Thread.setG; split <;> rfl
@[simp] theorem Thread.setG_gangIdx (t : Thread) (f : BitVec 7) (v : Dword) : (t.setG f v).gangIdx = t.gangIdx := by unfold Thread.setG; split <;> rfl
@[simp] theorem Thread.setG_queue (t : Thread) (f : BitVec 7) (v : Dword) : (t.setG f v).queue = t.queue := by unfold Thread.setG; split <;> rfl
@[simp] theorem Thread.setG_sup (t : Thread) (f : BitVec 7) (v : Dword) : (t.setG f v).sup = t.sup := by unfold Thread.setG; split <;> rfl
@[simp] theorem Thread.setG_prio (t : Thread) (f : BitVec 7) (v : Dword) : (t.setG f v).prio = t.prio := by unfold Thread.setG; split <;> rfl
@[simp] theorem Thread.setG_tenant (t : Thread) (f : BitVec 7) (v : Dword) : (t.setG f v).tenant = t.tenant := by unfold Thread.setG; split <;> rfl
@[simp] theorem Thread.setG_spadLo (t : Thread) (f : BitVec 7) (v : Dword) : (t.setG f v).spadLo = t.spadLo := by unfold Thread.setG; split <;> rfl
@[simp] theorem Thread.setG_spadLen (t : Thread) (f : BitVec 7) (v : Dword) : (t.setG f v).spadLen = t.spadLen := by unfold Thread.setG; split <;> rfl
@[simp] theorem Thread.setG_image (t : Thread) (f : BitVec 7) (v : Dword) : (t.setG f v).image = t.image := by unfold Thread.setG; split <;> rfl
@[simp] theorem Thread.setG_parked (t : Thread) (f : BitVec 7) (v : Dword) : (t.setG f v).parked = t.parked := by unfold Thread.setG; split <;> rfl
@[simp] theorem Thread.setG_pc (t : Thread) (f : BitVec 7) (v : Dword) : (t.setG f v).pc = t.pc := by unfold Thread.setG; split <;> rfl
@[simp] theorem Thread.setG_arrived (t : Thread) (f : BitVec 7) (v : Dword) : (t.setG f v).arrived = t.arrived := by unfold Thread.setG; split <;> rfl
@[simp] theorem Thread.setG_arrivedPage (t : Thread) (f : BitVec 7) (v : Dword) : (t.setG f v).arrivedPage = t.arrivedPage := by unfold Thread.setG; split <;> rfl
@[simp] theorem Thread.setG_vregs (t : Thread) (f : BitVec 7) (v : Dword) : (t.setG f v).vregs = t.vregs := by unfold Thread.setG; split <;> rfl
@[simp] theorem Thread.setG_masks (t : Thread) (f : BitVec 7) (v : Dword) : (t.setG f v).masks = t.masks := by unfold Thread.setG; split <;> rfl
@[simp] theorem Thread.setG_vl (t : Thread) (f : BitVec 7) (v : Dword) : (t.setG f v).vl = t.vl := by unfold Thread.setG; split <;> rfl
@[simp] theorem Thread.setG_vtype (t : Thread) (f : BitVec 7) (v : Dword) : (t.setG f v).vtype = t.vtype := by unfold Thread.setG; split <;> rfl
@[simp] theorem Thread.setG_vstart (t : Thread) (f : BitVec 7) (v : Dword) : (t.setG f v).vstart = t.vstart := by unfold Thread.setG; split <;> rfl
@[simp] theorem Thread.setG_vcpAddr (t : Thread) (f : BitVec 7) (v : Dword) : (t.setG f v).vcpAddr = t.vcpAddr := by unfold Thread.setG; split <;> rfl
@[simp] theorem Thread.setG_grant (t : Thread) (f : BitVec 7) (v : Dword) : (t.setG f v).grant = t.grant := by unfold Thread.setG; split <;> rfl
@[simp] theorem Thread.setG_lanes (t : Thread) (f : BitVec 7) (v : Dword) : (t.setG f v).lanes = t.lanes := by unfold Thread.setG; split <;> rfl
@[simp] theorem Thread.setG_fcsr (t : Thread) (f : BitVec 7) (v : Dword) : (t.setG f v).fcsr = t.fcsr := by unfold Thread.setG; split <;> rfl
@[simp] theorem Thread.setG_xcls (t : Thread) (f : BitVec 7) (v : Dword) : (t.setG f v).xcls = t.xcls := by unfold Thread.setG; split <;> rfl
@[simp] theorem Thread.setG_mshape (t : Thread) (f : BitVec 7) (v : Dword) : (t.setG f v).mshape = t.mshape := by unfold Thread.setG; split <;> rfl
@[simp] theorem Thread.setG_mrow (t : Thread) (f : BitVec 7) (v : Dword) : (t.setG f v).mrow = t.mrow := by unfold Thread.setG; split <;> rfl
@[simp] theorem Thread.setG_mkoff (t : Thread) (f : BitVec 7) (v : Dword) : (t.setG f v).mkoff = t.mkoff := by unfold Thread.setG; split <;> rfl
@[simp] theorem Thread.setG_swb (t : Thread) (f : BitVec 7) (v : Dword) : (t.setG f v).swb = t.swb := by unfold Thread.setG; split <;> rfl
@[simp] theorem Thread.setG_vwb (t : Thread) (f : BitVec 7) (v : Dword) : (t.setG f v).vwb = t.vwb := by unfold Thread.setG; split <;> rfl
@[simp] theorem Thread.setG_trap (t : Thread) (f : BitVec 7) (v : Dword) : (t.setG f v).trap = t.trap := by unfold Thread.setG; split <;> rfl
@[simp] theorem Thread.setG_trapVec (t : Thread) (f : BitVec 7) (v : Dword) : (t.setG f v).trapVec = t.trapVec := by unfold Thread.setG; split <;> rfl
@[simp] theorem Thread.setG_atp (t : Thread) (f : BitVec 7) (v : Dword) : (t.setG f v).atp = t.atp := by unfold Thread.setG; split <;> rfl
@[simp] theorem Thread.setG_latReq (t : Thread) (f : BitVec 7) (v : Dword) : (t.setG f v).latReq = t.latReq := by unfold Thread.setG; split <;> rfl
@[simp] theorem Thread.setG_inHandler (t : Thread) (f : BitVec 7) (v : Dword) : (t.setG f v).inHandler = t.inHandler := by unfold Thread.setG; split <;> rfl
@[simp] theorem Thread.setG_snapshot (t : Thread) (f : BitVec 7) (v : Dword) : (t.setG f v).snapshot = t.snapshot := by unfold Thread.setG; split <;> rfl
@[simp] theorem Thread.setG_vq (t : Thread) (f : BitVec 7) (v : Dword) : (t.setG f v).vq = t.vq := by unfold Thread.setG; split <;> rfl
@[simp] theorem Thread.setG_epoch (t : Thread) (f : BitVec 7) (v : Dword) : (t.setG f v).epoch = t.epoch := by unfold Thread.setG; split <;> rfl
@[simp] theorem Thread.setG_order (t : Thread) (f : BitVec 7) (v : Dword) : (t.setG f v).order = t.order := by unfold Thread.setG; split <;> rfl
@[simp] theorem Thread.setG_replay (t : Thread) (f : BitVec 7) (v : Dword) : (t.setG f v).replay = t.replay := by unfold Thread.setG; split <;> rfl
@[simp] theorem Thread.setG_repeats (t : Thread) (f : BitVec 7) (v : Dword) : (t.setG f v).repeats = t.repeats := by unfold Thread.setG; split <;> rfl
@[simp] theorem Thread.setG_wait (t : Thread) (f : BitVec 7) (v : Dword) : (t.setG f v).wait = t.wait := by unfold Thread.setG; split <;> rfl
@[simp] theorem Thread.setG_yielded (t : Thread) (f : BitVec 7) (v : Dword) : (t.setG f v).yielded = t.yielded := by unfold Thread.setG; split <;> rfl
@[simp] theorem Thread.setG_links (t : Thread) (f : BitVec 7) (v : Dword) : (t.setG f v).links = t.links := by unfold Thread.setG; split <;> rfl
@[simp] theorem Thread.setG_tickets (t : Thread) (f : BitVec 7) (v : Dword) : (t.setG f v).tickets = t.tickets := by unfold Thread.setG; split <;> rfl
@[simp] theorem Thread.setG_issued (t : Thread) (f : BitVec 7) (v : Dword) : (t.setG f v).issued = t.issued := by unfold Thread.setG; split <;> rfl
@[simp] theorem Thread.setG_sbuf (t : Thread) (f : BitVec 7) (v : Dword) : (t.setG f v).sbuf = t.sbuf := by unfold Thread.setG; split <;> rfl
@[simp] theorem Thread.setG_stores (t : Thread) (f : BitVec 7) (v : Dword) : (t.setG f v).stores = t.stores := by unfold Thread.setG; split <;> rfl
@[simp] theorem Thread.setG_fences (t : Thread) (f : BitVec 7) (v : Dword) : (t.setG f v).fences = t.fences := by unfold Thread.setG; split <;> rfl
@[simp] theorem Thread.setG_holdStore (t : Thread) (f : BitVec 7) (v : Dword) : (t.setG f v).holdStore = t.holdStore := by unfold Thread.setG; split <;> rfl
@[simp] theorem Thread.setG_holdVec (t : Thread) (f : BitVec 7) (v : Dword) : (t.setG f v).holdVec = t.holdVec := by unfold Thread.setG; split <;> rfl
@[simp] theorem Thread.setG_holdMat (t : Thread) (f : BitVec 7) (v : Dword) : (t.setG f v).holdMat = t.holdMat := by unfold Thread.setG; split <;> rfl
@[simp] theorem Thread.setG_noAhead (t : Thread) (f : BitVec 7) (v : Dword) : (t.setG f v).noAhead = t.noAhead := by unfold Thread.setG; split <;> rfl
@[simp] theorem Thread.setG_stale (t : Thread) (f : BitVec 7) (v : Dword) : (t.setG f v).stale = t.stale := by unfold Thread.setG; split <;> rfl
@[simp] theorem Thread.setG_badVregs (t : Thread) (f : BitVec 7) (v : Dword) : (t.setG f v).badVregs = t.badVregs := by unfold Thread.setG; split <;> rfl
@[simp] theorem Thread.setG_badMasks (t : Thread) (f : BitVec 7) (v : Dword) : (t.setG f v).badMasks = t.badMasks := by unfold Thread.setG; split <;> rfl

/-! ### Committing a vector instruction -/

@[simp] theorem Thread.commitHead_tid (t : Thread) (e : VEntry) (fl : Flags) : (t.commitHead e fl).tid = t.tid := rfl
@[simp] theorem Thread.commitHead_crewIndex (t : Thread) (e : VEntry) (fl : Flags) : (t.commitHead e fl).crewIndex = t.crewIndex := rfl
@[simp] theorem Thread.commitHead_sizeM1 (t : Thread) (e : VEntry) (fl : Flags) : (t.commitHead e fl).sizeM1 = t.sizeM1 := rfl
@[simp] theorem Thread.commitHead_member (t : Thread) (e : VEntry) (fl : Flags) : (t.commitHead e fl).member = t.member := rfl
@[simp] theorem Thread.commitHead_gang (t : Thread) (e : VEntry) (fl : Flags) : (t.commitHead e fl).gang = t.gang := rfl
@[simp] theorem Thread.commitHead_tgpos (t : Thread) (e : VEntry) (fl : Flags) : (t.commitHead e fl).tgpos = t.tgpos := rfl
@[simp] theorem Thread.commitHead_tileg (t : Thread) (e : VEntry) (fl : Flags) : (t.commitHead e fl).tileg = t.tileg := rfl
@[simp] theorem Thread.commitHead_ncrewM1 (t : Thread) (e : VEntry) (fl : Flags) : (t.commitHead e fl).ncrewM1 = t.ncrewM1 := rfl
@[simp] theorem Thread.commitHead_taskSeq (t : Thread) (e : VEntry) (fl : Flags) : (t.commitHead e fl).taskSeq = t.taskSeq := rfl
@[simp] theorem Thread.commitHead_gangIdx (t : Thread) (e : VEntry) (fl : Flags) : (t.commitHead e fl).gangIdx = t.gangIdx := rfl
@[simp] theorem Thread.commitHead_queue (t : Thread) (e : VEntry) (fl : Flags) : (t.commitHead e fl).queue = t.queue := rfl
@[simp] theorem Thread.commitHead_sup (t : Thread) (e : VEntry) (fl : Flags) : (t.commitHead e fl).sup = t.sup := rfl
@[simp] theorem Thread.commitHead_prio (t : Thread) (e : VEntry) (fl : Flags) : (t.commitHead e fl).prio = t.prio := rfl
@[simp] theorem Thread.commitHead_tenant (t : Thread) (e : VEntry) (fl : Flags) : (t.commitHead e fl).tenant = t.tenant := rfl
@[simp] theorem Thread.commitHead_spadLo (t : Thread) (e : VEntry) (fl : Flags) : (t.commitHead e fl).spadLo = t.spadLo := rfl
@[simp] theorem Thread.commitHead_spadLen (t : Thread) (e : VEntry) (fl : Flags) : (t.commitHead e fl).spadLen = t.spadLen := rfl
@[simp] theorem Thread.commitHead_image (t : Thread) (e : VEntry) (fl : Flags) : (t.commitHead e fl).image = t.image := rfl
@[simp] theorem Thread.commitHead_parked (t : Thread) (e : VEntry) (fl : Flags) : (t.commitHead e fl).parked = t.parked := rfl
@[simp] theorem Thread.commitHead_pc (t : Thread) (e : VEntry) (fl : Flags) : (t.commitHead e fl).pc = t.pc := rfl
@[simp] theorem Thread.commitHead_arrived (t : Thread) (e : VEntry) (fl : Flags) : (t.commitHead e fl).arrived = t.arrived := rfl
@[simp] theorem Thread.commitHead_arrivedPage (t : Thread) (e : VEntry) (fl : Flags) : (t.commitHead e fl).arrivedPage = t.arrivedPage := rfl
@[simp] theorem Thread.commitHead_scal (t : Thread) (e : VEntry) (fl : Flags) : (t.commitHead e fl).scal = t.scal := rfl
@[simp] theorem Thread.commitHead_vregs (t : Thread) (e : VEntry) (fl : Flags) : (t.commitHead e fl).vregs = t.vregs := rfl
@[simp] theorem Thread.commitHead_masks (t : Thread) (e : VEntry) (fl : Flags) : (t.commitHead e fl).masks = t.masks := rfl
@[simp] theorem Thread.commitHead_vl (t : Thread) (e : VEntry) (fl : Flags) : (t.commitHead e fl).vl = t.vl := rfl
@[simp] theorem Thread.commitHead_vtype (t : Thread) (e : VEntry) (fl : Flags) : (t.commitHead e fl).vtype = t.vtype := rfl
@[simp] theorem Thread.commitHead_vstart (t : Thread) (e : VEntry) (fl : Flags) : (t.commitHead e fl).vstart = 0 := rfl
@[simp] theorem Thread.commitHead_vcpAddr (t : Thread) (e : VEntry) (fl : Flags) : (t.commitHead e fl).vcpAddr = e.addr := rfl
@[simp] theorem Thread.commitHead_grant (t : Thread) (e : VEntry) (fl : Flags) : (t.commitHead e fl).grant = t.grant := rfl
@[simp] theorem Thread.commitHead_lanes (t : Thread) (e : VEntry) (fl : Flags) : (t.commitHead e fl).lanes = t.lanes := rfl
@[simp] theorem Thread.commitHead_fcsr (t : Thread) (e : VEntry) (fl : Flags) : (t.commitHead e fl).fcsr = Flags.stick t.fcsr (e.flags ||| fl) := rfl
@[simp] theorem Thread.commitHead_xcls (t : Thread) (e : VEntry) (fl : Flags) : (t.commitHead e fl).xcls = t.xcls := rfl
@[simp] theorem Thread.commitHead_mshape (t : Thread) (e : VEntry) (fl : Flags) : (t.commitHead e fl).mshape = t.mshape := rfl
@[simp] theorem Thread.commitHead_mrow (t : Thread) (e : VEntry) (fl : Flags) : (t.commitHead e fl).mrow = t.mrow := rfl
@[simp] theorem Thread.commitHead_mkoff (t : Thread) (e : VEntry) (fl : Flags) : (t.commitHead e fl).mkoff = t.mkoff := rfl
@[simp] theorem Thread.commitHead_swb (t : Thread) (e : VEntry) (fl : Flags) : (t.commitHead e fl).swb = t.swb := rfl
@[simp] theorem Thread.commitHead_vwb (t : Thread) (e : VEntry) (fl : Flags) : (t.commitHead e fl).vwb = t.vwb := rfl
@[simp] theorem Thread.commitHead_trap (t : Thread) (e : VEntry) (fl : Flags) : (t.commitHead e fl).trap = t.trap := rfl
@[simp] theorem Thread.commitHead_trapVec (t : Thread) (e : VEntry) (fl : Flags) : (t.commitHead e fl).trapVec = t.trapVec := rfl
@[simp] theorem Thread.commitHead_atp (t : Thread) (e : VEntry) (fl : Flags) : (t.commitHead e fl).atp = t.atp := rfl
@[simp] theorem Thread.commitHead_latReq (t : Thread) (e : VEntry) (fl : Flags) : (t.commitHead e fl).latReq = t.latReq := rfl
@[simp] theorem Thread.commitHead_inHandler (t : Thread) (e : VEntry) (fl : Flags) : (t.commitHead e fl).inHandler = t.inHandler := rfl
@[simp] theorem Thread.commitHead_snapshot (t : Thread) (e : VEntry) (fl : Flags) : (t.commitHead e fl).snapshot = t.snapshot := rfl
@[simp] theorem Thread.commitHead_vq (t : Thread) (e : VEntry) (fl : Flags) : (t.commitHead e fl).vq = t.vq.tail := rfl
@[simp] theorem Thread.commitHead_epoch (t : Thread) (e : VEntry) (fl : Flags) : (t.commitHead e fl).epoch = t.epoch := rfl
@[simp] theorem Thread.commitHead_order (t : Thread) (e : VEntry) (fl : Flags) : (t.commitHead e fl).order = t.order := rfl
@[simp] theorem Thread.commitHead_replay (t : Thread) (e : VEntry) (fl : Flags) : (t.commitHead e fl).replay = t.replay := rfl
@[simp] theorem Thread.commitHead_wait (t : Thread) (e : VEntry) (fl : Flags) : (t.commitHead e fl).wait = t.wait := rfl
@[simp] theorem Thread.commitHead_yielded (t : Thread) (e : VEntry) (fl : Flags) : (t.commitHead e fl).yielded = t.yielded := rfl
@[simp] theorem Thread.commitHead_links (t : Thread) (e : VEntry) (fl : Flags) : (t.commitHead e fl).links = t.links := rfl
@[simp] theorem Thread.commitHead_tickets (t : Thread) (e : VEntry) (fl : Flags) : (t.commitHead e fl).tickets = t.tickets := rfl
@[simp] theorem Thread.commitHead_issued (t : Thread) (e : VEntry) (fl : Flags) : (t.commitHead e fl).issued = t.issued := rfl
@[simp] theorem Thread.commitHead_sbuf (t : Thread) (e : VEntry) (fl : Flags) : (t.commitHead e fl).sbuf = t.sbuf := rfl
@[simp] theorem Thread.commitHead_stores (t : Thread) (e : VEntry) (fl : Flags) : (t.commitHead e fl).stores = t.stores := rfl
@[simp] theorem Thread.commitHead_fences (t : Thread) (e : VEntry) (fl : Flags) : (t.commitHead e fl).fences = t.fences := rfl
@[simp] theorem Thread.commitHead_holdStore (t : Thread) (e : VEntry) (fl : Flags) : (t.commitHead e fl).holdStore = t.holdStore := rfl
@[simp] theorem Thread.commitHead_holdVec (t : Thread) (e : VEntry) (fl : Flags) : (t.commitHead e fl).holdVec = t.holdVec := rfl
@[simp] theorem Thread.commitHead_holdMat (t : Thread) (e : VEntry) (fl : Flags) : (t.commitHead e fl).holdMat = t.holdMat := rfl
@[simp] theorem Thread.commitHead_stale (t : Thread) (e : VEntry) (fl : Flags) : (t.commitHead e fl).stale = t.stale := rfl
@[simp] theorem Thread.commitHead_badScal (t : Thread) (e : VEntry) (fl : Flags) : (t.commitHead e fl).badScal = t.badScal := rfl
@[simp] theorem Thread.commitHead_badVregs (t : Thread) (e : VEntry) (fl : Flags) : (t.commitHead e fl).badVregs = t.badVregs := rfl
@[simp] theorem Thread.commitHead_badMasks (t : Thread) (e : VEntry) (fl : Flags) : (t.commitHead e fl).badMasks = t.badMasks := rfl

/-! ### Writing VTYPE -/

@[simp] theorem Thread.setVtype_tid (t : Thread) (vt : BitVec 14) : (t.setVtype vt).tid = t.tid := rfl
@[simp] theorem Thread.setVtype_crewIndex (t : Thread) (vt : BitVec 14) : (t.setVtype vt).crewIndex = t.crewIndex := rfl
@[simp] theorem Thread.setVtype_sizeM1 (t : Thread) (vt : BitVec 14) : (t.setVtype vt).sizeM1 = t.sizeM1 := rfl
@[simp] theorem Thread.setVtype_member (t : Thread) (vt : BitVec 14) : (t.setVtype vt).member = t.member := rfl
@[simp] theorem Thread.setVtype_gang (t : Thread) (vt : BitVec 14) : (t.setVtype vt).gang = t.gang := rfl
@[simp] theorem Thread.setVtype_tgpos (t : Thread) (vt : BitVec 14) : (t.setVtype vt).tgpos = t.tgpos := rfl
@[simp] theorem Thread.setVtype_tileg (t : Thread) (vt : BitVec 14) : (t.setVtype vt).tileg = t.tileg := rfl
@[simp] theorem Thread.setVtype_ncrewM1 (t : Thread) (vt : BitVec 14) : (t.setVtype vt).ncrewM1 = t.ncrewM1 := rfl
@[simp] theorem Thread.setVtype_taskSeq (t : Thread) (vt : BitVec 14) : (t.setVtype vt).taskSeq = t.taskSeq := rfl
@[simp] theorem Thread.setVtype_gangIdx (t : Thread) (vt : BitVec 14) : (t.setVtype vt).gangIdx = t.gangIdx := rfl
@[simp] theorem Thread.setVtype_queue (t : Thread) (vt : BitVec 14) : (t.setVtype vt).queue = t.queue := rfl
@[simp] theorem Thread.setVtype_sup (t : Thread) (vt : BitVec 14) : (t.setVtype vt).sup = t.sup := rfl
@[simp] theorem Thread.setVtype_prio (t : Thread) (vt : BitVec 14) : (t.setVtype vt).prio = t.prio := rfl
@[simp] theorem Thread.setVtype_tenant (t : Thread) (vt : BitVec 14) : (t.setVtype vt).tenant = t.tenant := rfl
@[simp] theorem Thread.setVtype_spadLo (t : Thread) (vt : BitVec 14) : (t.setVtype vt).spadLo = t.spadLo := rfl
@[simp] theorem Thread.setVtype_spadLen (t : Thread) (vt : BitVec 14) : (t.setVtype vt).spadLen = t.spadLen := rfl
@[simp] theorem Thread.setVtype_image (t : Thread) (vt : BitVec 14) : (t.setVtype vt).image = t.image := rfl
@[simp] theorem Thread.setVtype_parked (t : Thread) (vt : BitVec 14) : (t.setVtype vt).parked = t.parked := rfl
@[simp] theorem Thread.setVtype_pc (t : Thread) (vt : BitVec 14) : (t.setVtype vt).pc = t.pc := rfl
@[simp] theorem Thread.setVtype_arrived (t : Thread) (vt : BitVec 14) : (t.setVtype vt).arrived = t.arrived := rfl
@[simp] theorem Thread.setVtype_arrivedPage (t : Thread) (vt : BitVec 14) : (t.setVtype vt).arrivedPage = t.arrivedPage := rfl
@[simp] theorem Thread.setVtype_scal (t : Thread) (vt : BitVec 14) : (t.setVtype vt).scal = t.scal := rfl
@[simp] theorem Thread.setVtype_vregs (t : Thread) (vt : BitVec 14) : (t.setVtype vt).vregs = t.vregs := rfl
@[simp] theorem Thread.setVtype_masks (t : Thread) (vt : BitVec 14) : (t.setVtype vt).masks = t.masks := rfl
@[simp] theorem Thread.setVtype_vtype (t : Thread) (vt : BitVec 14) : (t.setVtype vt).vtype = vt := rfl
@[simp] theorem Thread.setVtype_vstart (t : Thread) (vt : BitVec 14) : (t.setVtype vt).vstart = t.vstart := rfl
@[simp] theorem Thread.setVtype_vcpAddr (t : Thread) (vt : BitVec 14) : (t.setVtype vt).vcpAddr = t.vcpAddr := rfl
@[simp] theorem Thread.setVtype_grant (t : Thread) (vt : BitVec 14) : (t.setVtype vt).grant = t.grant := rfl
@[simp] theorem Thread.setVtype_lanes (t : Thread) (vt : BitVec 14) : (t.setVtype vt).lanes = t.lanes := rfl
@[simp] theorem Thread.setVtype_fcsr (t : Thread) (vt : BitVec 14) : (t.setVtype vt).fcsr = t.fcsr := rfl
@[simp] theorem Thread.setVtype_xcls (t : Thread) (vt : BitVec 14) : (t.setVtype vt).xcls = t.xcls := rfl
@[simp] theorem Thread.setVtype_mshape (t : Thread) (vt : BitVec 14) : (t.setVtype vt).mshape = t.mshape := rfl
@[simp] theorem Thread.setVtype_mrow (t : Thread) (vt : BitVec 14) : (t.setVtype vt).mrow = t.mrow := rfl
@[simp] theorem Thread.setVtype_mkoff (t : Thread) (vt : BitVec 14) : (t.setVtype vt).mkoff = t.mkoff := rfl
@[simp] theorem Thread.setVtype_swb (t : Thread) (vt : BitVec 14) : (t.setVtype vt).swb = t.swb := rfl
@[simp] theorem Thread.setVtype_vwb (t : Thread) (vt : BitVec 14) : (t.setVtype vt).vwb = t.vwb := rfl
@[simp] theorem Thread.setVtype_trap (t : Thread) (vt : BitVec 14) : (t.setVtype vt).trap = t.trap := rfl
@[simp] theorem Thread.setVtype_trapVec (t : Thread) (vt : BitVec 14) : (t.setVtype vt).trapVec = t.trapVec := rfl
@[simp] theorem Thread.setVtype_atp (t : Thread) (vt : BitVec 14) : (t.setVtype vt).atp = t.atp := rfl
@[simp] theorem Thread.setVtype_latReq (t : Thread) (vt : BitVec 14) : (t.setVtype vt).latReq = t.latReq := rfl
@[simp] theorem Thread.setVtype_inHandler (t : Thread) (vt : BitVec 14) : (t.setVtype vt).inHandler = t.inHandler := rfl
@[simp] theorem Thread.setVtype_snapshot (t : Thread) (vt : BitVec 14) : (t.setVtype vt).snapshot = t.snapshot := rfl
@[simp] theorem Thread.setVtype_vq (t : Thread) (vt : BitVec 14) : (t.setVtype vt).vq = t.vq := rfl
@[simp] theorem Thread.setVtype_epoch (t : Thread) (vt : BitVec 14) : (t.setVtype vt).epoch = t.epoch + 1 := rfl
@[simp] theorem Thread.setVtype_order (t : Thread) (vt : BitVec 14) : (t.setVtype vt).order = t.order := rfl
@[simp] theorem Thread.setVtype_replay (t : Thread) (vt : BitVec 14) : (t.setVtype vt).replay = t.replay := rfl
@[simp] theorem Thread.setVtype_repeats (t : Thread) (vt : BitVec 14) : (t.setVtype vt).repeats = t.repeats := rfl
@[simp] theorem Thread.setVtype_wait (t : Thread) (vt : BitVec 14) : (t.setVtype vt).wait = t.wait := rfl
@[simp] theorem Thread.setVtype_yielded (t : Thread) (vt : BitVec 14) : (t.setVtype vt).yielded = t.yielded := rfl
@[simp] theorem Thread.setVtype_links (t : Thread) (vt : BitVec 14) : (t.setVtype vt).links = t.links := rfl
@[simp] theorem Thread.setVtype_tickets (t : Thread) (vt : BitVec 14) : (t.setVtype vt).tickets = t.tickets := rfl
@[simp] theorem Thread.setVtype_issued (t : Thread) (vt : BitVec 14) : (t.setVtype vt).issued = t.issued := rfl
@[simp] theorem Thread.setVtype_sbuf (t : Thread) (vt : BitVec 14) : (t.setVtype vt).sbuf = t.sbuf := rfl
@[simp] theorem Thread.setVtype_stores (t : Thread) (vt : BitVec 14) : (t.setVtype vt).stores = t.stores := rfl
@[simp] theorem Thread.setVtype_fences (t : Thread) (vt : BitVec 14) : (t.setVtype vt).fences = t.fences := rfl
@[simp] theorem Thread.setVtype_holdStore (t : Thread) (vt : BitVec 14) : (t.setVtype vt).holdStore = t.holdStore := rfl
@[simp] theorem Thread.setVtype_holdVec (t : Thread) (vt : BitVec 14) : (t.setVtype vt).holdVec = t.holdVec := rfl
@[simp] theorem Thread.setVtype_holdMat (t : Thread) (vt : BitVec 14) : (t.setVtype vt).holdMat = t.holdMat := rfl
@[simp] theorem Thread.setVtype_noAhead (t : Thread) (vt : BitVec 14) : (t.setVtype vt).noAhead = t.noAhead := rfl
@[simp] theorem Thread.setVtype_stale (t : Thread) (vt : BitVec 14) : (t.setVtype vt).stale = t.stale := rfl
@[simp] theorem Thread.setVtype_badScal (t : Thread) (vt : BitVec 14) : (t.setVtype vt).badScal = t.badScal := rfl
@[simp] theorem Thread.setVtype_badVregs (t : Thread) (vt : BitVec 14) : (t.setVtype vt).badVregs = t.badVregs := rfl
@[simp] theorem Thread.setVtype_badMasks (t : Thread) (vt : BitVec 14) : (t.setVtype vt).badMasks = t.badMasks := rfl

end Sys2Proof.Machine
end

