-- ==== Sys2Proof/Laws/Threads.lean ====
section
/-! SUPPORT. Finding a thread after it has been replaced, scalar registers after a write, and the memory after a write event. -/

namespace Sys2Proof.Machine

/-! ### Threads by identifier -/

theorem State.thread?_tid {s : State} {tid : BitVec 32} {t : Thread} (h : s.thread? tid = some t) : t.tid = tid := by
  simpa using List.find?_some h

/-- Finding by identifier in a list in which every thread of one identifier is replaced. -/
theorem find_replace (l : List Thread) (t : Thread) (tid : BitVec 32) :
    (l.map fun x => if x.tid = t.tid then t else x).find? (fun x => x.tid = tid) =
      (l.find? fun x => x.tid = tid).map fun x => if x.tid = t.tid then t else x := by
  induction l with
  | nil => rfl
  | cons x r ih =>
    rw [List.map_cons, List.find?_cons, List.find?_cons, ih]
    by_cases hx : x.tid = t.tid
    · by_cases ht : t.tid = tid <;> simp [hx, ht]
    · rw [if_neg hx]
      cases decide (x.tid = tid) <;> simp [hx]

/-- The thread that replaced one of its identifier. -/
theorem State.thread?_setThread_same {s : State} {t u : Thread} (h : s.thread? t.tid = some u) :
    (s.setThread t).thread? t.tid = some t := by
  have hu : u.tid = t.tid := State.thread?_tid h
  have := find_replace s.threads t t.tid
  rw [State.thread?] at h
  rw [State.thread?, State.setThread_threads, this, h]
  simp [hu]

/-- Replacing a thread leaves every other one where it is. -/
theorem State.thread?_setThread_ne (s : State) {t : Thread} {tid : BitVec 32} (h : t.tid ≠ tid) :
    (s.setThread t).thread? tid = s.thread? tid := by
  have := find_replace s.threads t tid
  rw [State.thread?, State.setThread_threads, this, State.thread?]
  cases hf : s.threads.find? (fun x => x.tid = tid) with
  | none => rfl
  | some x =>
    have hx : x.tid = tid := by simpa using List.find?_some hf
    have : x.tid ≠ t.tid := fun e => h (e.symm.trans hx)
    simp [this]

/-- Of two replacements of one thread the later one stands. -/
theorem State.setThread_setThread (s : State) {t u : Thread} (h : u.tid = t.tid) : (s.setThread t).setThread u = s.setThread u := by
  have : ((s.threads.map fun x => if x.tid = t.tid then t else x).map fun x => if x.tid = u.tid then u else x) =
      s.threads.map fun x => if x.tid = u.tid then u else x := by
    rw [List.map_map]
    refine List.map_congr_left fun x _ => ?_
    by_cases hx : x.tid = t.tid <;> simp [hx, h]
  simp only [State.setThread, this]

theorem State.update_some {s : State} {tid : BitVec 32} {t : Thread} (h : s.thread? tid = some t) (f : Thread → Thread) :
    s.update tid f = s.setThread (f t) := by
  simp [State.update, h]

@[simp] theorem State.update_mem (s : State) (tid : BitVec 32) (f : Thread → Thread) : (s.update tid f).mem = s.mem := by
  unfold State.update; split <;> rfl

/-! ### Scalar registers -/

/-- A register that has just been written. -/
theorem Thread.g_setG_same (t : Thread) {f : BitVec 7} (v : Dword) (hf : f ≠ 0) : (t.setG f v).g f = v := by
  simp only [setG, hf, if_false, g, entryOf]
  exact Sparse.get_set_same 0 t.scal _ v

/-- Register 0 reads zero. -/
@[simp] theorem Thread.g_zero (t : Thread) : t.g 0 = 0 := rfl

/-- A write to register 0 is discarded. -/
@[simp] theorem Thread.setG_zero (t : Thread) (v : Dword) : t.setG 0 v = t := rfl

/-- A write leaves every other register alone. -/
theorem Thread.g_setG_ne (t : Thread) {f k : BitVec 7} (v : Dword) (h : k ≠ f) : (t.setG f v).g k = t.g k := by
  by_cases hf : f = 0
  · simp [setG, hf]
  · by_cases hk : k = 0
    · simp [g, hk]
    · have hne : t.swb.toNat + k.toNat ≠ t.swb.toNat + f.toNat := by
        intro e
        exact h (BitVec.eq_of_toNat_eq (by omega))
      simp only [setG, hf, if_false, g, hk, entryOf]
      exact Sparse.get_set_ne 0 t.scal v hne

/-! ### Write events -/

/-- What a write event does to memory: its bytes are written, or nothing is (no byte, or a peer to which no path remains). -/
theorem State.storeBytes_mem (s : State) (l : Loc) (bs : List Byte) :
    (s.storeBytes l bs).mem = s.mem ∨ (s.storeBytes l bs).mem = s.mem.writeBytes l bs := by
  unfold State.storeBytes State.putBytes
  split
  · exact .inl rfl
  · split
    · exact .inl (by simp)
    · exact .inr (by simp)

/-- A write event to HBM, CXL memory or a scratchpad writes its bytes. -/
theorem State.storeBytes_mem_local (s : State) {l : Loc} (bs : List Byte) (h : isPeer l = false) :
    (s.storeBytes l bs).mem = s.mem.writeBytes l bs := by
  unfold State.storeBytes State.putBytes
  simp only [h, Bool.false_and, Bool.or_false]
  split
  · rename_i he
    rw [List.isEmpty_iff.1 he]
    rfl
  · rename_i he
    simp

/-- Write events keep memory in canonical form. -/
theorem State.wf_storeBytes {s : State} (l : Loc) (bs : List Byte) (h : s.mem.wf = true) : (s.storeBytes l bs).mem.wf = true := by
  rcases s.storeBytes_mem l bs with e | e <;> rw [e]
  · exact h
  · exact Memory.wf_writeBytes l bs h

theorem State.wf_store64 {s : State} (l : Loc) (v : Dword) (h : s.mem.wf = true) : (s.store64 l v).mem.wf = true :=
  wf_storeBytes l _ h

theorem State.wf_zeroRange {s : State} (l : Loc) (n : Nat) (h : s.mem.wf = true) : (s.zeroRange l n).mem.wf = true :=
  Memory.wf_clear l n h

/-- A write event leaves every byte outside its own alone. -/
theorem State.read_storeBytes_out (s : State) (l : Loc) (bs : List Byte) {a : Loc} (ha : a < l ∨ l + bs.length ≤ a) :
    (s.storeBytes l bs).mem.read a = s.mem.read a := by
  rcases s.storeBytes_mem l bs with e | e <;> rw [e]
  exact Memory.read_writeBytes_out s.mem l bs ha

/-- What has just been stored reads back. -/
theorem State.loadBytes_storeBytes (s : State) {l : Loc} (bs : List Byte) (hp : isPeer l = false) :
    (s.storeBytes l bs).loadBytes l bs.length = bs := by
  rw [State.loadBytes, State.storeBytes_mem_local s bs hp, Memory.readBytes_writeBytes_same]

end Sys2Proof.Machine
end

