-- ==== Sys2Proof/Laws/Issue.lean ====
section
/-! SUPPORT. The frame that meanings share, once and for all: what each shared operation answers for a current thread with unpoisoned operands,
and that the waits for older work let a thread pass that has none. -/

namespace Sys2Proof.Machine

open Sys2Proof

theorem Runs.tid {s : State} {t : Thread} (h : Runs s t) : t.tid = s.cur := State.thread?_tid h

/-- The current thread found by its own identifier. -/
theorem Runs.found {s : State} {t : Thread} (h : Runs s t) : s.thread? t.tid = some t := by
  rw [Runs.tid h]
  exact h

theorem onThread_runs {s : State} {t : Thread} (h : Runs s t) (f : Thread → State) : onThread s f = .next (f t) := by
  rw [onThread, show s.thread? s.cur = some t from h]

/-- A scalar instruction with unpoisoned operands answers what it makes of the current thread. -/
theorem scalarOp_clean {s : State} {t : Thread} {reads : List (BitVec 7)} (h : Runs s t) (hc : Clean t reads) (f : Thread → State) :
    scalarOp s reads f = .next (f t) := by
  rw [scalarOp, onThread_runs h]
  simp only [show reads.any t.badG = false from hc]
  simp

/-- A scalar instruction with a poisoned operand traps. -/
theorem scalarOp_bad {s : State} {t : Thread} {reads : List (BitVec 7)} (h : Runs s t) (hc : reads.any t.badG = true)
    (f : Thread → State) : scalarOp s reads f = .next (scalarTrap s t (mkFault 0x15 0x02 0 accLoad)) := by
  rw [scalarOp, onThread_runs h]
  simp only [hc]
  simp

/-- An instruction that writes one register. -/
theorem writeOp_clean {s : State} {t : Thread} {reads : List (BitVec 7)} (h : Runs s t) (hc : Clean t reads) (d : BitVec 7) (n : Nat)
    (f : Thread → Dword) : writeOp s reads d n f = .next (s.setThread ((t.setG d (f t)).advance n)) :=
  scalarOp_clean h hc _

/-! ### Nothing to wait for -/

theorem drainVector_idle {s : State} {t : Thread} (h : s.thread? t.tid = some t) (hv : t.vq = []) :
    drainVector s t = (s, .committed) := by
  simp [drainVector, drainFor, h, hv]

theorem drainMatrix_idle {s : State} {tid : BitVec 32} (h : matrixOf s tid = []) : drainMatrix s tid = s := by
  simp only [drainMatrix, h, List.length_nil, drainMatrixFor]
  cases s.thread? tid <;> rfl

theorem pendingMatrix_idle {s : State} {t : Thread} (h : matrixOf s t.tid = []) : pendingMatrix s t = [] := by
  simp [pendingMatrix, h]

theorem flushStores_idle {s : State} {t : Thread} (h : t.sbuf = []) : flushStores s t = s := by
  simp [flushStores, h]

theorem afterVector_idle {s : State} {t : Thread} (h : s.thread? t.tid = some t) (hv : t.vq = []) (k : State → Thread → State) :
    afterVector s t k = k s t := by
  simp [afterVector, drainVector_idle h hv, h]

theorem afterMatrix_idle {s : State} {t : Thread} (h : s.thread? t.tid = some t) (hm : matrixOf s t.tid = [])
    (k : State → Thread → State) : afterMatrix s t k = k s t := by
  simp [afterMatrix, drainMatrix_idle hm, h, pendingMatrix_idle hm]

theorem afterStores_idle {s : State} {t : Thread} (h : s.thread? t.tid = some t) (hs : t.sbuf = []) (k : State → Thread → State) :
    afterStores s t k = k s t := by
  simp [afterStores, flushStores_idle hs, h, storesLeft, hs]

theorem afterAll_idle {s : State} {t : Thread} (h : s.thread? t.tid = some t) (r : AtRest s t) (k : State → Thread → State) :
    afterAll s t k = k s t := by
  rw [afterAll, afterVector_idle h r.1, afterMatrix_idle h r.2.1, afterStores_idle h r.2.2]

theorem afterQueues_idle {s : State} {t : Thread} (h : s.thread? t.tid = some t) (r : AtRest s t) (k : State → Thread → State) :
    afterQueues s t k = k s t := by
  rw [afterQueues, afterVector_idle h r.1, afterMatrix_idle h r.2.1]

/-- A trap of a thread without older vector instructions is taken at once. -/
theorem scalarTrapAt_idle {s : State} {t : Thread} (h : s.thread? t.tid = some t) (hv : t.vq = []) (f : Flt) (save : BitVec 57) :
    scalarTrapAt s t f save = takeTrap s t f { pc := t.pc, save := save, elem := 0 } := by
  simp [scalarTrapAt, drainVector_idle h hv, h]

theorem scalarTrap_idle {s : State} {t : Thread} (h : s.thread? t.tid = some t) (hv : t.vq = []) (f : Flt) :
    scalarTrap s t f = takeTrap s t f { pc := t.pc, save := t.pc, elem := 0 } := scalarTrapAt_idle h hv f t.pc

theorem illegal_idle {s : State} {t : Thread} (h : s.thread? t.tid = some t) (hv : t.vq = []) (sub : BitVec 8) :
    illegal s t sub = takeTrap s t (mkFault 0x01 sub 0 accLoad) { pc := t.pc, save := t.pc, elem := 0 } := scalarTrap_idle h hv _

/-! ### Taking a trap -/

/-- Nothing of a thread without older vector instructions has run ahead. -/
theorem Thread.interrupted_idle {t : Thread} (hq : t.vq = []) : t.interrupted = { t with noAhead := false } := by
  cases t
  subst hq
  rfl

theorem State.interrupt_idle (s : State) {t : Thread} (hq : t.vq = []) : s.interrupt t = s.setThread { t with noAhead := false } := by
  simp [State.interrupt, Thread.interrupted_idle hq, Thread.earlyGranules, hq]

/-- A fault behind which no read lies leaves no mark. -/
theorem State.noteFault_none (s : State) {f : Flt} (hr : f.reads = []) : s.noteFault f = s := by
  simp [State.noteFault, hr, State.noteReads]

/-- A trap of a thread that has a handler and is not in it enters the handler; the reads behind its fault leave their marks and what has run ahead is
discarded. -/
theorem takeTrap_enters {s : State} {t : Thread} {f : Flt} (p : TrapPoint) (hd : delivery f = .handler) (hh : t.inHandler = false)
    (hv : t.trapVec ≠ 0) : takeTrap s t f p = ((s.noteFault f).interrupt t).setThread (t.interrupted.inHandlerAt f 0 p) := by
  have hc : ¬(t.interrupted.inHandler || decide (t.interrupted.trapVec = 0)) = true := by
    simp only [Thread.interrupted_inHandler, Thread.interrupted_trapVec, hh, Bool.false_or]
    exact fun e => hv (of_decide_eq_true e)
  have hn : delivery f.noted = .handler := hd
  rw [takeTrap, deliverTrap, hn]
  exact if_neg hc

/-- A trap of a thread without older vector instructions that has a handler and is not in it enters the handler. -/
theorem takeTrap_handler {s : State} {t : Thread} {f : Flt} (p : TrapPoint) (hd : delivery f = .handler) (hh : t.inHandler = false)
    (hv : t.trapVec ≠ 0) (hq : t.vq = []) :
    takeTrap s t f p = (s.noteFault f).setThread (Thread.inHandlerAt { t with noAhead := false } f 0 p) := by
  rw [takeTrap_enters p hd hh hv, State.interrupt_idle _ hq, Thread.interrupted_idle hq]
  exact State.setThread_setThread _ (by rfl)

/-- A trap of a thread without older vector instructions that is in its handler, or has none, is fatal. -/
theorem takeTrap_fatal {s : State} {t : Thread} {f : Flt} (p : TrapPoint) (hd : delivery f = .handler)
    (hf : t.inHandler = true ∨ t.trapVec = 0) (hq : t.vq = []) (hr : f.reads = []) :
    takeTrap s t f p =
      endFatal (s.setThread { t with noAhead := false, trap := trapRegs f 0 true p }) { t with noAhead := false, trap := trapRegs f 0 true p } f 0 := by
  have hn : f.noted = f := by
    cases f
    cases hr
    rfl
  have hc : (t.inHandler || decide (t.trapVec = 0)) = true := by
    rcases hf with h | h <;> simp [h]
  rw [takeTrap, State.noteFault_none s hr, State.interrupt_idle s hq, Thread.interrupted_idle hq, hn, deliverTrap, hd]
  exact (if_pos hc).trans (congrArg (endFatal · _ f 0) (State.setThread_setThread s (by rfl)))

/-! ### Accesses -/

theorem onAccess_ok {α : Type} (s : State) (t : Thread) (a : α) (k : α → State) : onAccess s t (.ok a) k = k a := rfl

theorem onAccess_fault {α : Type} (s : State) (t : Thread) (f : Flt) (k : α → State) : onAccess s t (.fault f) k = scalarTrap s t f := rfl

theorem onAccess_wait {α : Type} (s : State) (t : Thread) (k : α → State) : onAccess s t .wait k = s := rfl

end Sys2Proof.Machine
end

