-- ==== Sys2Proof/Laws/Claims.lean ====
section
/-! SUPPORT. The terms of claims for the updates that meanings make: one register written, one thread replaced, one write event. -/

namespace Sys2Proof

open Machine

theorem stepped_advance (t : Thread) (n : Nat) : Stepped t (t.advance n) n := ⟨rfl, rfl, rfl⟩

/-- Membership after a removal. -/
theorem NatSet.mem_remove (s : NatSet) (k j : Nat) : NatSet.mem (NatSet.remove s k) j = (NatSet.mem s j && j != k) := by
  unfold NatSet.mem NatSet.remove
  rw [Bool.eq_iff_iff]
  simp

/-- A write of a register that is not 0. -/
theorem setG_of_ne (t : Thread) {d : BitVec 7} (v : Dword) (hd : d ≠ 0) : t.setG d v =
    { t with scal := Sparse.set 0 t.scal (t.entryOf d) v, badScal := t.badScal.remove (t.entryOf d) } := if_neg hd

theorem wroteG_setG (t : Thread) (d : BitVec 7) (v : Dword) : WroteG t (t.setG d v) d v := by
  by_cases hd : d = 0
  · subst hd
    exact ⟨rfl, fun h => absurd rfl h, fun _ _ => ⟨rfl, rfl⟩, fun h => absurd rfl h⟩
  · refine ⟨rfl, fun _ => Thread.g_setG_same t v hd, fun k hk => ?_, fun _ => ?_⟩ <;> rw [setG_of_ne t v hd]
    · have hk : k ≠ t.entryOf d := hk.resolve_left hd
      exact ⟨Sparse.get_set_ne 0 t.scal v hk, by simp [NatSet.mem_remove, hk]⟩
    · simp [NatSet.mem_remove]

/-- A write of g(d) and the step past it. -/
theorem wrote_setG (t : Thread) (d : BitVec 7) (v : Dword) (n : Nat) : Wrote t ((t.setG d v).advance n) d v n := by
  have h : WroteG t ((t.setG d v).advance n) d v := wroteG_setG t d v
  by_cases hd : d = 0
  · subst hd
    exact ⟨rfl, rfl, h, rfl⟩
  · rw [setG_of_ne t v hd] at h ⊢
    exact ⟨rfl, rfl, h, rfl⟩

/-- Replacing a thread changes that thread alone. -/
theorem only_setThread {s : State} {t u : Thread} (h : s.thread? t.tid = some t) (e : u.tid = t.tid) : Only s (s.setThread u) t u :=
  ⟨e ▸ State.thread?_setThread_same (e.symm ▸ h), fun _ hne => State.thread?_setThread_ne s fun hh => hne (hh.symm.trans e), fun _ => rfl, rfl⟩

/-- An instruction that answers a state with its thread replaced completes. -/
theorem completes_setThread {i : Instr} {s : State} {t u : Thread} {P : Thread → Prop} (r : Runs s t)
    (h : exec i s = .next (s.setThread u)) (e : u.tid = t.tid) (p : P u) : Completes i s t P :=
  ⟨s.setThread u, u, h, only_setThread (Runs.found r) e, p⟩

@[simp] theorem tid_setG (t : Thread) (d : BitVec 7) (v : Dword) : (t.setG d v).tid = t.tid := by
  by_cases hd : d = 0
  · subst hd
    rfl
  · rw [setG_of_ne t v hd]

/-- An instruction that writes one register completes by that write. -/
theorem completes_writeOp {i : Instr} {s : State} {t : Thread} {reads : List (BitVec 7)} (r : Runs s t) (c : Clean t reads) (d : BitVec 7)
    (n : Nat) (f : Thread → Dword) (h : exec i s = writeOp s reads d n f) : Completes i s t fun u => Wrote t u d (f t) n :=
  completes_setThread r (h.trans (writeOp_clean r c d n f)) (tid_setG t d _) (wrote_setG t d (f t) n)

end Sys2Proof
end

