-- ==== Sys2Proof/Laws/Encode.lean ====
section
/-! SUPPORT. Fields of packed words, and decoding a run of slots that an instruction begins: what the per-instruction lemmas of the
round trip rest on. -/

namespace Sys2Proof

/-- The four bits that tell an L word from an instruction word. -/
theorem major_packRrr (m : BitVec 4) (b a d f : BitVec 7) : (packRrr m b a d f).extractLsb' 28 4 = m := by
  unfold packRrr
  ext i hi
  simp only [BitVec.getElem_extractLsb', BitVec.getLsbD_append]
  simp [show ¬28 + i < 7 by omega, show ¬28 + i - 7 < 7 by omega, show ¬28 + i - 7 - 7 < 7 by omega,
    show ¬28 + i - 7 - 7 - 7 < 7 by omega, show 28 + i - 7 - 7 - 7 - 7 = i by omega,
    BitVec.getLsbD_eq_getElem hi]

/-- Cutting a packed word gives back its fields. -/
theorem ofWord_packRrr (m : BitVec 4) (b a d f : BitVec 7) : Fields.ofWord (packRrr m b a d f) = ⟨m, b, a, d, f⟩ := by
  unfold Fields.ofWord
  rw [major_packRrr]
  unfold packRrr
  congr 1
  all_goals
    ext i hi
    simp only [BitVec.getElem_extractLsb', BitVec.getLsbD_append]
  · simp [show ¬21 + i < 7 by omega, show ¬21 + i - 7 < 7 by omega, show ¬21 + i - 7 - 7 < 7 by omega,
      show 21 + i - 7 - 7 - 7 = i by omega, hi]
  · simp [show ¬14 + i < 7 by omega, show ¬14 + i - 7 < 7 by omega, show 14 + i - 7 - 7 = i by omega, hi]
  · simp [show ¬7 + i < 7 by omega, show 7 + i - 7 = i by omega, hi]
  · simp [hi]

/-- The ext28 of an L word. -/
theorem ext_prefix (e : BitVec 28) : ((0xF : BitVec 4) ++ e).extractLsb' 0 28 = e := by
  ext i hi
  simp only [BitVec.getElem_extractLsb']
  erw [BitVec.getLsbD_append]
  simp [hi]

theorem major_prefix (e : BitVec 28) : ((0xF : BitVec 4) ++ e).extractLsb' 28 4 = 0xF := by
  ext i hi
  simp only [BitVec.getElem_extractLsb']
  erw [BitVec.getLsbD_append]
  simp [hi]

/-- The fields of an instruction word decoded, by its major. -/
noncomputable def decodeFields (f : Fields) (x : Option (BitVec 28)) (after : List Slot) : Except Reject Instr :=
  match f.major.toNat with
  | 0 => decodeSys f x
  | 1 => decodeAlu f x
  | 2 => decodeAlui f x
  | 3 => decodeUpper f x
  | 4 => decodeBr f x
  | 5 => decodeJmp f x
  | 6 => decodeLdst f x
  | 7 => decodeValu f x
  | 8 => decodeVfp f x
  | 9 => decodeVmisc f x (pairOf after)
  | 10 => decodeVmem f x
  | 11 => decodeMtx f x
  | 12 => decodeTag f x
  | 13 => decodeEng f x
  | 14 => decodeCfg f x
  | _ => .error .misplaced

theorem decodeWord_eq (w : Word) (x : Option (BitVec 28)) (after : List Slot) :
    decodeWord w x after = decodeFields (Fields.ofWord w) x after := rfl

/-- An instruction alone or under its L word, from the decoding of its fields. -/
theorem decode_withExt {x : Option (BitVec 28)} {m : BitVec 4} {b a d f : BitVec 7} {i : Instr} (hm : m ≠ 0xF)
    (hi : i.words = 1) (h : decodeFields ⟨m, b, a, d, f⟩ x [] = .ok i) :
    decode (withExt x (packRrr m b a d f)) [] = .ok (i, (withExt x (packRrr m b a d f)).length) := by
  cases x with
  | none =>
    have hb : ((packRrr m b a d f).extractLsb' 28 4 == (0xF : BitVec 4)) = false := by
      rw [major_packRrr]; simpa using hm
    simp only [withExt, decode, hb, following, decodeWord_eq, ofWord_packRrr, h, Except.map, hi, List.length_singleton]
    simp
  | some e =>
    have hb : ((0xF : BitVec 4) ++ e).extractLsb' 28 4 = 0xF := major_prefix e
    have hx : ((0xF : BitVec 4) ++ e).extractLsb' 0 28 = e := ext_prefix e
    simp only [withExt, decode, hb, hx, following, decodeWord_eq, ofWord_packRrr, h, Except.map, hi]
    simp

/-- A three-register instruction whose fields pass every check. -/
theorem checkRrr_ok {kd ka kb : FieldKind} {f : Fields} {x : Option (BitVec 28)} {extra : Bool} {i : Instr}
    (hu : (kd.unusedOk f.d && ka.unusedOk f.a && kb.unusedOk f.b) = true) (he : extra = false)
    (hx : (x.isSome && kb != .g) = false) (hr : (kd.inRange f.d && ka.inRange f.a && kb.inRange f.b) = true) :
    checkRrr kd ka kb f x extra i = .ok i := by
  simp [checkRrr, hu, he, hx, hr]

/-- A three-register instruction that the decoder checks, alone or under its L word. -/
theorem decode_checked {kd ka kb : FieldKind} {x : Option (BitVec 28)} {m : BitVec 4} {b a d f : BitVec 7} {i : Instr}
    (e : decodeFields ⟨m, b, a, d, f⟩ x [] = checkRrr kd ka kb ⟨m, b, a, d, f⟩ x false i) (hm : m ≠ 0xF) (hi : i.words = 1)
    (hu : (kd.unusedOk d && ka.unusedOk a && kb.unusedOk b) = true) (hx : (x.isSome && kb != .g) = false)
    (hr : (kd.inRange d && ka.inRange a && kb.inRange b) = true) :
    decode (withExt x (packRrr m b a d f)) [] = .ok (i, (withExt x (packRrr m b a d f)).length) :=
  decode_withExt hm hi (e.trans (checkRrr_ok hu rfl hx hr))

/-- A fused pair: its second word stands behind the first. -/
theorem decode_pair {x : Option (BitVec 28)} {m : BitVec 4} {b a d f : BitVec 7} {w : Slot} {i : Instr} (hm : m ≠ 0xF)
    (hi : i.words = 2) (h : decodeFields ⟨m, b, a, d, f⟩ x [w] = .ok i) :
    decode (withExt x (packRrr m b a d f) ++ [w]) [] = .ok (i, (withExt x (packRrr m b a d f) ++ [w]).length) := by
  cases x with
  | none =>
    have hb : ((packRrr m b a d f).extractLsb' 28 4 == (0xF : BitVec 4)) = false := by
      rw [major_packRrr]; simpa using hm
    simp only [withExt, decode, List.singleton_append, hb, following, decodeWord_eq, ofWord_packRrr, h, Except.map, hi]
    simp
  | some e =>
    have hb : ((0xF : BitVec 4) ++ e).extractLsb' 28 4 = 0xF := major_prefix e
    have hx : ((0xF : BitVec 4) ++ e).extractLsb' 0 28 = e := ext_prefix e
    simp only [withExt, decode, List.cons_append, List.nil_append, hb, hx, following, decodeWord_eq, ofWord_packRrr, h, Except.map, hi]
    simp

/-- imm11 and off11 put together from the fields of its word. -/
theorem append_imm11 (i : BitVec 11) (f : BitVec 3) :
    (i.extractLsb' 4 7 ++ (i.extractLsb' 0 4 ++ f : BitVec 7).extractLsb' 3 4 : BitVec 11) = i := by
  ext k hk
  simp only [BitVec.getElem_append, BitVec.getElem_extractLsb', BitVec.getLsbD_append]
  by_cases h : k < 4
  · simp [h, BitVec.getLsbD_eq_getElem hk]
  · simp [h, show 4 + (k - 4) = k by omega, BitVec.getLsbD_eq_getElem hk]

theorem func3_imm11 (i : BitVec 11) (f : BitVec 3) : (i.extractLsb' 0 4 ++ f : BitVec 7).extractLsb' 0 3 = f := by
  ext k hk
  simp only [BitVec.getElem_extractLsb']
  erw [BitVec.getLsbD_append]
  simp [hk]

/-- imm20 and off20 put together from the fields of its word. -/
theorem append_imm20 (i : BitVec 20) (f : BitVec 1) :
    (i.extractLsb' 13 7 ++ i.extractLsb' 6 7 ++ (i.extractLsb' 0 6 ++ f : BitVec 7).extractLsb' 1 6 : BitVec 20) = i := by
  ext k hk
  simp only [BitVec.getElem_append, BitVec.getElem_extractLsb', BitVec.getLsbD_append]
  by_cases h : k < 6
  · simp [h, BitVec.getLsbD_eq_getElem hk]
  · by_cases h2 : k - 6 < 7
    · simp [h, h2, show 6 + (k - 6) = k by omega, BitVec.getLsbD_eq_getElem hk]
    · simp [h, h2, show 13 + (k - 6 - 7) = k by omega, BitVec.getLsbD_eq_getElem hk]

theorem func1_imm20 (i : BitVec 20) (f : BitVec 1) : (i.extractLsb' 0 6 ++ f : BitVec 7).extractLsb' 0 1 = f := by
  ext k hk
  simp only [BitVec.getElem_extractLsb']
  erw [BitVec.getLsbD_append]
  simp [hk]

/-! Function codes read back from a packed word. -/

theorem func6_maskFunc (m : BitVec 4) (b a d : BitVec 7) (on : Bool) (k : BitVec 6) :
    Fields.func6 ⟨m, b, a, d, maskFunc on k⟩ = k.toNat := by
  have : ∀ (on : Bool) (k : BitVec 6), (maskFunc on k).extractLsb' 0 6 = k := by decide
  simp only [Fields.func6, this]

theorem m_maskFunc (m : BitVec 4) (b a d : BitVec 7) (on : Bool) (k : BitVec 6) : Fields.m ⟨m, b, a, d, maskFunc on k⟩ = on := by
  have : ∀ (on : Bool) (k : BitVec 6), ((maskFunc on k).extractLsb' 6 1 == 1) = on := by decide
  simp only [Fields.m, this]

theorem bits_cases (o : Order) : Order.ofBits o.bits = o := by cases o <;> rfl

theorem op5_order (m : BitVec 4) (b a d : BitVec 7) (k : BitVec 5) (c : BitVec 2) :
    Fields.op5 ⟨m, b, a, d, (k ++ c : BitVec 7)⟩ = k.toNat := by
  have : ∀ (k : BitVec 5) (c : BitVec 2), (k ++ c : BitVec 7).extractLsb' 2 5 = k := by decide
  simp only [Fields.op5, this]

theorem order_order (m : BitVec 4) (b a d : BitVec 7) (k : BitVec 5) (o : Order) :
    Fields.order ⟨m, b, a, d, (k ++ o.bits : BitVec 7)⟩ = o := by
  have : ∀ (k : BitVec 5) (c : BitVec 2), (k ++ c : BitVec 7).extractLsb' 0 2 = c := by decide
  simp only [Fields.order, this, bits_cases]

theorem low_order (k : BitVec 5) (c : BitVec 2) : (k ++ c : BitVec 7).extractLsb' 0 2 = c := by
  revert k c; decide

/-- The parts of an AMO's func7. -/
theorem amo_func (k : BitVec 3) (c : BitVec 2) (dev : Bool) :
    ((0 : BitVec 1) ++ k ++ c ++ BitVec.ofBool dev : BitVec 7).extractLsb' 6 1 = 0 ∧
      ((0 : BitVec 1) ++ k ++ c ++ BitVec.ofBool dev : BitVec 7).extractLsb' 3 3 = k ∧
      ((0 : BitVec 1) ++ k ++ c ++ BitVec.ofBool dev : BitVec 7).extractLsb' 1 2 = c ∧
      (((0 : BitVec 1) ++ k ++ c ++ BitVec.ofBool dev : BitVec 7).extractLsb' 0 1 == 1) = dev := by
  revert k c dev; decide

theorem append_csr (c : BitVec 14) : (c.extractLsb' 7 7 ++ c.extractLsb' 0 7 : BitVec 14) = c := by
  ext k hk
  simp only [BitVec.getElem_append, BitVec.getElem_extractLsb']
  by_cases h : k < 7
  · simp [h, BitVec.getLsbD_eq_getElem hk]
  · simp [h, show 7 + (k - 7) = k by omega, BitVec.getLsbD_eq_getElem hk]

/-- Every field is a legal literal up to 127. -/
theorem inRange_lit127 (f : BitVec 7) : FieldKind.inRange (.lit 127) f = true := by
  have := f.isLt
  simp only [FieldKind.inRange, decide_eq_true_eq]
  omega

end Sys2Proof
end

