-- ==== Sys2Proof/Laws/PerInstr.lean ====
section
/-! SUPPORT. The round trip of each instruction: decoding the slots that encode writes for it gives it back. -/

-- One theorem at a time: the check of many at once takes more memory than it may.
set_option Elab.async false

namespace Sys2Proof.Laws

/-- Decoding what encode writes for a well-formed instruction with an encoding gives the instruction, and all its slots. -/
def Encode.Statement (i : Instr) : Prop :=
  i.wf = true → encode i ≠ [] → decode (encode i) [] = .ok (i, (encode i).length)

theorem Encode.nop : Encode.Statement .nop := by
  intro _ _
  exact decode_checked (kd := .none) (ka := .none) (kb := .none) (x := none) (m := 0) (b := 0) (a := 0) (d := 0) (f := 0)
      (i := .nop) rfl (by decide) rfl rfl rfl rfl

theorem Encode.exit : Encode.Statement .exit := by
  intro _ _
  exact decode_checked (kd := .none) (ka := .none) (kb := .none) (x := none) (m := 0) (b := 0) (a := 0) (d := 0) (f := 1)
      (i := .exit) rfl (by decide) rfl rfl rfl rfl

theorem Encode.trap (n : BitVec 7) : Encode.Statement (.trap n) := by
  intro _ _
  exact decode_checked (kd := .none) (ka := (.lit 127)) (kb := .none) (x := none) (m := 0) (b := 0) (a := n) (d := 0) (f := 2)
      (i := (.trap n)) rfl (by decide) rfl rfl rfl (by rw [inRange_lit127]; rfl)

theorem Encode.ecall : Encode.Statement .ecall := by
  intro _ _
  exact decode_checked (kd := .none) (ka := .none) (kb := .none) (x := none) (m := 0) (b := 0) (a := 0) (d := 0) (f := 3)
      (i := .ecall) rfl (by decide) rfl rfl rfl rfl

theorem Encode.brk : Encode.Statement .brk := by
  intro _ _
  exact decode_checked (kd := .none) (ka := .none) (kb := .none) (x := none) (m := 0) (b := 0) (a := 0) (d := 0) (f := 4)
      (i := .brk) rfl (by decide) rfl rfl rfl rfl

theorem Encode.eret : Encode.Statement .eret := by
  intro _ _
  exact decode_checked (kd := .none) (ka := .none) (kb := .none) (x := none) (m := 0) (b := 0) (a := 0) (d := 0) (f := 5)
      (i := .eret) rfl (by decide) rfl rfl rfl rfl

theorem Encode.fence (kinds : BitVec 7) (scope : BitVec 7) : Encode.Statement (.fence kinds scope) := by
  intro h _
  have h : decide (scope.toNat ≤ 4) = true := h
  exact decode_checked (kd := .none) (ka := (.lit 127)) (kb := (.lit 4)) (x := none) (m := 0) (b := scope) (a := kinds) (d := 0) (f := 6)
      (i := (.fence kinds scope)) rfl (by decide) rfl rfl rfl (by rw [inRange_lit127]; exact h)

theorem Encode.fencesv (kind : BitVec 7) : Encode.Statement (.fencesv kind) := by
  intro h _
  have h : decide (kind.toNat < 32) = true := h
  exact decode_checked (kd := .none) (ka := (.lit 31)) (kb := .none) (x := none) (m := 0) (b := 0) (a := kind) (d := 0) (f := 7)
      (i := (.fencesv kind)) rfl (by decide) rfl rfl rfl (by rw [show FieldKind.inRange (.lit 31) kind = true from decide_eq_true (Nat.le_of_lt_succ (of_decide_eq_true h))]; rfl)

theorem Encode.barc : Encode.Statement .barc := by
  intro _ _
  exact decode_checked (kd := .none) (ka := .none) (kb := .none) (x := none) (m := 0) (b := 0) (a := 0) (d := 0) (f := 8)
      (i := .barc) rfl (by decide) rfl rfl rfl rfl

theorem Encode.barg : Encode.Statement .barg := by
  intro _ _
  exact decode_checked (kd := .none) (ka := .none) (kb := .none) (x := none) (m := 0) (b := 0) (a := 0) (d := 0) (f := 9)
      (i := .barg) rfl (by decide) rfl rfl rfl rfl

theorem Encode.bara (a : BitVec 7) : Encode.Statement (.bara a) := by
  intro _ _
  exact decode_checked (kd := .none) (ka := .g) (kb := .none) (x := none) (m := 0) (b := 0) (a := a) (d := 0) (f := 10)
      (i := (.bara a)) rfl (by decide) rfl rfl rfl rfl

theorem Encode.barw (a : BitVec 7) (b : Src) : Encode.Statement (.barw a b) := by
  intro _ _
  exact decode_checked (kd := .none) (ka := .g) (kb := .g) (x := b.ext) (m := 0) (b := b.field) (a := a) (d := 0) (f := 11)
      (i := (.barw a b)) rfl (by decide) rfl rfl (by cases b.ext <;> rfl) rfl

theorem Encode.yield : Encode.Statement .yield := by
  intro _ _
  exact decode_checked (kd := .none) (ka := .none) (kb := .none) (x := none) (m := 0) (b := 0) (a := 0) (d := 0) (f := 12)
      (i := .yield) rfl (by decide) rfl rfl rfl rfl

theorem Encode.pause : Encode.Statement .pause := by
  intro _ _
  exact decode_checked (kd := .none) (ka := .none) (kb := .none) (x := none) (m := 0) (b := 0) (a := 0) (d := 0) (f := 13)
      (i := .pause) rfl (by decide) rfl rfl rfl rfl

theorem Encode.kill (a : BitVec 7) : Encode.Statement (.kill a) := by
  intro _ _
  exact decode_checked (kd := .none) (ka := .g) (kb := .none) (x := none) (m := 0) (b := 0) (a := a) (d := 0) (f := 14)
      (i := (.kill a)) rfl (by decide) rfl rfl rfl rfl

theorem Encode.pubwm (d : BitVec 7) (a : BitVec 7) : Encode.Statement (.pubwm d a) := by
  intro _ _
  exact decode_checked (kd := .g) (ka := .g) (kb := .none) (x := none) (m := 0) (b := 0) (a := a) (d := d) (f := 15)
      (i := (.pubwm d a)) rfl (by decide) rfl rfl rfl rfl

theorem Encode.waitwm (d : BitVec 7) (a : BitVec 7) : Encode.Statement (.waitwm d a) := by
  intro _ _
  exact decode_checked (kd := .g) (ka := .g) (kb := .none) (x := none) (m := 0) (b := 0) (a := a) (d := d) (f := 16)
      (i := (.waitwm d a)) rfl (by decide) rfl rfl rfl rfl

theorem Encode.asw (a : BitVec 7) : Encode.Statement (.asw a) := by
  intro _ _
  exact decode_checked (kd := .none) (ka := .g) (kb := .none) (x := none) (m := 0) (b := 0) (a := a) (d := 0) (f := 17)
      (i := (.asw a)) rfl (by decide) rfl rfl rfl rfl

theorem Encode.tlbi (a : BitVec 7) (b : Src) : Encode.Statement (.tlbi a b) := by
  intro _ _
  exact decode_checked (kd := .none) (ka := .g) (kb := .g) (x := b.ext) (m := 0) (b := b.field) (a := a) (d := 0) (f := 18)
      (i := (.tlbi a b)) rfl (by decide) rfl rfl (by cases b.ext <;> rfl) rfl

theorem Encode.idle : Encode.Statement .idle := by
  intro _ _
  exact decode_checked (kd := .none) (ka := .none) (kb := .none) (x := none) (m := 0) (b := 0) (a := 0) (d := 0) (f := 19)
      (i := .idle) rfl (by decide) rfl rfl rfl rfl

theorem Encode.cyc (d : BitVec 7) : Encode.Statement (.cyc d) := by
  intro _ _
  exact decode_checked (kd := .g) (ka := .none) (kb := .none) (x := none) (m := 0) (b := 0) (a := 0) (d := d) (f := 20)
      (i := (.cyc d)) rfl (by decide) rfl rfl rfl rfl

theorem Encode.tid (d : BitVec 7) : Encode.Statement (.tid d) := by
  intro _ _
  exact decode_checked (kd := .g) (ka := .none) (kb := .none) (x := none) (m := 0) (b := 0) (a := 0) (d := d) (f := 21)
      (i := (.tid d)) rfl (by decide) rfl rfl rfl rfl

theorem Encode.hint (n : BitVec 4) (d : BitVec 7) (a : BitVec 7) (b : BitVec 7) : Encode.Statement (.hint n d a b) := by
  intro _ _
  obtain ⟨k, hk, rfl⟩ : ∃ k, k < 16 ∧ n = BitVec.ofNat 4 k := ⟨n.toNat, n.isLt, by simp⟩
  interval_cases k <;> (refine decode_withExt (x := none) (m := 0) (b := b) (a := a) (d := d) (f := ((7 : BitVec 3) ++ _)) (by decide) rfl ?_; simp [decodeFields, decodeSys])

theorem Encode.add (d : BitVec 7) (a : BitVec 7) (b : Src) : Encode.Statement (.add d a b) := by
  intro _ _
  exact decode_checked (kd := .g) (ka := .g) (kb := .g) (x := b.ext) (m := 1) (b := b.field) (a := a) (d := d) (f := 0)
      (i := (.add d a b)) rfl (by decide) rfl rfl (by cases b.ext <;> rfl) rfl

theorem Encode.sub (d : BitVec 7) (a : BitVec 7) (b : Src) : Encode.Statement (.sub d a b) := by
  intro _ _
  exact decode_checked (kd := .g) (ka := .g) (kb := .g) (x := b.ext) (m := 1) (b := b.field) (a := a) (d := d) (f := 1)
      (i := (.sub d a b)) rfl (by decide) rfl rfl (by cases b.ext <;> rfl) rfl

theorem Encode.and (d : BitVec 7) (a : BitVec 7) (b : Src) : Encode.Statement (.and d a b) := by
  intro _ _
  exact decode_checked (kd := .g) (ka := .g) (kb := .g) (x := b.ext) (m := 1) (b := b.field) (a := a) (d := d) (f := 2)
      (i := (.and d a b)) rfl (by decide) rfl rfl (by cases b.ext <;> rfl) rfl

theorem Encode.or (d : BitVec 7) (a : BitVec 7) (b : Src) : Encode.Statement (.or d a b) := by
  intro _ _
  exact decode_checked (kd := .g) (ka := .g) (kb := .g) (x := b.ext) (m := 1) (b := b.field) (a := a) (d := d) (f := 3)
      (i := (.or d a b)) rfl (by decide) rfl rfl (by cases b.ext <;> rfl) rfl

theorem Encode.xor (d : BitVec 7) (a : BitVec 7) (b : Src) : Encode.Statement (.xor d a b) := by
  intro _ _
  exact decode_checked (kd := .g) (ka := .g) (kb := .g) (x := b.ext) (m := 1) (b := b.field) (a := a) (d := d) (f := 4)
      (i := (.xor d a b)) rfl (by decide) rfl rfl (by cases b.ext <;> rfl) rfl

theorem Encode.andn (d : BitVec 7) (a : BitVec 7) (b : Src) : Encode.Statement (.andn d a b) := by
  intro _ _
  exact decode_checked (kd := .g) (ka := .g) (kb := .g) (x := b.ext) (m := 1) (b := b.field) (a := a) (d := d) (f := 5)
      (i := (.andn d a b)) rfl (by decide) rfl rfl (by cases b.ext <;> rfl) rfl

theorem Encode.orn (d : BitVec 7) (a : BitVec 7) (b : Src) : Encode.Statement (.orn d a b) := by
  intro _ _
  exact decode_checked (kd := .g) (ka := .g) (kb := .g) (x := b.ext) (m := 1) (b := b.field) (a := a) (d := d) (f := 6)
      (i := (.orn d a b)) rfl (by decide) rfl rfl (by cases b.ext <;> rfl) rfl

theorem Encode.sll (d : BitVec 7) (a : BitVec 7) (b : Src) : Encode.Statement (.sll d a b) := by
  intro _ _
  exact decode_checked (kd := .g) (ka := .g) (kb := .g) (x := b.ext) (m := 1) (b := b.field) (a := a) (d := d) (f := 7)
      (i := (.sll d a b)) rfl (by decide) rfl rfl (by cases b.ext <;> rfl) rfl

theorem Encode.srl (d : BitVec 7) (a : BitVec 7) (b : Src) : Encode.Statement (.srl d a b) := by
  intro _ _
  exact decode_checked (kd := .g) (ka := .g) (kb := .g) (x := b.ext) (m := 1) (b := b.field) (a := a) (d := d) (f := 8)
      (i := (.srl d a b)) rfl (by decide) rfl rfl (by cases b.ext <;> rfl) rfl

theorem Encode.sra (d : BitVec 7) (a : BitVec 7) (b : Src) : Encode.Statement (.sra d a b) := by
  intro _ _
  exact decode_checked (kd := .g) (ka := .g) (kb := .g) (x := b.ext) (m := 1) (b := b.field) (a := a) (d := d) (f := 9)
      (i := (.sra d a b)) rfl (by decide) rfl rfl (by cases b.ext <;> rfl) rfl

theorem Encode.ror (d : BitVec 7) (a : BitVec 7) (b : Src) : Encode.Statement (.ror d a b) := by
  intro _ _
  exact decode_checked (kd := .g) (ka := .g) (kb := .g) (x := b.ext) (m := 1) (b := b.field) (a := a) (d := d) (f := 10)
      (i := (.ror d a b)) rfl (by decide) rfl rfl (by cases b.ext <;> rfl) rfl

theorem Encode.mul (d : BitVec 7) (a : BitVec 7) (b : Src) : Encode.Statement (.mul d a b) := by
  intro _ _
  exact decode_checked (kd := .g) (ka := .g) (kb := .g) (x := b.ext) (m := 1) (b := b.field) (a := a) (d := d) (f := 11)
      (i := (.mul d a b)) rfl (by decide) rfl rfl (by cases b.ext <;> rfl) rfl

theorem Encode.mulh (d : BitVec 7) (a : BitVec 7) (b : Src) : Encode.Statement (.mulh d a b) := by
  intro _ _
  exact decode_checked (kd := .g) (ka := .g) (kb := .g) (x := b.ext) (m := 1) (b := b.field) (a := a) (d := d) (f := 12)
      (i := (.mulh d a b)) rfl (by decide) rfl rfl (by cases b.ext <;> rfl) rfl

theorem Encode.mulhn (d : BitVec 7) (a : BitVec 7) (b : Src) : Encode.Statement (.mulhn d a b) := by
  intro _ _
  exact decode_checked (kd := .g) (ka := .g) (kb := .g) (x := b.ext) (m := 1) (b := b.field) (a := a) (d := d) (f := 13)
      (i := (.mulhn d a b)) rfl (by decide) rfl rfl (by cases b.ext <;> rfl) rfl

theorem Encode.div (d : BitVec 7) (a : BitVec 7) (b : Src) : Encode.Statement (.div d a b) := by
  intro _ _
  exact decode_checked (kd := .g) (ka := .g) (kb := .g) (x := b.ext) (m := 1) (b := b.field) (a := a) (d := d) (f := 14)
      (i := (.div d a b)) rfl (by decide) rfl rfl (by cases b.ext <;> rfl) rfl

theorem Encode.divn (d : BitVec 7) (a : BitVec 7) (b : Src) : Encode.Statement (.divn d a b) := by
  intro _ _
  exact decode_checked (kd := .g) (ka := .g) (kb := .g) (x := b.ext) (m := 1) (b := b.field) (a := a) (d := d) (f := 15)
      (i := (.divn d a b)) rfl (by decide) rfl rfl (by cases b.ext <;> rfl) rfl

theorem Encode.rem (d : BitVec 7) (a : BitVec 7) (b : Src) : Encode.Statement (.rem d a b) := by
  intro _ _
  exact decode_checked (kd := .g) (ka := .g) (kb := .g) (x := b.ext) (m := 1) (b := b.field) (a := a) (d := d) (f := 16)
      (i := (.rem d a b)) rfl (by decide) rfl rfl (by cases b.ext <;> rfl) rfl

theorem Encode.remn (d : BitVec 7) (a : BitVec 7) (b : Src) : Encode.Statement (.remn d a b) := by
  intro _ _
  exact decode_checked (kd := .g) (ka := .g) (kb := .g) (x := b.ext) (m := 1) (b := b.field) (a := a) (d := d) (f := 17)
      (i := (.remn d a b)) rfl (by decide) rfl rfl (by cases b.ext <;> rfl) rfl

theorem Encode.min (d : BitVec 7) (a : BitVec 7) (b : Src) : Encode.Statement (.min d a b) := by
  intro _ _
  exact decode_checked (kd := .g) (ka := .g) (kb := .g) (x := b.ext) (m := 1) (b := b.field) (a := a) (d := d) (f := 18)
      (i := (.min d a b)) rfl (by decide) rfl rfl (by cases b.ext <;> rfl) rfl

theorem Encode.max (d : BitVec 7) (a : BitVec 7) (b : Src) : Encode.Statement (.max d a b) := by
  intro _ _
  exact decode_checked (kd := .g) (ka := .g) (kb := .g) (x := b.ext) (m := 1) (b := b.field) (a := a) (d := d) (f := 19)
      (i := (.max d a b)) rfl (by decide) rfl rfl (by cases b.ext <;> rfl) rfl

theorem Encode.minn (d : BitVec 7) (a : BitVec 7) (b : Src) : Encode.Statement (.minn d a b) := by
  intro _ _
  exact decode_checked (kd := .g) (ka := .g) (kb := .g) (x := b.ext) (m := 1) (b := b.field) (a := a) (d := d) (f := 20)
      (i := (.minn d a b)) rfl (by decide) rfl rfl (by cases b.ext <;> rfl) rfl

theorem Encode.maxn (d : BitVec 7) (a : BitVec 7) (b : Src) : Encode.Statement (.maxn d a b) := by
  intro _ _
  exact decode_checked (kd := .g) (ka := .g) (kb := .g) (x := b.ext) (m := 1) (b := b.field) (a := a) (d := d) (f := 21)
      (i := (.maxn d a b)) rfl (by decide) rfl rfl (by cases b.ext <;> rfl) rfl

theorem Encode.slt (d : BitVec 7) (a : BitVec 7) (b : Src) : Encode.Statement (.slt d a b) := by
  intro _ _
  exact decode_checked (kd := .g) (ka := .g) (kb := .g) (x := b.ext) (m := 1) (b := b.field) (a := a) (d := d) (f := 22)
      (i := (.slt d a b)) rfl (by decide) rfl rfl (by cases b.ext <;> rfl) rfl

theorem Encode.sltn (d : BitVec 7) (a : BitVec 7) (b : Src) : Encode.Statement (.sltn d a b) := by
  intro _ _
  exact decode_checked (kd := .g) (ka := .g) (kb := .g) (x := b.ext) (m := 1) (b := b.field) (a := a) (d := d) (f := 23)
      (i := (.sltn d a b)) rfl (by decide) rfl rfl (by cases b.ext <;> rfl) rfl

theorem Encode.seq (d : BitVec 7) (a : BitVec 7) (b : Src) : Encode.Statement (.seq d a b) := by
  intro _ _
  exact decode_checked (kd := .g) (ka := .g) (kb := .g) (x := b.ext) (m := 1) (b := b.field) (a := a) (d := d) (f := 24)
      (i := (.seq d a b)) rfl (by decide) rfl rfl (by cases b.ext <;> rfl) rfl

theorem Encode.sne (d : BitVec 7) (a : BitVec 7) (b : Src) : Encode.Statement (.sne d a b) := by
  intro _ _
  exact decode_checked (kd := .g) (ka := .g) (kb := .g) (x := b.ext) (m := 1) (b := b.field) (a := a) (d := d) (f := 25)
      (i := (.sne d a b)) rfl (by decide) rfl rfl (by cases b.ext <;> rfl) rfl

theorem Encode.clz (d : BitVec 7) (a : BitVec 7) : Encode.Statement (.clz d a) := by
  intro _ _
  exact decode_checked (kd := .g) (ka := .g) (kb := .none) (x := none) (m := 1) (b := 0) (a := a) (d := d) (f := 26)
      (i := (.clz d a)) rfl (by decide) rfl rfl rfl rfl

theorem Encode.ctz (d : BitVec 7) (a : BitVec 7) : Encode.Statement (.ctz d a) := by
  intro _ _
  exact decode_checked (kd := .g) (ka := .g) (kb := .none) (x := none) (m := 1) (b := 0) (a := a) (d := d) (f := 27)
      (i := (.ctz d a)) rfl (by decide) rfl rfl rfl rfl

theorem Encode.popc (d : BitVec 7) (a : BitVec 7) : Encode.Statement (.popc d a) := by
  intro _ _
  exact decode_checked (kd := .g) (ka := .g) (kb := .none) (x := none) (m := 1) (b := 0) (a := a) (d := d) (f := 28)
      (i := (.popc d a)) rfl (by decide) rfl rfl rfl rfl

theorem Encode.bfx (d : BitVec 7) (a : BitVec 7) (b : Src) : Encode.Statement (.bfx d a b) := by
  intro _ _
  exact decode_checked (kd := .g) (ka := .g) (kb := .g) (x := b.ext) (m := 1) (b := b.field) (a := a) (d := d) (f := 29)
      (i := (.bfx d a b)) rfl (by decide) rfl rfl (by cases b.ext <;> rfl) rfl

theorem Encode.bfi (d : BitVec 7) (a : BitVec 7) (b : Src) : Encode.Statement (.bfi d a b) := by
  intro _ _
  exact decode_checked (kd := .g) (ka := .g) (kb := .g) (x := b.ext) (m := 1) (b := b.field) (a := a) (d := d) (f := 30)
      (i := (.bfi d a b)) rfl (by decide) rfl rfl (by cases b.ext <;> rfl) rfl

theorem Encode.addi (d : BitVec 7) (a : BitVec 7) (imm : Imm11) : Encode.Statement (.addi d a imm) := by
  intro _ _
  refine decode_withExt (x := imm.ext) (m := 2) (b := (imm.low.extractLsb' 4 7)) (a := a) (d := d) (f := (imm.low.extractLsb' 0 4 ++ (0 : BitVec 3))) (by decide) rfl ?_
  simp only [decodeFields, decodeAlui, Fields.imm11, func3_imm11, append_imm11]
  rfl

theorem Encode.andi (d : BitVec 7) (a : BitVec 7) (imm : Imm11) : Encode.Statement (.andi d a imm) := by
  intro _ _
  refine decode_withExt (x := imm.ext) (m := 2) (b := (imm.low.extractLsb' 4 7)) (a := a) (d := d) (f := (imm.low.extractLsb' 0 4 ++ (1 : BitVec 3))) (by decide) rfl ?_
  simp only [decodeFields, decodeAlui, Fields.imm11, func3_imm11, append_imm11]
  rfl

theorem Encode.ori (d : BitVec 7) (a : BitVec 7) (imm : Imm11) : Encode.Statement (.ori d a imm) := by
  intro _ _
  refine decode_withExt (x := imm.ext) (m := 2) (b := (imm.low.extractLsb' 4 7)) (a := a) (d := d) (f := (imm.low.extractLsb' 0 4 ++ (2 : BitVec 3))) (by decide) rfl ?_
  simp only [decodeFields, decodeAlui, Fields.imm11, func3_imm11, append_imm11]
  rfl

theorem Encode.xori (d : BitVec 7) (a : BitVec 7) (imm : Imm11) : Encode.Statement (.xori d a imm) := by
  intro _ _
  refine decode_withExt (x := imm.ext) (m := 2) (b := (imm.low.extractLsb' 4 7)) (a := a) (d := d) (f := (imm.low.extractLsb' 0 4 ++ (3 : BitVec 3))) (by decide) rfl ?_
  simp only [decodeFields, decodeAlui, Fields.imm11, func3_imm11, append_imm11]
  rfl

theorem Encode.slli (d : BitVec 7) (a : BitVec 7) (imm : Imm11) : Encode.Statement (.slli d a imm) := by
  intro h _
  have h : decide (imm.value.toNat < 64) = true := h
  refine decode_withExt (x := imm.ext) (m := 2) (b := (imm.low.extractLsb' 4 7)) (a := a) (d := d) (f := (imm.low.extractLsb' 0 4 ++ (4 : BitVec 3))) (by decide) rfl ?_
  simp only [decodeFields, decodeAlui, Fields.imm11, func3_imm11, append_imm11]
  exact if_pos (of_decide_eq_true h)

theorem Encode.srli (d : BitVec 7) (a : BitVec 7) (imm : Imm11) : Encode.Statement (.srli d a imm) := by
  intro h _
  have h : decide (imm.value.toNat < 64) = true := h
  refine decode_withExt (x := imm.ext) (m := 2) (b := (imm.low.extractLsb' 4 7)) (a := a) (d := d) (f := (imm.low.extractLsb' 0 4 ++ (5 : BitVec 3))) (by decide) rfl ?_
  simp only [decodeFields, decodeAlui, Fields.imm11, func3_imm11, append_imm11]
  exact if_pos (of_decide_eq_true h)

theorem Encode.srai (d : BitVec 7) (a : BitVec 7) (imm : Imm11) : Encode.Statement (.srai d a imm) := by
  intro h _
  have h : decide (imm.value.toNat < 64) = true := h
  refine decode_withExt (x := imm.ext) (m := 2) (b := (imm.low.extractLsb' 4 7)) (a := a) (d := d) (f := (imm.low.extractLsb' 0 4 ++ (6 : BitVec 3))) (by decide) rfl ?_
  simp only [decodeFields, decodeAlui, Fields.imm11, func3_imm11, append_imm11]
  exact if_pos (of_decide_eq_true h)

theorem Encode.slti (d : BitVec 7) (a : BitVec 7) (imm : Imm11) : Encode.Statement (.slti d a imm) := by
  intro _ _
  refine decode_withExt (x := imm.ext) (m := 2) (b := (imm.low.extractLsb' 4 7)) (a := a) (d := d) (f := (imm.low.extractLsb' 0 4 ++ (7 : BitVec 3))) (by decide) rfl ?_
  simp only [decodeFields, decodeAlui, Fields.imm11, func3_imm11, append_imm11]
  rfl

theorem Encode.lih (d : BitVec 7) (imm : Imm20) : Encode.Statement (.lih d imm) := by
  intro _ _
  refine decode_withExt (x := imm.ext) (m := 3) (b := (imm.low.extractLsb' 13 7)) (a := (imm.low.extractLsb' 6 7)) (d := d) (f := (imm.low.extractLsb' 0 6 ++ (0 : BitVec 1))) (by decide) rfl ?_
  simp only [decodeFields, decodeUpper, Fields.imm20, func1_imm20, append_imm20]
  rfl

theorem Encode.addpc (d : BitVec 7) (imm : Imm20) : Encode.Statement (.addpc d imm) := by
  intro _ _
  refine decode_withExt (x := imm.ext) (m := 3) (b := (imm.low.extractLsb' 13 7)) (a := (imm.low.extractLsb' 6 7)) (d := d) (f := (imm.low.extractLsb' 0 6 ++ (1 : BitVec 1))) (by decide) rfl ?_
  simp only [decodeFields, decodeUpper, Fields.imm20, func1_imm20, append_imm20]
  rfl

theorem Encode.beq (a : BitVec 7) (b : BitVec 7) (off : Imm11) : Encode.Statement (.beq a b off) := by
  intro _ _
  refine decode_withExt (x := off.ext) (m := 4) (b := b) (a := a) (d := (off.low.extractLsb' 4 7)) (f := (off.low.extractLsb' 0 4 ++ (0 : BitVec 3))) (by decide) rfl ?_
  simp only [decodeFields, decodeBr, Fields.off11, func3_imm11, append_imm11]
  rfl

theorem Encode.bne (a : BitVec 7) (b : BitVec 7) (off : Imm11) : Encode.Statement (.bne a b off) := by
  intro _ _
  refine decode_withExt (x := off.ext) (m := 4) (b := b) (a := a) (d := (off.low.extractLsb' 4 7)) (f := (off.low.extractLsb' 0 4 ++ (1 : BitVec 3))) (by decide) rfl ?_
  simp only [decodeFields, decodeBr, Fields.off11, func3_imm11, append_imm11]
  rfl

theorem Encode.blt (a : BitVec 7) (b : BitVec 7) (off : Imm11) : Encode.Statement (.blt a b off) := by
  intro _ _
  refine decode_withExt (x := off.ext) (m := 4) (b := b) (a := a) (d := (off.low.extractLsb' 4 7)) (f := (off.low.extractLsb' 0 4 ++ (2 : BitVec 3))) (by decide) rfl ?_
  simp only [decodeFields, decodeBr, Fields.off11, func3_imm11, append_imm11]
  rfl

theorem Encode.bge (a : BitVec 7) (b : BitVec 7) (off : Imm11) : Encode.Statement (.bge a b off) := by
  intro _ _
  refine decode_withExt (x := off.ext) (m := 4) (b := b) (a := a) (d := (off.low.extractLsb' 4 7)) (f := (off.low.extractLsb' 0 4 ++ (3 : BitVec 3))) (by decide) rfl ?_
  simp only [decodeFields, decodeBr, Fields.off11, func3_imm11, append_imm11]
  rfl

theorem Encode.bltn (a : BitVec 7) (b : BitVec 7) (off : Imm11) : Encode.Statement (.bltn a b off) := by
  intro _ _
  refine decode_withExt (x := off.ext) (m := 4) (b := b) (a := a) (d := (off.low.extractLsb' 4 7)) (f := (off.low.extractLsb' 0 4 ++ (4 : BitVec 3))) (by decide) rfl ?_
  simp only [decodeFields, decodeBr, Fields.off11, func3_imm11, append_imm11]
  rfl

theorem Encode.bgen (a : BitVec 7) (b : BitVec 7) (off : Imm11) : Encode.Statement (.bgen a b off) := by
  intro _ _
  refine decode_withExt (x := off.ext) (m := 4) (b := b) (a := a) (d := (off.low.extractLsb' 4 7)) (f := (off.low.extractLsb' 0 4 ++ (5 : BitVec 3))) (by decide) rfl ?_
  simp only [decodeFields, decodeBr, Fields.off11, func3_imm11, append_imm11]
  rfl

theorem Encode.bbs (a : BitVec 7) (n : BitVec 7) (off : Imm11) : Encode.Statement (.bbs a n off) := by
  intro h _
  have h : decide (n.toNat < 64) = true := h
  refine decode_withExt (x := off.ext) (m := 4) (b := n) (a := a) (d := (off.low.extractLsb' 4 7)) (f := (off.low.extractLsb' 0 4 ++ (6 : BitVec 3))) (by decide) rfl ?_
  simp only [decodeFields, decodeBr, Fields.off11, func3_imm11, append_imm11]
  exact if_pos (of_decide_eq_true h)

theorem Encode.bbc (a : BitVec 7) (n : BitVec 7) (off : Imm11) : Encode.Statement (.bbc a n off) := by
  intro h _
  have h : decide (n.toNat < 64) = true := h
  refine decode_withExt (x := off.ext) (m := 4) (b := n) (a := a) (d := (off.low.extractLsb' 4 7)) (f := (off.low.extractLsb' 0 4 ++ (7 : BitVec 3))) (by decide) rfl ?_
  simp only [decodeFields, decodeBr, Fields.off11, func3_imm11, append_imm11]
  exact if_pos (of_decide_eq_true h)

theorem Encode.jal (d : BitVec 7) (off : Imm20) : Encode.Statement (.jal d off) := by
  intro _ _
  refine decode_withExt (x := off.ext) (m := 5) (b := (off.low.extractLsb' 13 7)) (a := (off.low.extractLsb' 6 7)) (d := d) (f := (off.low.extractLsb' 0 6 ++ (0 : BitVec 1))) (by decide) rfl ?_
  simp only [decodeFields, decodeJmp, Fields.imm20, func1_imm20, append_imm20]
  rfl

theorem Encode.jalr (d : BitVec 7) (a : BitVec 7) : Encode.Statement (.jalr d a) := by
  intro _ _
  exact decode_withExt (x := none) (m := 5) (b := a) (a := 0) (d := d) (f := 1) (by decide) rfl (by with_unfolding_all rfl)

theorem Encode.ldd (d : BitVec 7) (a : BitVec 7) (imm : Imm11) : Encode.Statement (.ldd d a imm) := by
  intro _ _
  refine decode_withExt (x := imm.ext) (m := 6) (b := (imm.low.extractLsb' 4 7)) (a := a) (d := d) (f := (imm.low.extractLsb' 0 4 ++ (0 : BitVec 3))) (by decide) rfl ?_
  simp only [decodeFields, decodeLdst, Fields.imm11, func3_imm11, append_imm11]
  rfl

theorem Encode.ldw (d : BitVec 7) (a : BitVec 7) (imm : Imm11) : Encode.Statement (.ldw d a imm) := by
  intro _ _
  refine decode_withExt (x := imm.ext) (m := 6) (b := (imm.low.extractLsb' 4 7)) (a := a) (d := d) (f := (imm.low.extractLsb' 0 4 ++ (1 : BitVec 3))) (by decide) rfl ?_
  simp only [decodeFields, decodeLdst, Fields.imm11, func3_imm11, append_imm11]
  rfl

theorem Encode.ldh (d : BitVec 7) (a : BitVec 7) (imm : Imm11) : Encode.Statement (.ldh d a imm) := by
  intro _ _
  refine decode_withExt (x := imm.ext) (m := 6) (b := (imm.low.extractLsb' 4 7)) (a := a) (d := d) (f := (imm.low.extractLsb' 0 4 ++ (2 : BitVec 3))) (by decide) rfl ?_
  simp only [decodeFields, decodeLdst, Fields.imm11, func3_imm11, append_imm11]
  rfl

theorem Encode.ldb (d : BitVec 7) (a : BitVec 7) (imm : Imm11) : Encode.Statement (.ldb d a imm) := by
  intro _ _
  refine decode_withExt (x := imm.ext) (m := 6) (b := (imm.low.extractLsb' 4 7)) (a := a) (d := d) (f := (imm.low.extractLsb' 0 4 ++ (3 : BitVec 3))) (by decide) rfl ?_
  simp only [decodeFields, decodeLdst, Fields.imm11, func3_imm11, append_imm11]
  rfl

theorem Encode.std (d : BitVec 7) (a : BitVec 7) (imm : Imm11) : Encode.Statement (.std d a imm) := by
  intro _ _
  refine decode_withExt (x := imm.ext) (m := 6) (b := (imm.low.extractLsb' 4 7)) (a := a) (d := d) (f := (imm.low.extractLsb' 0 4 ++ (4 : BitVec 3))) (by decide) rfl ?_
  simp only [decodeFields, decodeLdst, Fields.imm11, func3_imm11, append_imm11]
  rfl

theorem Encode.stw (d : BitVec 7) (a : BitVec 7) (imm : Imm11) : Encode.Statement (.stw d a imm) := by
  intro _ _
  refine decode_withExt (x := imm.ext) (m := 6) (b := (imm.low.extractLsb' 4 7)) (a := a) (d := d) (f := (imm.low.extractLsb' 0 4 ++ (5 : BitVec 3))) (by decide) rfl ?_
  simp only [decodeFields, decodeLdst, Fields.imm11, func3_imm11, append_imm11]
  rfl

theorem Encode.sth (d : BitVec 7) (a : BitVec 7) (imm : Imm11) : Encode.Statement (.sth d a imm) := by
  intro _ _
  refine decode_withExt (x := imm.ext) (m := 6) (b := (imm.low.extractLsb' 4 7)) (a := a) (d := d) (f := (imm.low.extractLsb' 0 4 ++ (6 : BitVec 3))) (by decide) rfl ?_
  simp only [decodeFields, decodeLdst, Fields.imm11, func3_imm11, append_imm11]
  rfl

theorem Encode.stb (d : BitVec 7) (a : BitVec 7) (imm : Imm11) : Encode.Statement (.stb d a imm) := by
  intro _ _
  refine decode_withExt (x := imm.ext) (m := 6) (b := (imm.low.extractLsb' 4 7)) (a := a) (d := d) (f := (imm.low.extractLsb' 0 4 ++ (7 : BitVec 3))) (by decide) rfl ?_
  simp only [decodeFields, decodeLdst, Fields.imm11, func3_imm11, append_imm11]
  rfl

theorem Encode.amoadd (d : BitVec 7) (a : BitVec 7) (b : Src) (o : Order) (dev : Bool) : Encode.Statement (.amoadd d a b o dev) := by
  intro _ _
  exact decode_checked (kd := .g) (ka := .g) (kb := .g) (x := b.ext) (m := 14) (b := b.field) (a := a) (d := d) (f := ((0 : BitVec 1) ++ (0 : BitVec 3) ++ o.bits ++ BitVec.ofBool dev))
      (i := (.amoadd d a b o dev)) (by
      obtain ⟨hm, hk, hc, hd⟩ := amo_func (0 : BitVec 3) o.bits dev
      simp only [decodeFields, decodeCfg, decodeAmo, Fields.m, hm, hk, hc, hd, bits_cases]; rfl) (by decide) rfl rfl (by cases b.ext <;> rfl) rfl

theorem Encode.amoswp (d : BitVec 7) (a : BitVec 7) (b : Src) (o : Order) (dev : Bool) : Encode.Statement (.amoswp d a b o dev) := by
  intro _ _
  exact decode_checked (kd := .g) (ka := .g) (kb := .g) (x := b.ext) (m := 14) (b := b.field) (a := a) (d := d) (f := ((0 : BitVec 1) ++ (1 : BitVec 3) ++ o.bits ++ BitVec.ofBool dev))
      (i := (.amoswp d a b o dev)) (by
      obtain ⟨hm, hk, hc, hd⟩ := amo_func (1 : BitVec 3) o.bits dev
      simp only [decodeFields, decodeCfg, decodeAmo, Fields.m, hm, hk, hc, hd, bits_cases]; rfl) (by decide) rfl rfl (by cases b.ext <;> rfl) rfl

theorem Encode.amocas (d : BitVec 7) (a : BitVec 7) (b : Src) (o : Order) (dev : Bool) : Encode.Statement (.amocas d a b o dev) := by
  intro _ _
  exact decode_checked (kd := .g) (ka := .g) (kb := .g) (x := b.ext) (m := 14) (b := b.field) (a := a) (d := d) (f := ((0 : BitVec 1) ++ (2 : BitVec 3) ++ o.bits ++ BitVec.ofBool dev))
      (i := (.amocas d a b o dev)) (by
      obtain ⟨hm, hk, hc, hd⟩ := amo_func (2 : BitVec 3) o.bits dev
      simp only [decodeFields, decodeCfg, decodeAmo, Fields.m, hm, hk, hc, hd, bits_cases]; rfl) (by decide) rfl rfl (by cases b.ext <;> rfl) rfl

theorem Encode.amoand (d : BitVec 7) (a : BitVec 7) (b : Src) (o : Order) (dev : Bool) : Encode.Statement (.amoand d a b o dev) := by
  intro _ _
  exact decode_checked (kd := .g) (ka := .g) (kb := .g) (x := b.ext) (m := 14) (b := b.field) (a := a) (d := d) (f := ((0 : BitVec 1) ++ (3 : BitVec 3) ++ o.bits ++ BitVec.ofBool dev))
      (i := (.amoand d a b o dev)) (by
      obtain ⟨hm, hk, hc, hd⟩ := amo_func (3 : BitVec 3) o.bits dev
      simp only [decodeFields, decodeCfg, decodeAmo, Fields.m, hm, hk, hc, hd, bits_cases]; rfl) (by decide) rfl rfl (by cases b.ext <;> rfl) rfl

theorem Encode.amoor (d : BitVec 7) (a : BitVec 7) (b : Src) (o : Order) (dev : Bool) : Encode.Statement (.amoor d a b o dev) := by
  intro _ _
  exact decode_checked (kd := .g) (ka := .g) (kb := .g) (x := b.ext) (m := 14) (b := b.field) (a := a) (d := d) (f := ((0 : BitVec 1) ++ (4 : BitVec 3) ++ o.bits ++ BitVec.ofBool dev))
      (i := (.amoor d a b o dev)) (by
      obtain ⟨hm, hk, hc, hd⟩ := amo_func (4 : BitVec 3) o.bits dev
      simp only [decodeFields, decodeCfg, decodeAmo, Fields.m, hm, hk, hc, hd, bits_cases]; rfl) (by decide) rfl rfl (by cases b.ext <;> rfl) rfl

theorem Encode.amoxor (d : BitVec 7) (a : BitVec 7) (b : Src) (o : Order) (dev : Bool) : Encode.Statement (.amoxor d a b o dev) := by
  intro _ _
  exact decode_checked (kd := .g) (ka := .g) (kb := .g) (x := b.ext) (m := 14) (b := b.field) (a := a) (d := d) (f := ((0 : BitVec 1) ++ (5 : BitVec 3) ++ o.bits ++ BitVec.ofBool dev))
      (i := (.amoxor d a b o dev)) (by
      obtain ⟨hm, hk, hc, hd⟩ := amo_func (5 : BitVec 3) o.bits dev
      simp only [decodeFields, decodeCfg, decodeAmo, Fields.m, hm, hk, hc, hd, bits_cases]; rfl) (by decide) rfl rfl (by cases b.ext <;> rfl) rfl

theorem Encode.amomin (d : BitVec 7) (a : BitVec 7) (b : Src) (o : Order) (dev : Bool) : Encode.Statement (.amomin d a b o dev) := by
  intro _ _
  exact decode_checked (kd := .g) (ka := .g) (kb := .g) (x := b.ext) (m := 14) (b := b.field) (a := a) (d := d) (f := ((0 : BitVec 1) ++ (6 : BitVec 3) ++ o.bits ++ BitVec.ofBool dev))
      (i := (.amomin d a b o dev)) (by
      obtain ⟨hm, hk, hc, hd⟩ := amo_func (6 : BitVec 3) o.bits dev
      simp only [decodeFields, decodeCfg, decodeAmo, Fields.m, hm, hk, hc, hd, bits_cases]; rfl) (by decide) rfl rfl (by cases b.ext <;> rfl) rfl

theorem Encode.amomax (d : BitVec 7) (a : BitVec 7) (b : Src) (o : Order) (dev : Bool) : Encode.Statement (.amomax d a b o dev) := by
  intro _ _
  exact decode_checked (kd := .g) (ka := .g) (kb := .g) (x := b.ext) (m := 14) (b := b.field) (a := a) (d := d) (f := ((0 : BitVec 1) ++ (7 : BitVec 3) ++ o.bits ++ BitVec.ofBool dev))
      (i := (.amomax d a b o dev)) (by
      obtain ⟨hm, hk, hc, hd⟩ := amo_func (7 : BitVec 3) o.bits dev
      simp only [decodeFields, decodeCfg, decodeAmo, Fields.m, hm, hk, hc, hd, bits_cases]; rfl) (by decide) rfl rfl (by cases b.ext <;> rfl) rfl

theorem Encode.setvl (d : BitVec 7) (a : BitVec 7) (b : Src) : Encode.Statement (.setvl d a b) := by
  intro _ _
  exact decode_checked (kd := .g) (ka := .g) (kb := .g) (x := b.ext) (m := 14) (b := b.field) (a := a) (d := d) (f := 64)
      (i := (.setvl d a b)) (by
      have hm : ((64 : BitVec 7).extractLsb' 6 1 == 1) = true := by decide
      simp only [decodeFields, decodeCfg, Fields.m, hm, if_true]; rfl) (by decide) rfl rfl (by cases b.ext <;> rfl) rfl

theorem Encode.setvlmax (d : BitVec 7) (b : Src) : Encode.Statement (.setvlmax d b) := by
  intro _ _
  exact decode_checked (kd := .g) (ka := .none) (kb := .g) (x := b.ext) (m := 14) (b := b.field) (a := 0) (d := d) (f := 65)
      (i := (.setvlmax d b)) (by
      have hm : ((65 : BitVec 7).extractLsb' 6 1 == 1) = true := by decide
      simp only [decodeFields, decodeCfg, Fields.m, hm, if_true]; rfl) (by decide) rfl rfl (by cases b.ext <;> rfl) rfl

theorem Encode.csrr (d : BitVec 7) (csr : BitVec 14) : Encode.Statement (.csrr d csr) := by
  intro _ _
  refine decode_withExt (x := none) (m := 14) (b := (csr.extractLsb' 0 7)) (a := (csr.extractLsb' 7 7)) (d := d) (f := 0x42) (by decide) rfl ?_
  conv_rhs => rw [← append_csr csr]
  have hm : ((0x42 : BitVec 7).extractLsb' 6 1 == 1) = true := by decide
  simp only [decodeFields, decodeCfg, Fields.m, hm, if_true]
  exact checkRrr_ok (kd := .g) (ka := (.lit 127)) (kb := (.lit 127)) (f := ⟨14, (csr.extractLsb' 0 7), (csr.extractLsb' 7 7), d, 0x42⟩) (x := none) rfl rfl rfl (by rw [inRange_lit127, inRange_lit127]; rfl)

theorem Encode.csrw (csr : BitVec 14) (b : Src) : Encode.Statement (.csrw csr b) := by
  intro _ _
  refine decode_withExt (x := b.ext) (m := 14) (b := b.field) (a := (csr.extractLsb' 7 7)) (d := (csr.extractLsb' 0 7)) (f := 67) (by decide) rfl ?_
  conv_rhs => rw [← append_csr csr]
  have hm : ((67 : BitVec 7).extractLsb' 6 1 == 1) = true := by decide
  simp only [decodeFields, decodeCfg, Fields.m, hm, if_true]
  exact checkRrr_ok (kd := (.lit 127)) (ka := (.lit 127)) (kb := .g) (f := ⟨14, b.field, (csr.extractLsb' 7 7), (csr.extractLsb' 0 7), 67⟩) (x := b.ext) rfl rfl (by cases b.ext <;> rfl) (by rw [inRange_lit127, inRange_lit127]; rfl)

theorem Encode.csrs (csr : BitVec 14) (b : Src) : Encode.Statement (.csrs csr b) := by
  intro _ _
  refine decode_withExt (x := b.ext) (m := 14) (b := b.field) (a := (csr.extractLsb' 7 7)) (d := (csr.extractLsb' 0 7)) (f := 68) (by decide) rfl ?_
  conv_rhs => rw [← append_csr csr]
  have hm : ((68 : BitVec 7).extractLsb' 6 1 == 1) = true := by decide
  simp only [decodeFields, decodeCfg, Fields.m, hm, if_true]
  exact checkRrr_ok (kd := (.lit 127)) (ka := (.lit 127)) (kb := .g) (f := ⟨14, b.field, (csr.extractLsb' 7 7), (csr.extractLsb' 0 7), 68⟩) (x := b.ext) rfl rfl (by cases b.ext <;> rfl) (by rw [inRange_lit127, inRange_lit127]; rfl)

theorem Encode.csrc (csr : BitVec 14) (b : Src) : Encode.Statement (.csrc csr b) := by
  intro _ _
  refine decode_withExt (x := b.ext) (m := 14) (b := b.field) (a := (csr.extractLsb' 7 7)) (d := (csr.extractLsb' 0 7)) (f := 69) (by decide) rfl ?_
  conv_rhs => rw [← append_csr csr]
  have hm : ((69 : BitVec 7).extractLsb' 6 1 == 1) = true := by decide
  simp only [decodeFields, decodeCfg, Fields.m, hm, if_true]
  exact checkRrr_ok (kd := (.lit 127)) (ka := (.lit 127)) (kb := .g) (f := ⟨14, b.field, (csr.extractLsb' 7 7), (csr.extractLsb' 0 7), 69⟩) (x := b.ext) rfl rfl (by cases b.ext <;> rfl) (by rw [inRange_lit127, inRange_lit127]; rfl)

theorem Encode.winsg (b : Src) : Encode.Statement (.winsg b) := by
  intro _ _
  exact decode_checked (kd := .none) (ka := .none) (kb := .g) (x := b.ext) (m := 14) (b := b.field) (a := 0) (d := 0) (f := 70)
      (i := (.winsg b)) (by
      have hm : ((70 : BitVec 7).extractLsb' 6 1 == 1) = true := by decide
      simp only [decodeFields, decodeCfg, Fields.m, hm, if_true]; rfl) (by decide) rfl rfl (by cases b.ext <;> rfl) rfl

theorem Encode.winsv (b : Src) : Encode.Statement (.winsv b) := by
  intro _ _
  exact decode_checked (kd := .none) (ka := .none) (kb := .g) (x := b.ext) (m := 14) (b := b.field) (a := 0) (d := 0) (f := 71)
      (i := (.winsv b)) (by
      have hm : ((71 : BitVec 7).extractLsb' 6 1 == 1) = true := by decide
      simp only [decodeFields, decodeCfg, Fields.m, hm, if_true]; rfl) (by decide) rfl rfl (by cases b.ext <;> rfl) rfl

theorem Encode.lat (d : BitVec 7) (a : BitVec 7) : Encode.Statement (.lat d a) := by
  intro _ _
  exact decode_checked (kd := .g) (ka := .g) (kb := .none) (x := none) (m := 14) (b := 0) (a := a) (d := d) (f := 72)
      (i := (.lat d a)) (by
      have hm : ((72 : BitVec 7).extractLsb' 6 1 == 1) = true := by decide
      simp only [decodeFields, decodeCfg, Fields.m, hm, if_true]; rfl) (by decide) rfl rfl rfl rfl

theorem Encode.vaddVV (d : BitVec 7) (a : BitVec 7) (b : BitVec 7) (m : Bool) : Encode.Statement (.vaddVV d a b m) := by
  intro _ _
  exact decode_checked (kd := .v) (ka := .v) (kb := .v) (x := none) (m := 7) (b := b) (a := a) (d := d) (f := (maskFunc m 0))
      (i := (.vaddVV d a b m)) (by simp only [decodeFields, decodeValu, func6_maskFunc, m_maskFunc]; rfl) (by decide) rfl rfl rfl rfl

theorem Encode.vaddVG (d : BitVec 7) (a : BitVec 7) (b : Src) (m : Bool) : Encode.Statement (.vaddVG d a b m) := by
  intro _ _
  exact decode_checked (kd := .v) (ka := .v) (kb := .g) (x := b.ext) (m := 7) (b := b.field) (a := a) (d := d) (f := (maskFunc m 1))
      (i := (.vaddVG d a b m)) (by simp only [decodeFields, decodeValu, func6_maskFunc, m_maskFunc]; rfl) (by decide) rfl rfl (by cases b.ext <;> rfl) rfl

theorem Encode.vsubVV (d : BitVec 7) (a : BitVec 7) (b : BitVec 7) (m : Bool) : Encode.Statement (.vsubVV d a b m) := by
  intro _ _
  exact decode_checked (kd := .v) (ka := .v) (kb := .v) (x := none) (m := 7) (b := b) (a := a) (d := d) (f := (maskFunc m 2))
      (i := (.vsubVV d a b m)) (by simp only [decodeFields, decodeValu, func6_maskFunc, m_maskFunc]; rfl) (by decide) rfl rfl rfl rfl

theorem Encode.vsubVG (d : BitVec 7) (a : BitVec 7) (b : Src) (m : Bool) : Encode.Statement (.vsubVG d a b m) := by
  intro _ _
  exact decode_checked (kd := .v) (ka := .v) (kb := .g) (x := b.ext) (m := 7) (b := b.field) (a := a) (d := d) (f := (maskFunc m 3))
      (i := (.vsubVG d a b m)) (by simp only [decodeFields, decodeValu, func6_maskFunc, m_maskFunc]; rfl) (by decide) rfl rfl (by cases b.ext <;> rfl) rfl

theorem Encode.vmulVV (d : BitVec 7) (a : BitVec 7) (b : BitVec 7) (m : Bool) : Encode.Statement (.vmulVV d a b m) := by
  intro _ _
  exact decode_checked (kd := .v) (ka := .v) (kb := .v) (x := none) (m := 7) (b := b) (a := a) (d := d) (f := (maskFunc m 4))
      (i := (.vmulVV d a b m)) (by simp only [decodeFields, decodeValu, func6_maskFunc, m_maskFunc]; rfl) (by decide) rfl rfl rfl rfl

theorem Encode.vmulVG (d : BitVec 7) (a : BitVec 7) (b : Src) (m : Bool) : Encode.Statement (.vmulVG d a b m) := by
  intro _ _
  exact decode_checked (kd := .v) (ka := .v) (kb := .g) (x := b.ext) (m := 7) (b := b.field) (a := a) (d := d) (f := (maskFunc m 5))
      (i := (.vmulVG d a b m)) (by simp only [decodeFields, decodeValu, func6_maskFunc, m_maskFunc]; rfl) (by decide) rfl rfl (by cases b.ext <;> rfl) rfl

theorem Encode.vmulhVV (d : BitVec 7) (a : BitVec 7) (b : BitVec 7) (m : Bool) : Encode.Statement (.vmulhVV d a b m) := by
  intro _ _
  exact decode_checked (kd := .v) (ka := .v) (kb := .v) (x := none) (m := 7) (b := b) (a := a) (d := d) (f := (maskFunc m 6))
      (i := (.vmulhVV d a b m)) (by simp only [decodeFields, decodeValu, func6_maskFunc, m_maskFunc]; rfl) (by decide) rfl rfl rfl rfl

theorem Encode.vmulhVG (d : BitVec 7) (a : BitVec 7) (b : Src) (m : Bool) : Encode.Statement (.vmulhVG d a b m) := by
  intro _ _
  exact decode_checked (kd := .v) (ka := .v) (kb := .g) (x := b.ext) (m := 7) (b := b.field) (a := a) (d := d) (f := (maskFunc m 7))
      (i := (.vmulhVG d a b m)) (by simp only [decodeFields, decodeValu, func6_maskFunc, m_maskFunc]; rfl) (by decide) rfl rfl (by cases b.ext <;> rfl) rfl

theorem Encode.vmaccVV (d : BitVec 7) (a : BitVec 7) (b : BitVec 7) (m : Bool) : Encode.Statement (.vmaccVV d a b m) := by
  intro _ _
  exact decode_checked (kd := .v) (ka := .v) (kb := .v) (x := none) (m := 7) (b := b) (a := a) (d := d) (f := (maskFunc m 8))
      (i := (.vmaccVV d a b m)) (by simp only [decodeFields, decodeValu, func6_maskFunc, m_maskFunc]; rfl) (by decide) rfl rfl rfl rfl

theorem Encode.vmaccVG (d : BitVec 7) (a : BitVec 7) (b : Src) (m : Bool) : Encode.Statement (.vmaccVG d a b m) := by
  intro _ _
  exact decode_checked (kd := .v) (ka := .v) (kb := .g) (x := b.ext) (m := 7) (b := b.field) (a := a) (d := d) (f := (maskFunc m 9))
      (i := (.vmaccVG d a b m)) (by simp only [decodeFields, decodeValu, func6_maskFunc, m_maskFunc]; rfl) (by decide) rfl rfl (by cases b.ext <;> rfl) rfl

theorem Encode.vandVV (d : BitVec 7) (a : BitVec 7) (b : BitVec 7) (m : Bool) : Encode.Statement (.vandVV d a b m) := by
  intro _ _
  exact decode_checked (kd := .v) (ka := .v) (kb := .v) (x := none) (m := 7) (b := b) (a := a) (d := d) (f := (maskFunc m 10))
      (i := (.vandVV d a b m)) (by simp only [decodeFields, decodeValu, func6_maskFunc, m_maskFunc]; rfl) (by decide) rfl rfl rfl rfl

theorem Encode.vandVG (d : BitVec 7) (a : BitVec 7) (b : Src) (m : Bool) : Encode.Statement (.vandVG d a b m) := by
  intro _ _
  exact decode_checked (kd := .v) (ka := .v) (kb := .g) (x := b.ext) (m := 7) (b := b.field) (a := a) (d := d) (f := (maskFunc m 11))
      (i := (.vandVG d a b m)) (by simp only [decodeFields, decodeValu, func6_maskFunc, m_maskFunc]; rfl) (by decide) rfl rfl (by cases b.ext <;> rfl) rfl

theorem Encode.vorVV (d : BitVec 7) (a : BitVec 7) (b : BitVec 7) (m : Bool) : Encode.Statement (.vorVV d a b m) := by
  intro _ _
  exact decode_checked (kd := .v) (ka := .v) (kb := .v) (x := none) (m := 7) (b := b) (a := a) (d := d) (f := (maskFunc m 12))
      (i := (.vorVV d a b m)) (by simp only [decodeFields, decodeValu, func6_maskFunc, m_maskFunc]; rfl) (by decide) rfl rfl rfl rfl

theorem Encode.vorVG (d : BitVec 7) (a : BitVec 7) (b : Src) (m : Bool) : Encode.Statement (.vorVG d a b m) := by
  intro _ _
  exact decode_checked (kd := .v) (ka := .v) (kb := .g) (x := b.ext) (m := 7) (b := b.field) (a := a) (d := d) (f := (maskFunc m 13))
      (i := (.vorVG d a b m)) (by simp only [decodeFields, decodeValu, func6_maskFunc, m_maskFunc]; rfl) (by decide) rfl rfl (by cases b.ext <;> rfl) rfl

theorem Encode.vxorVV (d : BitVec 7) (a : BitVec 7) (b : BitVec 7) (m : Bool) : Encode.Statement (.vxorVV d a b m) := by
  intro _ _
  exact decode_checked (kd := .v) (ka := .v) (kb := .v) (x := none) (m := 7) (b := b) (a := a) (d := d) (f := (maskFunc m 14))
      (i := (.vxorVV d a b m)) (by simp only [decodeFields, decodeValu, func6_maskFunc, m_maskFunc]; rfl) (by decide) rfl rfl rfl rfl

theorem Encode.vxorVG (d : BitVec 7) (a : BitVec 7) (b : Src) (m : Bool) : Encode.Statement (.vxorVG d a b m) := by
  intro _ _
  exact decode_checked (kd := .v) (ka := .v) (kb := .g) (x := b.ext) (m := 7) (b := b.field) (a := a) (d := d) (f := (maskFunc m 15))
      (i := (.vxorVG d a b m)) (by simp only [decodeFields, decodeValu, func6_maskFunc, m_maskFunc]; rfl) (by decide) rfl rfl (by cases b.ext <;> rfl) rfl

theorem Encode.vsllVV (d : BitVec 7) (a : BitVec 7) (b : BitVec 7) (m : Bool) : Encode.Statement (.vsllVV d a b m) := by
  intro _ _
  exact decode_checked (kd := .v) (ka := .v) (kb := .v) (x := none) (m := 7) (b := b) (a := a) (d := d) (f := (maskFunc m 16))
      (i := (.vsllVV d a b m)) (by simp only [decodeFields, decodeValu, func6_maskFunc, m_maskFunc]; rfl) (by decide) rfl rfl rfl rfl

theorem Encode.vsllVG (d : BitVec 7) (a : BitVec 7) (b : Src) (m : Bool) : Encode.Statement (.vsllVG d a b m) := by
  intro _ _
  exact decode_checked (kd := .v) (ka := .v) (kb := .g) (x := b.ext) (m := 7) (b := b.field) (a := a) (d := d) (f := (maskFunc m 17))
      (i := (.vsllVG d a b m)) (by simp only [decodeFields, decodeValu, func6_maskFunc, m_maskFunc]; rfl) (by decide) rfl rfl (by cases b.ext <;> rfl) rfl

theorem Encode.vsrlVV (d : BitVec 7) (a : BitVec 7) (b : BitVec 7) (m : Bool) : Encode.Statement (.vsrlVV d a b m) := by
  intro _ _
  exact decode_checked (kd := .v) (ka := .v) (kb := .v) (x := none) (m := 7) (b := b) (a := a) (d := d) (f := (maskFunc m 18))
      (i := (.vsrlVV d a b m)) (by simp only [decodeFields, decodeValu, func6_maskFunc, m_maskFunc]; rfl) (by decide) rfl rfl rfl rfl

theorem Encode.vsrlVG (d : BitVec 7) (a : BitVec 7) (b : Src) (m : Bool) : Encode.Statement (.vsrlVG d a b m) := by
  intro _ _
  exact decode_checked (kd := .v) (ka := .v) (kb := .g) (x := b.ext) (m := 7) (b := b.field) (a := a) (d := d) (f := (maskFunc m 19))
      (i := (.vsrlVG d a b m)) (by simp only [decodeFields, decodeValu, func6_maskFunc, m_maskFunc]; rfl) (by decide) rfl rfl (by cases b.ext <;> rfl) rfl

theorem Encode.vsraVV (d : BitVec 7) (a : BitVec 7) (b : BitVec 7) (m : Bool) : Encode.Statement (.vsraVV d a b m) := by
  intro _ _
  exact decode_checked (kd := .v) (ka := .v) (kb := .v) (x := none) (m := 7) (b := b) (a := a) (d := d) (f := (maskFunc m 20))
      (i := (.vsraVV d a b m)) (by simp only [decodeFields, decodeValu, func6_maskFunc, m_maskFunc]; rfl) (by decide) rfl rfl rfl rfl

theorem Encode.vsraVG (d : BitVec 7) (a : BitVec 7) (b : Src) (m : Bool) : Encode.Statement (.vsraVG d a b m) := by
  intro _ _
  exact decode_checked (kd := .v) (ka := .v) (kb := .g) (x := b.ext) (m := 7) (b := b.field) (a := a) (d := d) (f := (maskFunc m 21))
      (i := (.vsraVG d a b m)) (by simp only [decodeFields, decodeValu, func6_maskFunc, m_maskFunc]; rfl) (by decide) rfl rfl (by cases b.ext <;> rfl) rfl

theorem Encode.vminVV (d : BitVec 7) (a : BitVec 7) (b : BitVec 7) (m : Bool) : Encode.Statement (.vminVV d a b m) := by
  intro _ _
  exact decode_checked (kd := .v) (ka := .v) (kb := .v) (x := none) (m := 7) (b := b) (a := a) (d := d) (f := (maskFunc m 22))
      (i := (.vminVV d a b m)) (by simp only [decodeFields, decodeValu, func6_maskFunc, m_maskFunc]; rfl) (by decide) rfl rfl rfl rfl

theorem Encode.vminVG (d : BitVec 7) (a : BitVec 7) (b : Src) (m : Bool) : Encode.Statement (.vminVG d a b m) := by
  intro _ _
  exact decode_checked (kd := .v) (ka := .v) (kb := .g) (x := b.ext) (m := 7) (b := b.field) (a := a) (d := d) (f := (maskFunc m 23))
      (i := (.vminVG d a b m)) (by simp only [decodeFields, decodeValu, func6_maskFunc, m_maskFunc]; rfl) (by decide) rfl rfl (by cases b.ext <;> rfl) rfl

theorem Encode.vmaxVV (d : BitVec 7) (a : BitVec 7) (b : BitVec 7) (m : Bool) : Encode.Statement (.vmaxVV d a b m) := by
  intro _ _
  exact decode_checked (kd := .v) (ka := .v) (kb := .v) (x := none) (m := 7) (b := b) (a := a) (d := d) (f := (maskFunc m 24))
      (i := (.vmaxVV d a b m)) (by simp only [decodeFields, decodeValu, func6_maskFunc, m_maskFunc]; rfl) (by decide) rfl rfl rfl rfl

theorem Encode.vmaxVG (d : BitVec 7) (a : BitVec 7) (b : Src) (m : Bool) : Encode.Statement (.vmaxVG d a b m) := by
  intro _ _
  exact decode_checked (kd := .v) (ka := .v) (kb := .g) (x := b.ext) (m := 7) (b := b.field) (a := a) (d := d) (f := (maskFunc m 25))
      (i := (.vmaxVG d a b m)) (by simp only [decodeFields, decodeValu, func6_maskFunc, m_maskFunc]; rfl) (by decide) rfl rfl (by cases b.ext <;> rfl) rfl

theorem Encode.vminnVV (d : BitVec 7) (a : BitVec 7) (b : BitVec 7) (m : Bool) : Encode.Statement (.vminnVV d a b m) := by
  intro _ _
  exact decode_checked (kd := .v) (ka := .v) (kb := .v) (x := none) (m := 7) (b := b) (a := a) (d := d) (f := (maskFunc m 26))
      (i := (.vminnVV d a b m)) (by simp only [decodeFields, decodeValu, func6_maskFunc, m_maskFunc]; rfl) (by decide) rfl rfl rfl rfl

theorem Encode.vminnVG (d : BitVec 7) (a : BitVec 7) (b : Src) (m : Bool) : Encode.Statement (.vminnVG d a b m) := by
  intro _ _
  exact decode_checked (kd := .v) (ka := .v) (kb := .g) (x := b.ext) (m := 7) (b := b.field) (a := a) (d := d) (f := (maskFunc m 27))
      (i := (.vminnVG d a b m)) (by simp only [decodeFields, decodeValu, func6_maskFunc, m_maskFunc]; rfl) (by decide) rfl rfl (by cases b.ext <;> rfl) rfl

theorem Encode.vmaxnVV (d : BitVec 7) (a : BitVec 7) (b : BitVec 7) (m : Bool) : Encode.Statement (.vmaxnVV d a b m) := by
  intro _ _
  exact decode_checked (kd := .v) (ka := .v) (kb := .v) (x := none) (m := 7) (b := b) (a := a) (d := d) (f := (maskFunc m 28))
      (i := (.vmaxnVV d a b m)) (by simp only [decodeFields, decodeValu, func6_maskFunc, m_maskFunc]; rfl) (by decide) rfl rfl rfl rfl

theorem Encode.vmaxnVG (d : BitVec 7) (a : BitVec 7) (b : Src) (m : Bool) : Encode.Statement (.vmaxnVG d a b m) := by
  intro _ _
  exact decode_checked (kd := .v) (ka := .v) (kb := .g) (x := b.ext) (m := 7) (b := b.field) (a := a) (d := d) (f := (maskFunc m 29))
      (i := (.vmaxnVG d a b m)) (by simp only [decodeFields, decodeValu, func6_maskFunc, m_maskFunc]; rfl) (by decide) rfl rfl (by cases b.ext <;> rfl) rfl

theorem Encode.vsaddVV (d : BitVec 7) (a : BitVec 7) (b : BitVec 7) (m : Bool) : Encode.Statement (.vsaddVV d a b m) := by
  intro _ _
  exact decode_checked (kd := .v) (ka := .v) (kb := .v) (x := none) (m := 7) (b := b) (a := a) (d := d) (f := (maskFunc m 30))
      (i := (.vsaddVV d a b m)) (by simp only [decodeFields, decodeValu, func6_maskFunc, m_maskFunc]; rfl) (by decide) rfl rfl rfl rfl

theorem Encode.vsaddVG (d : BitVec 7) (a : BitVec 7) (b : Src) (m : Bool) : Encode.Statement (.vsaddVG d a b m) := by
  intro _ _
  exact decode_checked (kd := .v) (ka := .v) (kb := .g) (x := b.ext) (m := 7) (b := b.field) (a := a) (d := d) (f := (maskFunc m 31))
      (i := (.vsaddVG d a b m)) (by simp only [decodeFields, decodeValu, func6_maskFunc, m_maskFunc]; rfl) (by decide) rfl rfl (by cases b.ext <;> rfl) rfl

theorem Encode.vssubVV (d : BitVec 7) (a : BitVec 7) (b : BitVec 7) (m : Bool) : Encode.Statement (.vssubVV d a b m) := by
  intro _ _
  exact decode_checked (kd := .v) (ka := .v) (kb := .v) (x := none) (m := 7) (b := b) (a := a) (d := d) (f := (maskFunc m 32))
      (i := (.vssubVV d a b m)) (by simp only [decodeFields, decodeValu, func6_maskFunc, m_maskFunc]; rfl) (by decide) rfl rfl rfl rfl

theorem Encode.vssubVG (d : BitVec 7) (a : BitVec 7) (b : Src) (m : Bool) : Encode.Statement (.vssubVG d a b m) := by
  intro _ _
  exact decode_checked (kd := .v) (ka := .v) (kb := .g) (x := b.ext) (m := 7) (b := b.field) (a := a) (d := d) (f := (maskFunc m 33))
      (i := (.vssubVG d a b m)) (by simp only [decodeFields, decodeValu, func6_maskFunc, m_maskFunc]; rfl) (by decide) rfl rfl (by cases b.ext <;> rfl) rfl

theorem Encode.vseqVV (d : BitVec 7) (a : BitVec 7) (b : BitVec 7) (m : Bool) : Encode.Statement (.vseqVV d a b m) := by
  intro h _
  have h : (maskField d) = true := h
  exact decode_checked (kd := .m) (ka := .v) (kb := .v) (x := none) (m := 7) (b := b) (a := a) (d := d) (f := (maskFunc m 34))
      (i := (.vseqVV d a b m)) (by simp only [decodeFields, decodeValu, func6_maskFunc, m_maskFunc]; rfl) (by decide) rfl rfl rfl (by rw [show FieldKind.inRange .m d = true from h]; rfl)

theorem Encode.vseqVG (d : BitVec 7) (a : BitVec 7) (b : Src) (m : Bool) : Encode.Statement (.vseqVG d a b m) := by
  intro h _
  have h : (maskField d) = true := h
  exact decode_checked (kd := .m) (ka := .v) (kb := .g) (x := b.ext) (m := 7) (b := b.field) (a := a) (d := d) (f := (maskFunc m 35))
      (i := (.vseqVG d a b m)) (by simp only [decodeFields, decodeValu, func6_maskFunc, m_maskFunc]; rfl) (by decide) rfl rfl (by cases b.ext <;> rfl) (by rw [show FieldKind.inRange .m d = true from h]; rfl)

theorem Encode.vsneVV (d : BitVec 7) (a : BitVec 7) (b : BitVec 7) (m : Bool) : Encode.Statement (.vsneVV d a b m) := by
  intro h _
  have h : (maskField d) = true := h
  exact decode_checked (kd := .m) (ka := .v) (kb := .v) (x := none) (m := 7) (b := b) (a := a) (d := d) (f := (maskFunc m 36))
      (i := (.vsneVV d a b m)) (by simp only [decodeFields, decodeValu, func6_maskFunc, m_maskFunc]; rfl) (by decide) rfl rfl rfl (by rw [show FieldKind.inRange .m d = true from h]; rfl)

theorem Encode.vsneVG (d : BitVec 7) (a : BitVec 7) (b : Src) (m : Bool) : Encode.Statement (.vsneVG d a b m) := by
  intro h _
  have h : (maskField d) = true := h
  exact decode_checked (kd := .m) (ka := .v) (kb := .g) (x := b.ext) (m := 7) (b := b.field) (a := a) (d := d) (f := (maskFunc m 37))
      (i := (.vsneVG d a b m)) (by simp only [decodeFields, decodeValu, func6_maskFunc, m_maskFunc]; rfl) (by decide) rfl rfl (by cases b.ext <;> rfl) (by rw [show FieldKind.inRange .m d = true from h]; rfl)

theorem Encode.vsltVV (d : BitVec 7) (a : BitVec 7) (b : BitVec 7) (m : Bool) : Encode.Statement (.vsltVV d a b m) := by
  intro h _
  have h : (maskField d) = true := h
  exact decode_checked (kd := .m) (ka := .v) (kb := .v) (x := none) (m := 7) (b := b) (a := a) (d := d) (f := (maskFunc m 38))
      (i := (.vsltVV d a b m)) (by simp only [decodeFields, decodeValu, func6_maskFunc, m_maskFunc]; rfl) (by decide) rfl rfl rfl (by rw [show FieldKind.inRange .m d = true from h]; rfl)

theorem Encode.vsltVG (d : BitVec 7) (a : BitVec 7) (b : Src) (m : Bool) : Encode.Statement (.vsltVG d a b m) := by
  intro h _
  have h : (maskField d) = true := h
  exact decode_checked (kd := .m) (ka := .v) (kb := .g) (x := b.ext) (m := 7) (b := b.field) (a := a) (d := d) (f := (maskFunc m 39))
      (i := (.vsltVG d a b m)) (by simp only [decodeFields, decodeValu, func6_maskFunc, m_maskFunc]; rfl) (by decide) rfl rfl (by cases b.ext <;> rfl) (by rw [show FieldKind.inRange .m d = true from h]; rfl)

theorem Encode.vsltnVV (d : BitVec 7) (a : BitVec 7) (b : BitVec 7) (m : Bool) : Encode.Statement (.vsltnVV d a b m) := by
  intro h _
  have h : (maskField d) = true := h
  exact decode_checked (kd := .m) (ka := .v) (kb := .v) (x := none) (m := 7) (b := b) (a := a) (d := d) (f := (maskFunc m 40))
      (i := (.vsltnVV d a b m)) (by simp only [decodeFields, decodeValu, func6_maskFunc, m_maskFunc]; rfl) (by decide) rfl rfl rfl (by rw [show FieldKind.inRange .m d = true from h]; rfl)

theorem Encode.vsltnVG (d : BitVec 7) (a : BitVec 7) (b : Src) (m : Bool) : Encode.Statement (.vsltnVG d a b m) := by
  intro h _
  have h : (maskField d) = true := h
  exact decode_checked (kd := .m) (ka := .v) (kb := .g) (x := b.ext) (m := 7) (b := b.field) (a := a) (d := d) (f := (maskFunc m 41))
      (i := (.vsltnVG d a b m)) (by simp only [decodeFields, decodeValu, func6_maskFunc, m_maskFunc]; rfl) (by decide) rfl rfl (by cases b.ext <;> rfl) (by rw [show FieldKind.inRange .m d = true from h]; rfl)

theorem Encode.vmergeVV (d : BitVec 7) (a : BitVec 7) (b : BitVec 7) (m : Bool) : Encode.Statement (.vmergeVV d a b m) := by
  intro _ _
  exact decode_checked (kd := .v) (ka := .v) (kb := .v) (x := none) (m := 7) (b := b) (a := a) (d := d) (f := (maskFunc m 42))
      (i := (.vmergeVV d a b m)) (by simp only [decodeFields, decodeValu, func6_maskFunc, m_maskFunc]; rfl) (by decide) rfl rfl rfl rfl

theorem Encode.vmergeVG (d : BitVec 7) (a : BitVec 7) (b : Src) (m : Bool) : Encode.Statement (.vmergeVG d a b m) := by
  intro _ _
  exact decode_checked (kd := .v) (ka := .v) (kb := .g) (x := b.ext) (m := 7) (b := b.field) (a := a) (d := d) (f := (maskFunc m 43))
      (i := (.vmergeVG d a b m)) (by simp only [decodeFields, decodeValu, func6_maskFunc, m_maskFunc]; rfl) (by decide) rfl rfl (by cases b.ext <;> rfl) rfl

theorem Encode.vmvVV (d : BitVec 7) (b : BitVec 7) (m : Bool) : Encode.Statement (.vmvVV d b m) := by
  intro _ _
  exact decode_checked (kd := .v) (ka := .none) (kb := .v) (x := none) (m := 7) (b := b) (a := 0) (d := d) (f := (maskFunc m 44))
      (i := (.vmvVV d b m)) (by simp only [decodeFields, decodeValu, func6_maskFunc, m_maskFunc]; rfl) (by decide) rfl rfl rfl rfl

theorem Encode.vmvVG (d : BitVec 7) (b : Src) (m : Bool) : Encode.Statement (.vmvVG d b m) := by
  intro _ _
  exact decode_checked (kd := .v) (ka := .none) (kb := .g) (x := b.ext) (m := 7) (b := b.field) (a := 0) (d := d) (f := (maskFunc m 45))
      (i := (.vmvVG d b m)) (by simp only [decodeFields, decodeValu, func6_maskFunc, m_maskFunc]; rfl) (by decide) rfl rfl (by cases b.ext <;> rfl) rfl

theorem Encode.vmvVVInverted (d : BitVec 7) (b : BitVec 7) : Encode.Statement (.vmvVVInverted d b) := by
  intro _ _
  exact decode_checked (kd := .v) (ka := .none) (kb := .v) (x := none) (m := 7) (b := b) (a := 0) (d := d) (f := (maskFunc true 48))
      (i := (.vmvVVInverted d b)) (by simp only [decodeFields, decodeValu, func6_maskFunc, m_maskFunc]; rfl) (by decide) rfl rfl rfl rfl

theorem Encode.vmvVGInverted (d : BitVec 7) (b : Src) : Encode.Statement (.vmvVGInverted d b) := by
  intro _ _
  exact decode_checked (kd := .v) (ka := .none) (kb := .g) (x := b.ext) (m := 7) (b := b.field) (a := 0) (d := d) (f := (maskFunc true 49))
      (i := (.vmvVGInverted d b)) (by simp only [decodeFields, decodeValu, func6_maskFunc, m_maskFunc]; rfl) (by decide) rfl rfl (by cases b.ext <;> rfl) rfl

theorem Encode.vfaddVV (d : BitVec 7) (a : BitVec 7) (b : BitVec 7) (m : Bool) : Encode.Statement (.vfaddVV d a b m) := by
  intro _ _
  exact decode_checked (kd := .v) (ka := .v) (kb := .v) (x := none) (m := 8) (b := b) (a := a) (d := d) (f := (maskFunc m 0))
      (i := (.vfaddVV d a b m)) (by simp only [decodeFields, decodeVfp, func6_maskFunc, m_maskFunc]; rfl) (by decide) rfl rfl rfl rfl

theorem Encode.vfaddVG (d : BitVec 7) (a : BitVec 7) (b : Src) (m : Bool) : Encode.Statement (.vfaddVG d a b m) := by
  intro _ _
  exact decode_checked (kd := .v) (ka := .v) (kb := .g) (x := b.ext) (m := 8) (b := b.field) (a := a) (d := d) (f := (maskFunc m 1))
      (i := (.vfaddVG d a b m)) (by simp only [decodeFields, decodeVfp, func6_maskFunc, m_maskFunc]; rfl) (by decide) rfl rfl (by cases b.ext <;> rfl) rfl

theorem Encode.vfsubVV (d : BitVec 7) (a : BitVec 7) (b : BitVec 7) (m : Bool) : Encode.Statement (.vfsubVV d a b m) := by
  intro _ _
  exact decode_checked (kd := .v) (ka := .v) (kb := .v) (x := none) (m := 8) (b := b) (a := a) (d := d) (f := (maskFunc m 2))
      (i := (.vfsubVV d a b m)) (by simp only [decodeFields, decodeVfp, func6_maskFunc, m_maskFunc]; rfl) (by decide) rfl rfl rfl rfl

theorem Encode.vfsubVG (d : BitVec 7) (a : BitVec 7) (b : Src) (m : Bool) : Encode.Statement (.vfsubVG d a b m) := by
  intro _ _
  exact decode_checked (kd := .v) (ka := .v) (kb := .g) (x := b.ext) (m := 8) (b := b.field) (a := a) (d := d) (f := (maskFunc m 3))
      (i := (.vfsubVG d a b m)) (by simp only [decodeFields, decodeVfp, func6_maskFunc, m_maskFunc]; rfl) (by decide) rfl rfl (by cases b.ext <;> rfl) rfl

theorem Encode.vfmulVV (d : BitVec 7) (a : BitVec 7) (b : BitVec 7) (m : Bool) : Encode.Statement (.vfmulVV d a b m) := by
  intro _ _
  exact decode_checked (kd := .v) (ka := .v) (kb := .v) (x := none) (m := 8) (b := b) (a := a) (d := d) (f := (maskFunc m 4))
      (i := (.vfmulVV d a b m)) (by simp only [decodeFields, decodeVfp, func6_maskFunc, m_maskFunc]; rfl) (by decide) rfl rfl rfl rfl

theorem Encode.vfmulVG (d : BitVec 7) (a : BitVec 7) (b : Src) (m : Bool) : Encode.Statement (.vfmulVG d a b m) := by
  intro _ _
  exact decode_checked (kd := .v) (ka := .v) (kb := .g) (x := b.ext) (m := 8) (b := b.field) (a := a) (d := d) (f := (maskFunc m 5))
      (i := (.vfmulVG d a b m)) (by simp only [decodeFields, decodeVfp, func6_maskFunc, m_maskFunc]; rfl) (by decide) rfl rfl (by cases b.ext <;> rfl) rfl

theorem Encode.vfmaVV (d : BitVec 7) (a : BitVec 7) (b : BitVec 7) (m : Bool) : Encode.Statement (.vfmaVV d a b m) := by
  intro _ _
  exact decode_checked (kd := .v) (ka := .v) (kb := .v) (x := none) (m := 8) (b := b) (a := a) (d := d) (f := (maskFunc m 6))
      (i := (.vfmaVV d a b m)) (by simp only [decodeFields, decodeVfp, func6_maskFunc, m_maskFunc]; rfl) (by decide) rfl rfl rfl rfl

theorem Encode.vfmaVG (d : BitVec 7) (a : BitVec 7) (b : Src) (m : Bool) : Encode.Statement (.vfmaVG d a b m) := by
  intro _ _
  exact decode_checked (kd := .v) (ka := .v) (kb := .g) (x := b.ext) (m := 8) (b := b.field) (a := a) (d := d) (f := (maskFunc m 7))
      (i := (.vfmaVG d a b m)) (by simp only [decodeFields, decodeVfp, func6_maskFunc, m_maskFunc]; rfl) (by decide) rfl rfl (by cases b.ext <;> rfl) rfl

theorem Encode.vfnmsVV (d : BitVec 7) (a : BitVec 7) (b : BitVec 7) (m : Bool) : Encode.Statement (.vfnmsVV d a b m) := by
  intro _ _
  exact decode_checked (kd := .v) (ka := .v) (kb := .v) (x := none) (m := 8) (b := b) (a := a) (d := d) (f := (maskFunc m 8))
      (i := (.vfnmsVV d a b m)) (by simp only [decodeFields, decodeVfp, func6_maskFunc, m_maskFunc]; rfl) (by decide) rfl rfl rfl rfl

theorem Encode.vfnmsVG (d : BitVec 7) (a : BitVec 7) (b : Src) (m : Bool) : Encode.Statement (.vfnmsVG d a b m) := by
  intro _ _
  exact decode_checked (kd := .v) (ka := .v) (kb := .g) (x := b.ext) (m := 8) (b := b.field) (a := a) (d := d) (f := (maskFunc m 9))
      (i := (.vfnmsVG d a b m)) (by simp only [decodeFields, decodeVfp, func6_maskFunc, m_maskFunc]; rfl) (by decide) rfl rfl (by cases b.ext <;> rfl) rfl

theorem Encode.vfminVV (d : BitVec 7) (a : BitVec 7) (b : BitVec 7) (m : Bool) : Encode.Statement (.vfminVV d a b m) := by
  intro _ _
  exact decode_checked (kd := .v) (ka := .v) (kb := .v) (x := none) (m := 8) (b := b) (a := a) (d := d) (f := (maskFunc m 10))
      (i := (.vfminVV d a b m)) (by simp only [decodeFields, decodeVfp, func6_maskFunc, m_maskFunc]; rfl) (by decide) rfl rfl rfl rfl

theorem Encode.vfminVG (d : BitVec 7) (a : BitVec 7) (b : Src) (m : Bool) : Encode.Statement (.vfminVG d a b m) := by
  intro _ _
  exact decode_checked (kd := .v) (ka := .v) (kb := .g) (x := b.ext) (m := 8) (b := b.field) (a := a) (d := d) (f := (maskFunc m 11))
      (i := (.vfminVG d a b m)) (by simp only [decodeFields, decodeVfp, func6_maskFunc, m_maskFunc]; rfl) (by decide) rfl rfl (by cases b.ext <;> rfl) rfl

theorem Encode.vfmaxVV (d : BitVec 7) (a : BitVec 7) (b : BitVec 7) (m : Bool) : Encode.Statement (.vfmaxVV d a b m) := by
  intro _ _
  exact decode_checked (kd := .v) (ka := .v) (kb := .v) (x := none) (m := 8) (b := b) (a := a) (d := d) (f := (maskFunc m 12))
      (i := (.vfmaxVV d a b m)) (by simp only [decodeFields, decodeVfp, func6_maskFunc, m_maskFunc]; rfl) (by decide) rfl rfl rfl rfl

theorem Encode.vfmaxVG (d : BitVec 7) (a : BitVec 7) (b : Src) (m : Bool) : Encode.Statement (.vfmaxVG d a b m) := by
  intro _ _
  exact decode_checked (kd := .v) (ka := .v) (kb := .g) (x := b.ext) (m := 8) (b := b.field) (a := a) (d := d) (f := (maskFunc m 13))
      (i := (.vfmaxVG d a b m)) (by simp only [decodeFields, decodeVfp, func6_maskFunc, m_maskFunc]; rfl) (by decide) rfl rfl (by cases b.ext <;> rfl) rfl

theorem Encode.vfdivVV (d : BitVec 7) (a : BitVec 7) (b : BitVec 7) (m : Bool) : Encode.Statement (.vfdivVV d a b m) := by
  intro _ _
  exact decode_checked (kd := .v) (ka := .v) (kb := .v) (x := none) (m := 8) (b := b) (a := a) (d := d) (f := (maskFunc m 14))
      (i := (.vfdivVV d a b m)) (by simp only [decodeFields, decodeVfp, func6_maskFunc, m_maskFunc]; rfl) (by decide) rfl rfl rfl rfl

theorem Encode.vfdivVG (d : BitVec 7) (a : BitVec 7) (b : Src) (m : Bool) : Encode.Statement (.vfdivVG d a b m) := by
  intro _ _
  exact decode_checked (kd := .v) (ka := .v) (kb := .g) (x := b.ext) (m := 8) (b := b.field) (a := a) (d := d) (f := (maskFunc m 15))
      (i := (.vfdivVG d a b m)) (by simp only [decodeFields, decodeVfp, func6_maskFunc, m_maskFunc]; rfl) (by decide) rfl rfl (by cases b.ext <;> rfl) rfl

theorem Encode.vfsqrt (d : BitVec 7) (a : BitVec 7) (m : Bool) : Encode.Statement (.vfsqrt d a m) := by
  intro _ _
  exact decode_checked (kd := .v) (ka := .v) (kb := .none) (x := none) (m := 8) (b := 0) (a := a) (d := d) (f := (maskFunc m 16))
      (i := (.vfsqrt d a m)) (by simp only [decodeFields, decodeVfp, func6_maskFunc, m_maskFunc]; rfl) (by decide) rfl rfl rfl rfl

theorem Encode.vfrsqrte (d : BitVec 7) (a : BitVec 7) (m : Bool) : Encode.Statement (.vfrsqrte d a m) := by
  intro _ _
  exact decode_checked (kd := .v) (ka := .v) (kb := .none) (x := none) (m := 8) (b := 0) (a := a) (d := d) (f := (maskFunc m 18))
      (i := (.vfrsqrte d a m)) (by simp only [decodeFields, decodeVfp, func6_maskFunc, m_maskFunc]; rfl) (by decide) rfl rfl rfl rfl

theorem Encode.vfrece (d : BitVec 7) (a : BitVec 7) (m : Bool) : Encode.Statement (.vfrece d a m) := by
  intro _ _
  exact decode_checked (kd := .v) (ka := .v) (kb := .none) (x := none) (m := 8) (b := 0) (a := a) (d := d) (f := (maskFunc m 20))
      (i := (.vfrece d a m)) (by simp only [decodeFields, decodeVfp, func6_maskFunc, m_maskFunc]; rfl) (by decide) rfl rfl rfl rfl

theorem Encode.vfsgnjVV (d : BitVec 7) (a : BitVec 7) (b : BitVec 7) (m : Bool) : Encode.Statement (.vfsgnjVV d a b m) := by
  intro _ _
  exact decode_checked (kd := .v) (ka := .v) (kb := .v) (x := none) (m := 8) (b := b) (a := a) (d := d) (f := (maskFunc m 22))
      (i := (.vfsgnjVV d a b m)) (by simp only [decodeFields, decodeVfp, func6_maskFunc, m_maskFunc]; rfl) (by decide) rfl rfl rfl rfl

theorem Encode.vfsgnjVG (d : BitVec 7) (a : BitVec 7) (b : Src) (m : Bool) : Encode.Statement (.vfsgnjVG d a b m) := by
  intro _ _
  exact decode_checked (kd := .v) (ka := .v) (kb := .g) (x := b.ext) (m := 8) (b := b.field) (a := a) (d := d) (f := (maskFunc m 23))
      (i := (.vfsgnjVG d a b m)) (by simp only [decodeFields, decodeVfp, func6_maskFunc, m_maskFunc]; rfl) (by decide) rfl rfl (by cases b.ext <;> rfl) rfl

theorem Encode.vfsgnnVV (d : BitVec 7) (a : BitVec 7) (b : BitVec 7) (m : Bool) : Encode.Statement (.vfsgnnVV d a b m) := by
  intro _ _
  exact decode_checked (kd := .v) (ka := .v) (kb := .v) (x := none) (m := 8) (b := b) (a := a) (d := d) (f := (maskFunc m 24))
      (i := (.vfsgnnVV d a b m)) (by simp only [decodeFields, decodeVfp, func6_maskFunc, m_maskFunc]; rfl) (by decide) rfl rfl rfl rfl

theorem Encode.vfsgnnVG (d : BitVec 7) (a : BitVec 7) (b : Src) (m : Bool) : Encode.Statement (.vfsgnnVG d a b m) := by
  intro _ _
  exact decode_checked (kd := .v) (ka := .v) (kb := .g) (x := b.ext) (m := 8) (b := b.field) (a := a) (d := d) (f := (maskFunc m 25))
      (i := (.vfsgnnVG d a b m)) (by simp only [decodeFields, decodeVfp, func6_maskFunc, m_maskFunc]; rfl) (by decide) rfl rfl (by cases b.ext <;> rfl) rfl

theorem Encode.vfsgnxVV (d : BitVec 7) (a : BitVec 7) (b : BitVec 7) (m : Bool) : Encode.Statement (.vfsgnxVV d a b m) := by
  intro _ _
  exact decode_checked (kd := .v) (ka := .v) (kb := .v) (x := none) (m := 8) (b := b) (a := a) (d := d) (f := (maskFunc m 26))
      (i := (.vfsgnxVV d a b m)) (by simp only [decodeFields, decodeVfp, func6_maskFunc, m_maskFunc]; rfl) (by decide) rfl rfl rfl rfl

theorem Encode.vfsgnxVG (d : BitVec 7) (a : BitVec 7) (b : Src) (m : Bool) : Encode.Statement (.vfsgnxVG d a b m) := by
  intro _ _
  exact decode_checked (kd := .v) (ka := .v) (kb := .g) (x := b.ext) (m := 8) (b := b.field) (a := a) (d := d) (f := (maskFunc m 27))
      (i := (.vfsgnxVG d a b m)) (by simp only [decodeFields, decodeVfp, func6_maskFunc, m_maskFunc]; rfl) (by decide) rfl rfl (by cases b.ext <;> rfl) rfl

theorem Encode.vfeqVV (d : BitVec 7) (a : BitVec 7) (b : BitVec 7) (m : Bool) : Encode.Statement (.vfeqVV d a b m) := by
  intro h _
  have h : (maskField d) = true := h
  exact decode_checked (kd := .m) (ka := .v) (kb := .v) (x := none) (m := 8) (b := b) (a := a) (d := d) (f := (maskFunc m 28))
      (i := (.vfeqVV d a b m)) (by simp only [decodeFields, decodeVfp, func6_maskFunc, m_maskFunc]; rfl) (by decide) rfl rfl rfl (by rw [show FieldKind.inRange .m d = true from h]; rfl)

theorem Encode.vfeqVG (d : BitVec 7) (a : BitVec 7) (b : Src) (m : Bool) : Encode.Statement (.vfeqVG d a b m) := by
  intro h _
  have h : (maskField d) = true := h
  exact decode_checked (kd := .m) (ka := .v) (kb := .g) (x := b.ext) (m := 8) (b := b.field) (a := a) (d := d) (f := (maskFunc m 29))
      (i := (.vfeqVG d a b m)) (by simp only [decodeFields, decodeVfp, func6_maskFunc, m_maskFunc]; rfl) (by decide) rfl rfl (by cases b.ext <;> rfl) (by rw [show FieldKind.inRange .m d = true from h]; rfl)

theorem Encode.vfltVV (d : BitVec 7) (a : BitVec 7) (b : BitVec 7) (m : Bool) : Encode.Statement (.vfltVV d a b m) := by
  intro h _
  have h : (maskField d) = true := h
  exact decode_checked (kd := .m) (ka := .v) (kb := .v) (x := none) (m := 8) (b := b) (a := a) (d := d) (f := (maskFunc m 30))
      (i := (.vfltVV d a b m)) (by simp only [decodeFields, decodeVfp, func6_maskFunc, m_maskFunc]; rfl) (by decide) rfl rfl rfl (by rw [show FieldKind.inRange .m d = true from h]; rfl)

theorem Encode.vfltVG (d : BitVec 7) (a : BitVec 7) (b : Src) (m : Bool) : Encode.Statement (.vfltVG d a b m) := by
  intro h _
  have h : (maskField d) = true := h
  exact decode_checked (kd := .m) (ka := .v) (kb := .g) (x := b.ext) (m := 8) (b := b.field) (a := a) (d := d) (f := (maskFunc m 31))
      (i := (.vfltVG d a b m)) (by simp only [decodeFields, decodeVfp, func6_maskFunc, m_maskFunc]; rfl) (by decide) rfl rfl (by cases b.ext <;> rfl) (by rw [show FieldKind.inRange .m d = true from h]; rfl)

theorem Encode.vfleVV (d : BitVec 7) (a : BitVec 7) (b : BitVec 7) (m : Bool) : Encode.Statement (.vfleVV d a b m) := by
  intro h _
  have h : (maskField d) = true := h
  exact decode_checked (kd := .m) (ka := .v) (kb := .v) (x := none) (m := 8) (b := b) (a := a) (d := d) (f := (maskFunc m 32))
      (i := (.vfleVV d a b m)) (by simp only [decodeFields, decodeVfp, func6_maskFunc, m_maskFunc]; rfl) (by decide) rfl rfl rfl (by rw [show FieldKind.inRange .m d = true from h]; rfl)

theorem Encode.vfleVG (d : BitVec 7) (a : BitVec 7) (b : Src) (m : Bool) : Encode.Statement (.vfleVG d a b m) := by
  intro h _
  have h : (maskField d) = true := h
  exact decode_checked (kd := .m) (ka := .v) (kb := .g) (x := b.ext) (m := 8) (b := b.field) (a := a) (d := d) (f := (maskFunc m 33))
      (i := (.vfleVG d a b m)) (by simp only [decodeFields, decodeVfp, func6_maskFunc, m_maskFunc]; rfl) (by decide) rfl rfl (by cases b.ext <;> rfl) (by rw [show FieldKind.inRange .m d = true from h]; rfl)

theorem Encode.vfclass (d : BitVec 7) (a : BitVec 7) (m : Bool) : Encode.Statement (.vfclass d a m) := by
  intro _ _
  exact decode_checked (kd := .v) (ka := .v) (kb := .none) (x := none) (m := 8) (b := 0) (a := a) (d := d) (f := (maskFunc m 34))
      (i := (.vfclass d a m)) (by simp only [decodeFields, decodeVfp, func6_maskFunc, m_maskFunc]; rfl) (by decide) rfl rfl rfl rfl

theorem Encode.vfcvtif (d : BitVec 7) (a : BitVec 7) (m : Bool) : Encode.Statement (.vfcvtif d a m) := by
  intro _ _
  exact decode_checked (kd := .v) (ka := .v) (kb := .none) (x := none) (m := 8) (b := 0) (a := a) (d := d) (f := (maskFunc m 36))
      (i := (.vfcvtif d a m)) (by simp only [decodeFields, decodeVfp, func6_maskFunc, m_maskFunc]; rfl) (by decide) rfl rfl rfl rfl

theorem Encode.vfcvtfi (d : BitVec 7) (a : BitVec 7) (m : Bool) : Encode.Statement (.vfcvtfi d a m) := by
  intro _ _
  exact decode_checked (kd := .v) (ka := .v) (kb := .none) (x := none) (m := 8) (b := 0) (a := a) (d := d) (f := (maskFunc m 38))
      (i := (.vfcvtfi d a m)) (by simp only [decodeFields, decodeVfp, func6_maskFunc, m_maskFunc]; rfl) (by decide) rfl rfl rfl rfl

theorem Encode.vfcvtw (d : BitVec 7) (a : BitVec 7) (m : Bool) : Encode.Statement (.vfcvtw d a m) := by
  intro _ _
  exact decode_checked (kd := .v) (ka := .v) (kb := .none) (x := none) (m := 8) (b := 0) (a := a) (d := d) (f := (maskFunc m 40))
      (i := (.vfcvtw d a m)) (by simp only [decodeFields, decodeVfp, func6_maskFunc, m_maskFunc]; rfl) (by decide) rfl rfl rfl rfl

theorem Encode.vcvtb (d : BitVec 7) (a : BitVec 7) (m : Bool) : Encode.Statement (.vcvtb d a m) := by
  intro _ _
  exact decode_checked (kd := .v) (ka := .v) (kb := .none) (x := none) (m := 9) (b := 0) (a := a) (d := d) (f := (maskFunc m 0))
      (i := (.vcvtb d a m)) (by simp only [decodeFields, decodeVmisc, decodeVmiscPlain, func6_maskFunc, m_maskFunc]; rfl) (by decide) rfl rfl rfl rfl

theorem Encode.vcvtx (d : BitVec 7) (a : BitVec 7) (m : Bool) : Encode.Statement (.vcvtx d a m) := by
  intro _ _
  exact decode_checked (kd := .v) (ka := .v) (kb := .none) (x := none) (m := 9) (b := 0) (a := a) (d := d) (f := (maskFunc m 1))
      (i := (.vcvtx d a m)) (by simp only [decodeFields, decodeVmisc, decodeVmiscPlain, func6_maskFunc, m_maskFunc]; rfl) (by decide) rfl rfl rfl rfl

theorem Encode.vbfly (d : BitVec 7) (a : BitVec 7) (b : Src) (m : Bool) : Encode.Statement (.vbfly d a b m) := by
  intro _ _
  exact decode_checked (kd := .v) (ka := .v) (kb := .g) (x := b.ext) (m := 9) (b := b.field) (a := a) (d := d) (f := (maskFunc m 2))
      (i := (.vbfly d a b m)) (by simp only [decodeFields, decodeVmisc, decodeVmiscPlain, func6_maskFunc, m_maskFunc]; rfl) (by decide) rfl rfl (by cases b.ext <;> rfl) rfl

theorem Encode.vbflyc (a : BitVec 7) (b : Src) (pair : Option (BitVec 7 × Bool)) : Encode.Statement (.vbflyc a b pair) := by
  intro _ _
  obtain ⟨f, x⟩ := b
  cases pair with
  | none =>
    have e : encode (.vbflyc a ⟨f, x⟩ none) = withExt x (packRrr 9 f a 0 (maskFunc false 3)) := by cases x <;> rfl
    rw [e]
    exact decode_checked (kd := .none) (ka := .v) (kb := .g) (x := x) (m := 9) (b := f) (a := a) (d := 0) (f := maskFunc false 3)
      (i := .vbflyc a ⟨f, x⟩ none) (by simp only [decodeFields, decodeVmisc, decodeVmiscPlain, func6_maskFunc, m_maskFunc]; rfl) (by decide) rfl rfl
      (by cases x <;> rfl) rfl
  | some p =>
    obtain ⟨d, m⟩ := p
    have hp : pairOf [⟨packRrr 9 0 0 d (maskFunc m 4), true⟩] = some (.ok (d, m)) := by
      simp [pairOf, ofWord_packRrr, func6_maskFunc, m_maskFunc]
    have e : encode (.vbflyc a ⟨f, x⟩ (some (d, m))) =
        withExt x (packRrr 9 f a 0 (maskFunc false 3)) ++ [⟨packRrr 9 0 0 d (maskFunc m 4), true⟩] := rfl
    rw [e]
    refine decode_pair (x := x) (m := 9) (b := f) (a := a) (d := 0) (f := maskFunc false 3)
      (w := ⟨packRrr 9 0 0 d (maskFunc m 4), true⟩) (i := .vbflyc a ⟨f, x⟩ (some (d, m))) (by decide) rfl ?_
    simp only [decodeFields, decodeVmisc, decodeVmiscPlain, func6_maskFunc, m_maskFunc, hp]
    exact checkRrr_ok (kd := .none) (ka := .v) (kb := .g) (f := ⟨9, f, a, 0, maskFunc false 3⟩) (x := x) rfl rfl
      (by cases x <;> rfl) rfl

theorem Encode.vperm (d : BitVec 7) (a : BitVec 7) (b : BitVec 7) (m : Bool) : Encode.Statement (.vperm d a b m) := by
  intro _ _
  exact decode_checked (kd := .v) (ka := .v) (kb := .v) (x := none) (m := 9) (b := b) (a := a) (d := d) (f := (maskFunc m 5))
      (i := (.vperm d a b m)) (by simp only [decodeFields, decodeVmisc, decodeVmiscPlain, func6_maskFunc, m_maskFunc]; rfl) (by decide) rfl rfl rfl rfl

theorem Encode.vslup (d : BitVec 7) (a : BitVec 7) (b : Src) (m : Bool) : Encode.Statement (.vslup d a b m) := by
  intro _ _
  exact decode_checked (kd := .v) (ka := .v) (kb := .g) (x := b.ext) (m := 9) (b := b.field) (a := a) (d := d) (f := (maskFunc m 6))
      (i := (.vslup d a b m)) (by simp only [decodeFields, decodeVmisc, decodeVmiscPlain, func6_maskFunc, m_maskFunc]; rfl) (by decide) rfl rfl (by cases b.ext <;> rfl) rfl

theorem Encode.vsldn (d : BitVec 7) (a : BitVec 7) (b : Src) (m : Bool) : Encode.Statement (.vsldn d a b m) := by
  intro _ _
  exact decode_checked (kd := .v) (ka := .v) (kb := .g) (x := b.ext) (m := 9) (b := b.field) (a := a) (d := d) (f := (maskFunc m 7))
      (i := (.vsldn d a b m)) (by simp only [decodeFields, decodeVmisc, decodeVmiscPlain, func6_maskFunc, m_maskFunc]; rfl) (by decide) rfl rfl (by cases b.ext <;> rfl) rfl

theorem Encode.vcomp (d : BitVec 7) (a : BitVec 7) (m : Bool) : Encode.Statement (.vcomp d a m) := by
  intro _ _
  exact decode_checked (kd := .v) (ka := .v) (kb := .none) (x := none) (m := 9) (b := 0) (a := a) (d := d) (f := (maskFunc m 8))
      (i := (.vcomp d a m)) (by simp only [decodeFields, decodeVmisc, decodeVmiscPlain, func6_maskFunc, m_maskFunc]; rfl) (by decide) rfl rfl rfl rfl

theorem Encode.vexpd (d : BitVec 7) (a : BitVec 7) (m : Bool) : Encode.Statement (.vexpd d a m) := by
  intro _ _
  exact decode_checked (kd := .v) (ka := .v) (kb := .none) (x := none) (m := 9) (b := 0) (a := a) (d := d) (f := (maskFunc m 9))
      (i := (.vexpd d a m)) (by simp only [decodeFields, decodeVmisc, decodeVmiscPlain, func6_maskFunc, m_maskFunc]; rfl) (by decide) rfl rfl rfl rfl

theorem Encode.viota (d : BitVec 7) (a : BitVec 7) (m : Bool) : Encode.Statement (.viota d a m) := by
  intro h _
  have h : (maskField a) = true := h
  exact decode_checked (kd := .v) (ka := .m) (kb := .none) (x := none) (m := 9) (b := 0) (a := a) (d := d) (f := (maskFunc m 10))
      (i := (.viota d a m)) (by simp only [decodeFields, decodeVmisc, decodeVmiscPlain, func6_maskFunc, m_maskFunc]; rfl) (by decide) rfl rfl rfl (by rw [show FieldKind.inRange .m a = true from h]; rfl)

theorem Encode.vid (d : BitVec 7) (m : Bool) : Encode.Statement (.vid d m) := by
  intro _ _
  exact decode_checked (kd := .v) (ka := .none) (kb := .none) (x := none) (m := 9) (b := 0) (a := 0) (d := d) (f := (maskFunc m 11))
      (i := (.vid d m)) (by simp only [decodeFields, decodeVmisc, decodeVmiscPlain, func6_maskFunc, m_maskFunc]; rfl) (by decide) rfl rfl rfl rfl

theorem Encode.vredsum (d : BitVec 7) (a : BitVec 7) (m : Bool) : Encode.Statement (.vredsum d a m) := by
  intro _ _
  exact decode_checked (kd := .v) (ka := .v) (kb := .none) (x := none) (m := 9) (b := 0) (a := a) (d := d) (f := (maskFunc m 12))
      (i := (.vredsum d a m)) (by simp only [decodeFields, decodeVmisc, decodeVmiscPlain, func6_maskFunc, m_maskFunc]; rfl) (by decide) rfl rfl rfl rfl

theorem Encode.vredmax (d : BitVec 7) (a : BitVec 7) (m : Bool) : Encode.Statement (.vredmax d a m) := by
  intro _ _
  exact decode_checked (kd := .v) (ka := .v) (kb := .none) (x := none) (m := 9) (b := 0) (a := a) (d := d) (f := (maskFunc m 13))
      (i := (.vredmax d a m)) (by simp only [decodeFields, decodeVmisc, decodeVmiscPlain, func6_maskFunc, m_maskFunc]; rfl) (by decide) rfl rfl rfl rfl

theorem Encode.vredmin (d : BitVec 7) (a : BitVec 7) (m : Bool) : Encode.Statement (.vredmin d a m) := by
  intro _ _
  exact decode_checked (kd := .v) (ka := .v) (kb := .none) (x := none) (m := 9) (b := 0) (a := a) (d := d) (f := (maskFunc m 14))
      (i := (.vredmin d a m)) (by simp only [decodeFields, decodeVmisc, decodeVmiscPlain, func6_maskFunc, m_maskFunc]; rfl) (by decide) rfl rfl rfl rfl

theorem Encode.vfredsum (d : BitVec 7) (a : BitVec 7) (m : Bool) : Encode.Statement (.vfredsum d a m) := by
  intro _ _
  exact decode_checked (kd := .v) (ka := .v) (kb := .none) (x := none) (m := 9) (b := 0) (a := a) (d := d) (f := (maskFunc m 15))
      (i := (.vfredsum d a m)) (by simp only [decodeFields, decodeVmisc, decodeVmiscPlain, func6_maskFunc, m_maskFunc]; rfl) (by decide) rfl rfl rfl rfl

theorem Encode.vfredmax (d : BitVec 7) (a : BitVec 7) (m : Bool) : Encode.Statement (.vfredmax d a m) := by
  intro _ _
  exact decode_checked (kd := .v) (ka := .v) (kb := .none) (x := none) (m := 9) (b := 0) (a := a) (d := d) (f := (maskFunc m 16))
      (i := (.vfredmax d a m)) (by simp only [decodeFields, decodeVmisc, decodeVmiscPlain, func6_maskFunc, m_maskFunc]; rfl) (by decide) rfl rfl rfl rfl

theorem Encode.vcswi (d : BitVec 7) (a : BitVec 7) (b : BitVec 7) (m : Bool) : Encode.Statement (.vcswi d a b m) := by
  intro _ _
  exact decode_checked (kd := .v) (ka := .v) (kb := .v) (x := none) (m := 9) (b := b) (a := a) (d := d) (f := (maskFunc m 17))
      (i := (.vcswi d a b m)) (by simp only [decodeFields, decodeVmisc, decodeVmiscPlain, func6_maskFunc, m_maskFunc]; rfl) (by decide) rfl rfl rfl rfl

theorem Encode.vsegsum (d : BitVec 7) (a : BitVec 7) (b : BitVec 7) (m : Bool) : Encode.Statement (.vsegsum d a b m) := by
  intro h _
  have h : (maskField b) = true := h
  exact decode_checked (kd := .v) (ka := .v) (kb := .m) (x := none) (m := 9) (b := b) (a := a) (d := d) (f := (maskFunc m 18))
      (i := (.vsegsum d a b m)) (by simp only [decodeFields, decodeVmisc, decodeVmiscPlain, func6_maskFunc, m_maskFunc]; rfl) (by decide) rfl rfl rfl (by rw [show FieldKind.inRange .m b = true from h]; rfl)

theorem Encode.vsegscan (d : BitVec 7) (a : BitVec 7) (b : BitVec 7) (m : Bool) : Encode.Statement (.vsegscan d a b m) := by
  intro h _
  have h : (maskField b) = true := h
  exact decode_checked (kd := .v) (ka := .v) (kb := .m) (x := none) (m := 9) (b := b) (a := a) (d := d) (f := (maskFunc m 19))
      (i := (.vsegscan d a b m)) (by simp only [decodeFields, decodeVmisc, decodeVmiscPlain, func6_maskFunc, m_maskFunc]; rfl) (by decide) rfl rfl rfl (by rw [show FieldKind.inRange .m b = true from h]; rfl)

theorem Encode.mand (d : BitVec 7) (a : BitVec 7) (b : BitVec 7) : Encode.Statement (.mand d a b) := by
  intro h _
  have h : (maskField d && maskField a && maskField b) = true := h
  exact decode_checked (kd := .m) (ka := .m) (kb := .m) (x := none) (m := 9) (b := b) (a := a) (d := d) (f := (maskFunc false 20))
      (i := (.mand d a b)) (by simp only [decodeFields, decodeVmisc, decodeVmiscPlain, func6_maskFunc, m_maskFunc]; rfl) (by decide) rfl rfl rfl h

theorem Encode.mor (d : BitVec 7) (a : BitVec 7) (b : BitVec 7) : Encode.Statement (.mor d a b) := by
  intro h _
  have h : (maskField d && maskField a && maskField b) = true := h
  exact decode_checked (kd := .m) (ka := .m) (kb := .m) (x := none) (m := 9) (b := b) (a := a) (d := d) (f := (maskFunc false 21))
      (i := (.mor d a b)) (by simp only [decodeFields, decodeVmisc, decodeVmiscPlain, func6_maskFunc, m_maskFunc]; rfl) (by decide) rfl rfl rfl h

theorem Encode.mxor (d : BitVec 7) (a : BitVec 7) (b : BitVec 7) : Encode.Statement (.mxor d a b) := by
  intro h _
  have h : (maskField d && maskField a && maskField b) = true := h
  exact decode_checked (kd := .m) (ka := .m) (kb := .m) (x := none) (m := 9) (b := b) (a := a) (d := d) (f := (maskFunc false 22))
      (i := (.mxor d a b)) (by simp only [decodeFields, decodeVmisc, decodeVmiscPlain, func6_maskFunc, m_maskFunc]; rfl) (by decide) rfl rfl rfl h

theorem Encode.mandn (d : BitVec 7) (a : BitVec 7) (b : BitVec 7) : Encode.Statement (.mandn d a b) := by
  intro h _
  have h : (maskField d && maskField a && maskField b) = true := h
  exact decode_checked (kd := .m) (ka := .m) (kb := .m) (x := none) (m := 9) (b := b) (a := a) (d := d) (f := (maskFunc false 23))
      (i := (.mandn d a b)) (by simp only [decodeFields, decodeVmisc, decodeVmiscPlain, func6_maskFunc, m_maskFunc]; rfl) (by decide) rfl rfl rfl h

theorem Encode.mnot (d : BitVec 7) (a : BitVec 7) : Encode.Statement (.mnot d a) := by
  intro h _
  have h : (maskField d && maskField a) = true := h
  exact decode_checked (kd := .m) (ka := .m) (kb := .none) (x := none) (m := 9) (b := 0) (a := a) (d := d) (f := (maskFunc false 24))
      (i := (.mnot d a)) (by simp only [decodeFields, decodeVmisc, decodeVmiscPlain, func6_maskFunc, m_maskFunc]; rfl) (by decide) rfl rfl rfl (by rw [show (FieldKind.inRange .m d && FieldKind.inRange .m a) = true from h]; rfl)

theorem Encode.mpopc (d : BitVec 7) (a : BitVec 7) : Encode.Statement (.mpopc d a) := by
  intro h _
  have h : (maskField a) = true := h
  exact decode_checked (kd := .g) (ka := .m) (kb := .none) (x := none) (m := 9) (b := 0) (a := a) (d := d) (f := (maskFunc false 25))
      (i := (.mpopc d a)) (by simp only [decodeFields, decodeVmisc, decodeVmiscPlain, func6_maskFunc, m_maskFunc]; rfl) (by decide) rfl rfl rfl (by rw [show FieldKind.inRange .m a = true from h]; rfl)

theorem Encode.mfirst (d : BitVec 7) (a : BitVec 7) : Encode.Statement (.mfirst d a) := by
  intro h _
  have h : (maskField a) = true := h
  exact decode_checked (kd := .g) (ka := .m) (kb := .none) (x := none) (m := 9) (b := 0) (a := a) (d := d) (f := (maskFunc false 26))
      (i := (.mfirst d a)) (by simp only [decodeFields, decodeVmisc, decodeVmiscPlain, func6_maskFunc, m_maskFunc]; rfl) (by decide) rfl rfl rfl (by rw [show FieldKind.inRange .m a = true from h]; rfl)

theorem Encode.mtov (d : BitVec 7) (a : BitVec 7) (m : Bool) : Encode.Statement (.mtov d a m) := by
  intro h _
  have h : (maskField a) = true := h
  exact decode_checked (kd := .v) (ka := .m) (kb := .none) (x := none) (m := 9) (b := 0) (a := a) (d := d) (f := (maskFunc m 27))
      (i := (.mtov d a m)) (by simp only [decodeFields, decodeVmisc, decodeVmiscPlain, func6_maskFunc, m_maskFunc]; rfl) (by decide) rfl rfl rfl (by rw [show FieldKind.inRange .m a = true from h]; rfl)

theorem Encode.mfrv (d : BitVec 7) (a : BitVec 7) (m : Bool) : Encode.Statement (.mfrv d a m) := by
  intro h _
  have h : (maskField d) = true := h
  exact decode_checked (kd := .m) (ka := .v) (kb := .none) (x := none) (m := 9) (b := 0) (a := a) (d := d) (f := (maskFunc m 28))
      (i := (.mfrv d a m)) (by simp only [decodeFields, decodeVmisc, decodeVmiscPlain, func6_maskFunc, m_maskFunc]; rfl) (by decide) rfl rfl rfl (by rw [show FieldKind.inRange .m d = true from h]; rfl)

theorem Encode.vld (d : BitVec 7) (a : BitVec 7) (m : Bool) : Encode.Statement (.vld d a m) := by
  intro _ _
  exact decode_checked (kd := .v) (ka := .g) (kb := .none) (x := none) (m := 10) (b := 0) (a := a) (d := d) (f := (maskFunc m 0))
      (i := (.vld d a m)) (by simp only [decodeFields, decodeVmem, func6_maskFunc, m_maskFunc]; rfl) (by decide) rfl rfl rfl rfl

theorem Encode.vlds (d : BitVec 7) (a : BitVec 7) (b : Src) (m : Bool) : Encode.Statement (.vlds d a b m) := by
  intro _ _
  exact decode_checked (kd := .v) (ka := .g) (kb := .g) (x := b.ext) (m := 10) (b := b.field) (a := a) (d := d) (f := (maskFunc m 1))
      (i := (.vlds d a b m)) (by simp only [decodeFields, decodeVmem, func6_maskFunc, m_maskFunc]; rfl) (by decide) rfl rfl (by cases b.ext <;> rfl) rfl

theorem Encode.vldx (d : BitVec 7) (a : BitVec 7) (b : BitVec 7) (m : Bool) : Encode.Statement (.vldx d a b m) := by
  intro _ _
  exact decode_checked (kd := .v) (ka := .g) (kb := .v) (x := none) (m := 10) (b := b) (a := a) (d := d) (f := (maskFunc m 2))
      (i := (.vldx d a b m)) (by simp only [decodeFields, decodeVmem, func6_maskFunc, m_maskFunc]; rfl) (by decide) rfl rfl rfl rfl

theorem Encode.vst (d : BitVec 7) (a : BitVec 7) (m : Bool) : Encode.Statement (.vst d a m) := by
  intro _ _
  exact decode_checked (kd := .v) (ka := .g) (kb := .none) (x := none) (m := 10) (b := 0) (a := a) (d := d) (f := (maskFunc m 3))
      (i := (.vst d a m)) (by simp only [decodeFields, decodeVmem, func6_maskFunc, m_maskFunc]; rfl) (by decide) rfl rfl rfl rfl

theorem Encode.vsts (d : BitVec 7) (a : BitVec 7) (b : Src) (m : Bool) : Encode.Statement (.vsts d a b m) := by
  intro _ _
  exact decode_checked (kd := .v) (ka := .g) (kb := .g) (x := b.ext) (m := 10) (b := b.field) (a := a) (d := d) (f := (maskFunc m 4))
      (i := (.vsts d a b m)) (by simp only [decodeFields, decodeVmem, func6_maskFunc, m_maskFunc]; rfl) (by decide) rfl rfl (by cases b.ext <;> rfl) rfl

theorem Encode.vstx (d : BitVec 7) (a : BitVec 7) (b : BitVec 7) (m : Bool) : Encode.Statement (.vstx d a b m) := by
  intro _ _
  exact decode_checked (kd := .v) (ka := .g) (kb := .v) (x := none) (m := 10) (b := b) (a := a) (d := d) (f := (maskFunc m 5))
      (i := (.vstx d a b m)) (by simp only [decodeFields, decodeVmem, func6_maskFunc, m_maskFunc]; rfl) (by decide) rfl rfl rfl rfl

theorem Encode.vldff (d : BitVec 7) (a : BitVec 7) (m : Bool) : Encode.Statement (.vldff d a m) := by
  intro _ _
  exact decode_checked (kd := .v) (ka := .g) (kb := .none) (x := none) (m := 10) (b := 0) (a := a) (d := d) (f := (maskFunc m 6))
      (i := (.vldff d a m)) (by simp only [decodeFields, decodeVmem, func6_maskFunc, m_maskFunc]; rfl) (by decide) rfl rfl rfl rfl

theorem Encode.vldnr (d : BitVec 7) (a : BitVec 7) (m : Bool) : Encode.Statement (.vldnr d a m) := by
  intro _ _
  exact decode_checked (kd := .v) (ka := .g) (kb := .none) (x := none) (m := 10) (b := 0) (a := a) (d := d) (f := (maskFunc m 7))
      (i := (.vldnr d a m)) (by simp only [decodeFields, decodeVmem, func6_maskFunc, m_maskFunc]; rfl) (by decide) rfl rfl rfl rfl

theorem Encode.vldfe (d : BitVec 7) (a : BitVec 7) (m : Bool) : Encode.Statement (.vldfe d a m) := by
  intro _ _
  exact decode_checked (kd := .v) (ka := .g) (kb := .none) (x := none) (m := 10) (b := 0) (a := a) (d := d) (f := (maskFunc m 8))
      (i := (.vldfe d a m)) (by simp only [decodeFields, decodeVmem, func6_maskFunc, m_maskFunc]; rfl) (by decide) rfl rfl rfl rfl

theorem Encode.vldfec (d : BitVec 7) (a : BitVec 7) (m : Bool) : Encode.Statement (.vldfec d a m) := by
  intro _ _
  exact decode_checked (kd := .v) (ka := .g) (kb := .none) (x := none) (m := 10) (b := 0) (a := a) (d := d) (f := (maskFunc m 9))
      (i := (.vldfec d a m)) (by simp only [decodeFields, decodeVmem, func6_maskFunc, m_maskFunc]; rfl) (by decide) rfl rfl rfl rfl

theorem Encode.vgl (d : BitVec 7) (a : BitVec 7) (b : BitVec 7) (m : Bool) : Encode.Statement (.vgl d a b m) := by
  intro _ _
  exact decode_checked (kd := .v) (ka := .g) (kb := .v) (x := none) (m := 10) (b := b) (a := a) (d := d) (f := (maskFunc m 10))
      (i := (.vgl d a b m)) (by simp only [decodeFields, decodeVmem, func6_maskFunc, m_maskFunc]; rfl) (by decide) rfl rfl rfl rfl

theorem Encode.vsc (d : BitVec 7) (a : BitVec 7) (b : BitVec 7) (m : Bool) : Encode.Statement (.vsc d a b m) := by
  intro _ _
  exact decode_checked (kd := .v) (ka := .g) (kb := .v) (x := none) (m := 10) (b := b) (a := a) (d := d) (f := (maskFunc m 11))
      (i := (.vsc d a b m)) (by simp only [decodeFields, decodeVmem, func6_maskFunc, m_maskFunc]; rfl) (by decide) rfl rfl rfl rfl

theorem Encode.vldt (d : BitVec 7) (a : BitVec 7) (b : Src) (m : Bool) : Encode.Statement (.vldt d a b m) := by
  intro _ _
  exact decode_checked (kd := .v) (ka := .g) (kb := .g) (x := b.ext) (m := 10) (b := b.field) (a := a) (d := d) (f := (maskFunc m 12))
      (i := (.vldt d a b m)) (by simp only [decodeFields, decodeVmem, func6_maskFunc, m_maskFunc]; rfl) (by decide) rfl rfl (by cases b.ext <;> rfl) rfl

theorem Encode.vpf (a : BitVec 7) (m : Bool) : Encode.Statement (.vpf a m) := by
  intro _ _
  exact decode_checked (kd := .none) (ka := .g) (kb := .none) (x := none) (m := 10) (b := 0) (a := a) (d := 0) (f := (maskFunc m 13))
      (i := (.vpf a m)) (by simp only [decodeFields, decodeVmem, func6_maskFunc, m_maskFunc]; rfl) (by decide) rfl rfl rfl rfl

theorem Encode.thnew (d : BitVec 7) (a : BitVec 7) : Encode.Statement (.thnew d a) := by
  intro _ _
  exact decode_checked (kd := .g) (ka := .g) (kb := .none) (x := none) (m := 11) (b := 0) (a := a) (d := d) (f := 0)
      (i := (.thnew d a)) rfl (by decide) rfl rfl rfl rfl

theorem Encode.thfree (a : BitVec 7) : Encode.Statement (.thfree a) := by
  intro _ _
  exact decode_checked (kd := .none) (ka := .g) (kb := .none) (x := none) (m := 11) (b := 0) (a := a) (d := 0) (f := 1)
      (i := (.thfree a)) rfl (by decide) rfl rfl rfl rfl

theorem Encode.thacqr (a : BitVec 7) : Encode.Statement (.thacqr a) := by
  intro _ _
  exact decode_checked (kd := .none) (ka := .g) (kb := .none) (x := none) (m := 11) (b := 0) (a := a) (d := 0) (f := 2)
      (i := (.thacqr a)) rfl (by decide) rfl rfl rfl rfl

theorem Encode.thacqw (a : BitVec 7) : Encode.Statement (.thacqw a) := by
  intro _ _
  exact decode_checked (kd := .none) (ka := .g) (kb := .none) (x := none) (m := 11) (b := 0) (a := a) (d := 0) (f := 3)
      (i := (.thacqw a)) rfl (by decide) rfl rfl rfl rfl

theorem Encode.threl (a : BitVec 7) : Encode.Statement (.threl a) := by
  intro _ _
  exact decode_checked (kd := .none) (ka := .g) (kb := .none) (x := none) (m := 11) (b := 0) (a := a) (d := 0) (f := 4)
      (i := (.threl a)) rfl (by decide) rfl rfl rfl rfl

theorem Encode.thsplit (d : BitVec 7) (a : BitVec 7) (b : Src) : Encode.Statement (.thsplit d a b) := by
  intro _ _
  exact decode_checked (kd := .g) (ka := .g) (kb := .g) (x := b.ext) (m := 11) (b := b.field) (a := a) (d := d) (f := 5)
      (i := (.thsplit d a b)) rfl (by decide) rfl rfl (by cases b.ext <;> rfl) rfl

theorem Encode.thinfo (d : BitVec 7) (a : BitVec 7) : Encode.Statement (.thinfo d a) := by
  intro _ _
  exact decode_checked (kd := .g) (ka := .g) (kb := .none) (x := none) (m := 11) (b := 0) (a := a) (d := d) (f := 6)
      (i := (.thinfo d a)) rfl (by decide) rfl rfl rfl rfl

theorem Encode.macq (d : BitVec 7) : Encode.Statement (.macq d) := by
  intro h _
  have h : (tileField d) = true := h
  exact decode_checked (kd := .z) (ka := .none) (kb := .none) (x := none) (m := 11) (b := 0) (a := 0) (d := d) (f := 7)
      (i := (.macq d)) rfl (by decide) rfl rfl rfl (by rw [show FieldKind.inRange .z d = true from h]; rfl)

theorem Encode.mrelz (d : BitVec 7) : Encode.Statement (.mrelz d) := by
  intro h _
  have h : (tileField d) = true := h
  exact decode_checked (kd := .z) (ka := .none) (kb := .none) (x := none) (m := 11) (b := 0) (a := 0) (d := d) (f := 8)
      (i := (.mrelz d)) rfl (by decide) rfl rfl rfl (by rw [show FieldKind.inRange .z d = true from h]; rfl)

theorem Encode.mzero (d : BitVec 7) : Encode.Statement (.mzero d) := by
  intro h _
  have h : (tileField d) = true := h
  exact decode_checked (kd := .z) (ka := .none) (kb := .none) (x := none) (m := 11) (b := 0) (a := 0) (d := d) (f := 9)
      (i := (.mzero d)) rfl (by decide) rfl rfl rfl (by rw [show FieldKind.inRange .z d = true from h]; rfl)

theorem Encode.mma (d : BitVec 7) (a : BitVec 7) (b : Src) : Encode.Statement (.mma d a b) := by
  intro h _
  have h : (tileField d) = true := h
  exact decode_checked (kd := .z) (ka := .g) (kb := .g) (x := b.ext) (m := 11) (b := b.field) (a := a) (d := d) (f := 10)
      (i := (.mma d a b)) rfl (by decide) rfl rfl (by cases b.ext <;> rfl) (by rw [show FieldKind.inRange .z d = true from h]; rfl)

theorem Encode.mmai (d : BitVec 7) (a : BitVec 7) (b : Src) : Encode.Statement (.mmai d a b) := by
  intro h _
  have h : (tileField d) = true := h
  exact decode_checked (kd := .z) (ka := .g) (kb := .g) (x := b.ext) (m := 11) (b := b.field) (a := a) (d := d) (f := 11)
      (i := (.mmai d a b)) rfl (by decide) rfl rfl (by cases b.ext <;> rfl) (by rw [show FieldKind.inRange .z d = true from h]; rfl)

theorem Encode.mmag (d : BitVec 7) (a : BitVec 7) (b : Src) : Encode.Statement (.mmag d a b) := by
  intro h _
  have h : (tileField d) = true := h
  exact decode_checked (kd := .z) (ka := .g) (kb := .g) (x := b.ext) (m := 11) (b := b.field) (a := a) (d := d) (f := 12)
      (i := (.mmag d a b)) rfl (by decide) rfl rfl (by cases b.ext <;> rfl) (by rw [show FieldKind.inRange .z d = true from h]; rfl)

theorem Encode.matv (d : BitVec 7) (a : BitVec 7) (b : Src) : Encode.Statement (.matv d a b) := by
  intro h _
  have h : (tileField a) = true := h
  exact decode_checked (kd := .v) (ka := .z) (kb := .g) (x := b.ext) (m := 11) (b := b.field) (a := a) (d := d) (f := 13)
      (i := (.matv d a b)) rfl (by decide) rfl rfl (by cases b.ext <;> rfl) (by rw [show FieldKind.inRange .z a = true from h]; rfl)

theorem Encode.mvta (d : BitVec 7) (a : BitVec 7) (b : Src) : Encode.Statement (.mvta d a b) := by
  intro h _
  have h : (tileField d) = true := h
  exact decode_checked (kd := .z) (ka := .v) (kb := .g) (x := b.ext) (m := 11) (b := b.field) (a := a) (d := d) (f := 14)
      (i := (.mvta d a b)) rfl (by decide) rfl rfl (by cases b.ext <;> rfl) (by rw [show FieldKind.inRange .z d = true from h]; rfl)

theorem Encode.mlda (d : BitVec 7) (a : BitVec 7) : Encode.Statement (.mlda d a) := by
  intro h _
  have h : (tileField d) = true := h
  exact decode_checked (kd := .z) (ka := .g) (kb := .none) (x := none) (m := 11) (b := 0) (a := a) (d := d) (f := 15)
      (i := (.mlda d a)) rfl (by decide) rfl rfl rfl (by rw [show FieldKind.inRange .z d = true from h]; rfl)

theorem Encode.msta (d : BitVec 7) (a : BitVec 7) : Encode.Statement (.msta d a) := by
  intro h _
  have h : (tileField d) = true := h
  exact decode_checked (kd := .z) (ka := .g) (kb := .none) (x := none) (m := 11) (b := 0) (a := a) (d := d) (f := 16)
      (i := (.msta d a)) rfl (by decide) rfl rfl rfl (by rw [show FieldKind.inRange .z d = true from h]; rfl)

theorem Encode.tagst (d : BitVec 7) (a : BitVec 7) (b : Src) (o : Order) : Encode.Statement (.tagst d a b o) := by
  intro _ _
  exact decode_checked (kd := .g) (ka := .g) (kb := .g) (x := b.ext) (m := 12) (b := b.field) (a := a) (d := d) (f := ((0 : BitVec 5) ++ o.bits))
      (i := (.tagst d a b o)) (by simp only [decodeFields, decodeTag, op5_order, order_order]; rfl) (by decide) rfl rfl (by cases b.ext <;> rfl) rfl

theorem Encode.tagld (d : BitVec 7) (a : BitVec 7) (b : Src) (o : Order) : Encode.Statement (.tagld d a b o) := by
  intro _ _
  exact decode_checked (kd := .g) (ka := .g) (kb := .g) (x := b.ext) (m := 12) (b := b.field) (a := a) (d := d) (f := ((1 : BitVec 5) ++ o.bits))
      (i := (.tagld d a b o)) (by simp only [decodeFields, decodeTag, op5_order, order_order]; rfl) (by decide) rfl rfl (by cases b.ext <;> rfl) rfl

theorem Encode.tcnt (d : BitVec 7) (a : BitVec 7) (b : Src) (o : Order) : Encode.Statement (.tcnt d a b o) := by
  intro _ _
  exact decode_checked (kd := .g) (ka := .g) (kb := .g) (x := b.ext) (m := 12) (b := b.field) (a := a) (d := d) (f := ((2 : BitVec 5) ++ o.bits))
      (i := (.tcnt d a b o)) (by simp only [decodeFields, decodeTag, op5_order, order_order]; rfl) (by decide) rfl rfl (by cases b.ext <;> rfl) rfl

theorem Encode.tclr (d : BitVec 7) (a : BitVec 7) (b : Src) (o : Order) : Encode.Statement (.tclr d a b o) := by
  intro _ _
  exact decode_checked (kd := .g) (ka := .g) (kb := .g) (x := b.ext) (m := 12) (b := b.field) (a := a) (d := d) (f := ((3 : BitVec 5) ++ o.bits))
      (i := (.tclr d a b o)) (by simp only [decodeFields, decodeTag, op5_order, order_order]; rfl) (by decide) rfl rfl (by cases b.ext <;> rfl) rfl

theorem Encode.tfill (d : BitVec 7) (a : BitVec 7) (b : Src) (o : Order) : Encode.Statement (.tfill d a b o) := by
  intro _ _
  exact decode_checked (kd := .g) (ka := .g) (kb := .g) (x := b.ext) (m := 12) (b := b.field) (a := a) (d := d) (f := ((4 : BitVec 5) ++ o.bits))
      (i := (.tfill d a b o)) (by simp only [decodeFields, decodeTag, op5_order, order_order]; rfl) (by decide) rfl rfl (by cases b.ext <;> rfl) rfl

theorem Encode.tretag (d : BitVec 7) (a : BitVec 7) (b : Src) (o : Order) : Encode.Statement (.tretag d a b o) := by
  intro _ _
  exact decode_checked (kd := .g) (ka := .g) (kb := .g) (x := b.ext) (m := 12) (b := b.field) (a := a) (d := d) (f := ((5 : BitVec 5) ++ o.bits))
      (i := (.tretag d a b o)) (by simp only [decodeFields, decodeTag, op5_order, order_order]; rfl) (by decide) rfl rfl (by cases b.ext <;> rfl) rfl

theorem Encode.tinc (d : BitVec 7) (a : BitVec 7) (b : Src) (o : Order) : Encode.Statement (.tinc d a b o) := by
  intro _ _
  exact decode_checked (kd := .g) (ka := .g) (kb := .g) (x := b.ext) (m := 12) (b := b.field) (a := a) (d := d) (f := ((6 : BitVec 5) ++ o.bits))
      (i := (.tinc d a b o)) (by simp only [decodeFields, decodeTag, op5_order, order_order]; rfl) (by decide) rfl rfl (by cases b.ext <;> rfl) rfl

theorem Encode.tcomp (d : BitVec 7) (a : BitVec 7) (b : Src) (o : Order) : Encode.Statement (.tcomp d a b o) := by
  intro _ _
  exact decode_checked (kd := .g) (ka := .g) (kb := .g) (x := b.ext) (m := 12) (b := b.field) (a := a) (d := d) (f := ((7 : BitVec 5) ++ o.bits))
      (i := (.tcomp d a b o)) (by simp only [decodeFields, decodeTag, op5_order, order_order]; rfl) (by decide) rfl rfl (by cases b.ext <;> rfl) rfl

theorem Encode.tsum (d : BitVec 7) (a : BitVec 7) (b : Src) (o : Order) : Encode.Statement (.tsum d a b o) := by
  intro _ _
  exact decode_checked (kd := .g) (ka := .g) (kb := .g) (x := b.ext) (m := 12) (b := b.field) (a := a) (d := d) (f := ((8 : BitVec 5) ++ o.bits))
      (i := (.tsum d a b o)) (by simp only [decodeFields, decodeTag, op5_order, order_order]; rfl) (by decide) rfl rfl (by cases b.ext <;> rfl) rfl

theorem Encode.rcopy (d : BitVec 7) (a : BitVec 7) (b : Src) (o : Order) : Encode.Statement (.rcopy d a b o) := by
  intro _ _
  exact decode_checked (kd := .g) (ka := .g) (kb := .g) (x := b.ext) (m := 13) (b := b.field) (a := a) (d := d) (f := ((0 : BitVec 5) ++ o.bits))
      (i := (.rcopy d a b o)) (by simp only [decodeFields, decodeEng, op5_order, order_order]; rfl) (by decide) rfl rfl (by cases b.ext <;> rfl) rfl

theorem Encode.rcopys (d : BitVec 7) (a : BitVec 7) (b : Src) (o : Order) : Encode.Statement (.rcopys d a b o) := by
  intro _ _
  exact decode_checked (kd := .g) (ka := .g) (kb := .g) (x := b.ext) (m := 13) (b := b.field) (a := a) (d := d) (f := ((1 : BitVec 5) ++ o.bits))
      (i := (.rcopys d a b o)) (by simp only [decodeFields, decodeEng, op5_order, order_order]; rfl) (by decide) rfl rfl (by cases b.ext <;> rfl) rfl

theorem Encode.rzero (d : BitVec 7) (a : BitVec 7) (b : Src) (o : Order) : Encode.Statement (.rzero d a b o) := by
  intro _ _
  exact decode_checked (kd := .g) (ka := .g) (kb := .g) (x := b.ext) (m := 13) (b := b.field) (a := a) (d := d) (f := ((2 : BitVec 5) ++ o.bits))
      (i := (.rzero d a b o)) (by simp only [decodeFields, decodeEng, op5_order, order_order]; rfl) (by decide) rfl rfl (by cases b.ext <;> rfl) rfl

theorem Encode.cpy (d : BitVec 7) (a : BitVec 7) (b : Src) (o : Order) : Encode.Statement (.cpy d a b o) := by
  intro _ _
  exact decode_checked (kd := .g) (ka := .g) (kb := .g) (x := b.ext) (m := 13) (b := b.field) (a := a) (d := d) (f := ((3 : BitVec 5) ++ o.bits))
      (i := (.cpy d a b o)) (by simp only [decodeFields, decodeEng, op5_order, order_order]; rfl) (by decide) rfl rfl (by cases b.ext <;> rfl) rfl

theorem Encode.vstrm (d : BitVec 7) (a : BitVec 7) (b : Src) (o : Order) : Encode.Statement (.vstrm d a b o) := by
  intro _ _
  exact decode_checked (kd := .g) (ka := .g) (kb := .g) (x := b.ext) (m := 13) (b := b.field) (a := a) (d := d) (f := ((4 : BitVec 5) ++ o.bits))
      (i := (.vstrm d a b o)) (by simp only [decodeFields, decodeEng, op5_order, order_order]; rfl) (by decide) rfl rfl (by cases b.ext <;> rfl) rfl

theorem Encode.rhist (d : BitVec 7) (a : BitVec 7) (b : Src) (o : Order) : Encode.Statement (.rhist d a b o) := by
  intro _ _
  exact decode_checked (kd := .g) (ka := .g) (kb := .g) (x := b.ext) (m := 13) (b := b.field) (a := a) (d := d) (f := ((5 : BitVec 5) ++ o.bits))
      (i := (.rhist d a b o)) (by simp only [decodeFields, decodeEng, op5_order, order_order]; rfl) (by decide) rfl rfl (by cases b.ext <;> rfl) rfl

theorem Encode.rscan (d : BitVec 7) (a : BitVec 7) (b : Src) (o : Order) : Encode.Statement (.rscan d a b o) := by
  intro _ _
  exact decode_checked (kd := .g) (ka := .g) (kb := .g) (x := b.ext) (m := 13) (b := b.field) (a := a) (d := d) (f := ((6 : BitVec 5) ++ o.bits))
      (i := (.rscan d a b o)) (by simp only [decodeFields, decodeEng, op5_order, order_order]; rfl) (by decide) rfl rfl (by cases b.ext <;> rfl) rfl

theorem Encode.rsort (d : BitVec 7) (a : BitVec 7) (b : Src) (o : Order) : Encode.Statement (.rsort d a b o) := by
  intro _ _
  exact decode_checked (kd := .g) (ka := .g) (kb := .g) (x := b.ext) (m := 13) (b := b.field) (a := a) (d := d) (f := ((7 : BitVec 5) ++ o.bits))
      (i := (.rsort d a b o)) (by simp only [decodeFields, decodeEng, op5_order, order_order]; rfl) (by decide) rfl rfl (by cases b.ext <;> rfl) rfl

theorem Encode.rcomb (d : BitVec 7) (a : BitVec 7) (b : Src) (o : Order) : Encode.Statement (.rcomb d a b o) := by
  intro _ _
  exact decode_checked (kd := .g) (ka := .g) (kb := .g) (x := b.ext) (m := 13) (b := b.field) (a := a) (d := d) (f := ((8 : BitVec 5) ++ o.bits))
      (i := (.rcomb d a b o)) (by simp only [decodeFields, decodeEng, op5_order, order_order]; rfl) (by decide) rfl rfl (by cases b.ext <;> rfl) rfl

theorem Encode.expq (d : BitVec 7) (b : Src) (o : Order) : Encode.Statement (.expq d b o) := by
  intro _ _
  exact decode_checked (kd := .g) (ka := .none) (kb := .g) (x := b.ext) (m := 13) (b := b.field) (a := 0) (d := d) (f := ((9 : BitVec 5) ++ o.bits))
      (i := (.expq d b o)) (by simp only [decodeFields, decodeEng, op5_order, order_order]; rfl) (by decide) rfl rfl (by cases b.ext <;> rfl) rfl

theorem Encode.exppark (d : BitVec 7) (a : BitVec 7) (b : Src) (o : Order) : Encode.Statement (.exppark d a b o) := by
  intro _ _
  exact decode_checked (kd := .g) (ka := .g) (kb := .g) (x := b.ext) (m := 13) (b := b.field) (a := a) (d := d) (f := ((10 : BitVec 5) ++ o.bits))
      (i := (.exppark d a b o)) (by simp only [decodeFields, decodeEng, op5_order, order_order]; rfl) (by decide) rfl rfl (by cases b.ext <;> rfl) rfl

theorem Encode.exppoll (d : BitVec 7) (a : BitVec 7) (b : Src) (o : Order) : Encode.Statement (.exppoll d a b o) := by
  intro _ _
  exact decode_checked (kd := .g) (ka := .g) (kb := .g) (x := b.ext) (m := 13) (b := b.field) (a := a) (d := d) (f := ((11 : BitVec 5) ++ o.bits))
      (i := (.exppoll d a b o)) (by simp only [decodeFields, decodeEng, op5_order, order_order]; rfl) (by decide) rfl rfl (by cases b.ext <;> rfl) rfl

theorem Encode.exprel (d : BitVec 7) (b : Src) (o : Order) : Encode.Statement (.exprel d b o) := by
  intro _ _
  exact decode_checked (kd := .g) (ka := .none) (kb := .g) (x := b.ext) (m := 13) (b := b.field) (a := 0) (d := d) (f := ((12 : BitVec 5) ++ o.bits))
      (i := (.exprel d b o)) (by simp only [decodeFields, decodeEng, op5_order, order_order]; rfl) (by decide) rfl rfl (by cases b.ext <;> rfl) rfl

theorem Encode.pgreq (d : BitVec 7) (b : Src) (o : Order) : Encode.Statement (.pgreq d b o) := by
  intro _ _
  exact decode_checked (kd := .g) (ka := .none) (kb := .g) (x := b.ext) (m := 13) (b := b.field) (a := 0) (d := d) (f := ((13 : BitVec 5) ++ o.bits))
      (i := (.pgreq d b o)) (by simp only [decodeFields, decodeEng, op5_order, order_order]; rfl) (by decide) rfl rfl (by cases b.ext <;> rfl) rfl

theorem Encode.tlaunch (d : BitVec 7) (a : BitVec 7) (b : Src) (o : Order) : Encode.Statement (.tlaunch d a b o) := by
  intro _ _
  exact decode_checked (kd := .g) (ka := .g) (kb := .g) (x := b.ext) (m := 13) (b := b.field) (a := a) (d := d) (f := ((14 : BitVec 5) ++ o.bits))
      (i := (.tlaunch d a b o)) (by simp only [decodeFields, decodeEng, op5_order, order_order]; rfl) (by decide) rfl rfl (by cases b.ext <;> rfl) rfl

theorem Encode.engwait (d : BitVec 7) (a : BitVec 7) : Encode.Statement (.engwait d a) := by
  intro _ _
  exact decode_checked (kd := .g) (ka := .g) (kb := .none) (x := none) (m := 13) (b := 0) (a := a) (d := d) (f := ((15 : BitVec 5) ++ Order.plain.bits))
      (i := (.engwait d a)) (by simp only [decodeFields, decodeEng, op5_order, order_order]; rfl) (by decide) rfl rfl rfl rfl

theorem Encode.engtest (d : BitVec 7) (a : BitVec 7) : Encode.Statement (.engtest d a) := by
  intro _ _
  exact decode_checked (kd := .g) (ka := .g) (kb := .none) (x := none) (m := 13) (b := 0) (a := a) (d := d) (f := ((16 : BitVec 5) ++ Order.plain.bits))
      (i := (.engtest d a)) (by simp only [decodeFields, decodeEng, op5_order, order_order]; rfl) (by decide) rfl rfl rfl rfl

theorem Encode.commandAccept (tid : BitVec 32) (slot : BitVec 5) : Encode.Statement (.commandAccept tid slot) := fun _ h => absurd rfl h

theorem Encode.commandCompletion (tid : BitVec 32) (slot : BitVec 5) : Encode.Statement (.commandCompletion tid slot) := fun _ h => absurd rfl h

theorem Encode.accordPacket (tid : BitVec 32) (stack : BitVec 4) : Encode.Statement (.accordPacket tid stack) := fun _ h => absurd rfl h

theorem Encode.matchAndAct (tid : BitVec 32) (row : BitVec 25) : Encode.Statement (.matchAndAct tid row) := fun _ h => absurd rfl h

theorem Encode.requestPacket (stack : BitVec 4) : Encode.Statement (.requestPacket stack) := fun _ h => absurd rfl h

theorem Encode.readReply (port : BitVec 12) (reply : ReplyName) : Encode.Statement (.readReply port reply) := fun _ h => absurd rfl h

theorem Encode.tenureGrant (tid : BitVec 32) : Encode.Statement (.tenureGrant tid) := fun _ h => absurd rfl h

theorem Encode.dispatchRound (die : BitVec 2) : Encode.Statement (.dispatchRound die) := fun _ h => absurd rfl h

theorem Encode.pauseExpiry (tid : BitVec 32) : Encode.Statement (.pauseExpiry tid) := fun _ h => absurd rfl h

theorem Encode.idleExpiry (tid : BitVec 32) : Encode.Statement (.idleExpiry tid) := fun _ h => absurd rfl h

theorem Encode.tqreplayReplay (tenant : BitVec 4) (sel : ReplaySel) : Encode.Statement (.tqreplayReplay tenant sel) := fun _ h => absurd rfl h

theorem Encode.tqreplayAnswer (tenant : BitVec 4) (sel : ReplaySel) : Encode.Statement (.tqreplayAnswer tenant sel) := fun _ h => absurd rfl h

theorem Encode.tqreplayDeliver (tenant : BitVec 4) (sel : ReplaySel) : Encode.Statement (.tqreplayDeliver tenant sel) := fun _ h => absurd rfl h

theorem Encode.tqreplayEnd (tenant : BitVec 4) (sel : ReplaySel) : Encode.Statement (.tqreplayEnd tenant sel) := fun _ h => absurd rfl h

theorem Encode.tqcfgWrite (tenant : BitVec 4) (value : Dword) : Encode.Statement (.tqcfgWrite tenant value) := fun _ h => absurd rfl h

theorem Encode.tqptrHeadWrite (tenant : BitVec 4) (value : Dword) : Encode.Statement (.tqptrHeadWrite tenant value) := fun _ h => absurd rfl h

theorem Encode.expertFetchDone (tenant : BitVec 4) (expert : BitVec 16) : Encode.Statement (.expertFetchDone tenant expert) := fun _ h => absurd rfl h

theorem Encode.expertFetchFailure (tenant : BitVec 4) (expert : BitVec 16) : Encode.Statement (.expertFetchFailure tenant expert) := fun _ h => absurd rfl h

theorem Encode.evictionEnd (tenant : BitVec 4) (expert : BitVec 16) : Encode.Statement (.evictionEnd tenant expert) := fun _ h => absurd rfl h

theorem Encode.expdoneWrite (tenant : BitVec 4) (value : Dword) : Encode.Statement (.expdoneWrite tenant value) := fun _ h => absurd rfl h

theorem Encode.harptrHeadWrite (tenant : BitVec 4) (value : Dword) : Encode.Statement (.harptrHeadWrite tenant value) := fun _ h => absurd rfl h

theorem Encode.ertcfgWrite (tenant : BitVec 4) (value : Dword) : Encode.Statement (.ertcfgWrite tenant value) := fun _ h => absurd rfl h

theorem Encode.exppoolWrite (tenant : BitVec 4) (value : Dword) : Encode.Statement (.exppoolWrite tenant value) := fun _ h => absurd rfl h

theorem Encode.townctlAssign (stack : BitVec 4) (frame : BitVec 14) (countM1 : BitVec 14) (tenant : BitVec 4) : Encode.Statement (.townctlAssign stack frame countM1 tenant) := fun _ h => absurd rfl h

theorem Encode.townctlRelease (stack : BitVec 4) (frame : BitVec 14) (countM1 : BitVec 14) : Encode.Statement (.townctlRelease stack frame countM1) := fun _ h => absurd rfl h

theorem Encode.ownershipRowChange (stack : BitVec 4) : Encode.Statement (.ownershipRowChange stack) := fun _ h => absurd rfl h

theorem Encode.qcfgWrite (queue : BitVec 10) (value : Dword) : Encode.Statement (.qcfgWrite queue value) := fun _ h => absurd rfl h

theorem Encode.qtailWrite (queue : BitVec 10) (value : Dword) : Encode.Statement (.qtailWrite queue value) := fun _ h => absurd rfl h

theorem Encode.doorbell (vf : BitVec 5) (value : Dword) (width : BitVec 4) : Encode.Statement (.doorbell vf value width) := fun _ h => absurd rfl h

theorem Encode.l2wqWrite (die : BitVec 2) (tenant : BitVec 4) (value : Dword) : Encode.Statement (.l2wqWrite die tenant value) := fun _ h => absurd rfl h

theorem Encode.dirqWrite (die : BitVec 2) (tenant : BitVec 4) (value : Dword) : Encode.Statement (.dirqWrite die tenant value) := fun _ h => absurd rfl h

theorem Encode.ctxpoolWrite (die : BitVec 2) (tenant : BitVec 4) (value : Dword) : Encode.Statement (.ctxpoolWrite die tenant value) := fun _ h => absurd rfl h

theorem Encode.lanedisWrite (die : BitVec 2) (core : BitVec 6) (value : Dword) : Encode.Statement (.lanedisWrite die core value) := fun _ h => absurd rfl h

theorem Encode.hdmbaseWrite (die : BitVec 2) (k : BitVec 3) (value : Dword) : Encode.Statement (.hdmbaseWrite die k value) := fun _ h => absurd rfl h

theorem Encode.hdmctlWrite (die : BitVec 2) (k : BitVec 3) (value : Dword) : Encode.Statement (.hdmctlWrite die k value) := fun _ h => absurd rfl h

theorem Encode.apbaseWrite (k : BitVec 6) (value : Dword) : Encode.Statement (.apbaseWrite k value) := fun _ h => absurd rfl h

theorem Encode.apctlWrite (k : BitVec 6) (value : Dword) : Encode.Statement (.apctlWrite k value) := fun _ h => absurd rfl h

theorem Encode.splitWrite (tenant : BitVec 4) (value : Dword) : Encode.Statement (.splitWrite tenant value) := fun _ h => absurd rfl h

theorem Encode.managementRegisterWrite (die : BitVec 2) (offset : BitVec 16) (value : Dword) : Encode.Statement (.managementRegisterWrite die offset value) := fun _ h => absurd rfl h

theorem Encode.vfFunctionLevelReset (tenant : BitVec 4) : Encode.Statement (.vfFunctionLevelReset tenant) := fun _ h => absurd rfl h

theorem Encode.bringUp : Encode.Statement .bringUp := fun _ h => absurd rfl h

theorem Encode.refresh (stack : BitVec 4) (bank : BitVec 10) (row : BitVec 16) : Encode.Statement (.refresh stack bank row) := fun _ h => absurd rfl h

theorem Encode.patrolScrub (stack : BitVec 4) (bank : BitVec 10) (row : BitVec 16) : Encode.Statement (.patrolScrub stack bank row) := fun _ h => absurd rfl h

theorem Encode.stackTemperatureHigh (stack : BitVec 4) : Encode.Statement (.stackTemperatureHigh stack) := fun _ h => absurd rfl h

theorem Encode.activationCountBackOff (stack : BitVec 4) (bank : BitVec 10) (row : BitVec 16) : Encode.Statement (.activationCountBackOff stack bank row) := fun _ h => absurd rfl h

theorem Encode.criticalTemperature (stack : BitVec 4) : Encode.Statement (.criticalTemperature stack) := fun _ h => absurd rfl h

theorem Encode.selfRefreshExit (stack : BitVec 4) : Encode.Statement (.selfRefreshExit stack) := fun _ h => absurd rfl h

theorem Encode.islandClockLowering (die : BitVec 2) (island : BitVec 4) (mhz : BitVec 10) : Encode.Statement (.islandClockLowering die island mhz) := fun _ h => absurd rfl h

theorem Encode.dieTemperatureStop (die : BitVec 2) : Encode.Statement (.dieTemperatureStop die) := fun _ h => absurd rfl h

theorem Encode.dieFailure (die : BitVec 2) : Encode.Statement (.dieFailure die) := fun _ h => absurd rfl h

theorem Encode.linkLevelReplay (link : BitVec 8) : Encode.Statement (.linkLevelReplay link) := fun _ h => absurd rfl h

theorem Encode.pathFailure (peer : BitVec 12) : Encode.Statement (.pathFailure peer) := fun _ h => absurd rfl h

theorem Encode.pathTimeout (peer : BitVec 12) : Encode.Statement (.pathTimeout peer) := fun _ h => absurd rfl h

theorem Encode.bruronLinkPacket (peer : BitVec 12) (seq : BitVec 32) (access : MemAccess) : Encode.Statement (.bruronLinkPacket peer seq access) := fun _ h => absurd rfl h

theorem Encode.packetAcknowledgement (peer : BitVec 12) (seq : BitVec 32) : Encode.Statement (.packetAcknowledgement peer seq) := fun _ h => absurd rfl h

theorem Encode.hostAccess (port : BitVec 2) (access : MemAccess) : Encode.Statement (.hostAccess port access) := fun _ h => absurd rfl h

theorem Encode.backInvalidateSnoop (port : BitVec 2) (line : BitVec 45) : Encode.Statement (.backInvalidateSnoop port line) := fun _ h => absurd rfl h

theorem Encode.unassignedFunctionCode (sub : BitVec 8) : Encode.Statement (.unassignedFunctionCode sub) := fun _ h => absurd rfl h

theorem Encode.lPrefixMisplaced : Encode.Statement .lPrefixMisplaced := fun _ h => absurd rfl h

theorem Encode.unpairedVcvtbc (d : BitVec 7) (m : Bool) : Encode.Statement (.unpairedVcvtbc d m) := by
  intro _ _
  exact decode_checked (kd := .v) (ka := .none) (kb := .none) (x := none) (m := 9) (b := 0) (a := 0) (d := d) (f := (maskFunc m 4))
      (i := (.unpairedVcvtbc d m)) (by simp only [decodeFields, decodeVmisc, decodeVmiscPlain, func6_maskFunc, m_maskFunc]; rfl) (by decide) rfl rfl rfl rfl

theorem Encode.softError (site : ErrorSite) : Encode.Statement (.softError site) := fun _ h => absurd rfl h

theorem Encode.stackTemperatureNormal (stack : BitVec 4) : Encode.Statement (.stackTemperatureNormal stack) := fun _ h => absurd rfl h

theorem Encode.islandClockRaise (die : BitVec 2) (island : BitVec 4) (mhz : BitVec 10) : Encode.Statement (.islandClockRaise die island mhz) := fun _ h => absurd rfl h

theorem Encode.tenantRemoval (tenant : BitVec 4) : Encode.Statement (.tenantRemoval tenant) := fun _ h => absurd rfl h

theorem Encode.attestationRequest (nonce : BitVec 256) : Encode.Statement (.attestationRequest nonce) := fun _ h => absurd rfl h

end Sys2Proof.Laws
end

