-- ==== Sys2Proof/Laws/Vector.lean ====
section
/-! SUPPORT. What a vector instruction answers when it executes at once, and what the writes of a group or a mask leave to be read. -/

namespace Sys2Proof.Machine

open Sys2Proof

/-! ### Executing at once -/

/-- The entries that touch no memory and no accumulator. -/
def VOp.local : VOp → Bool
  | .mem _ _ _ | .matv _ _ | .mvta _ _ => false
  | _ => true

theorem waitsForStores_zero (s : State) (t : Thread) : waitsForStores s t 0 = false := by simp [waitsForStores]

theorem pushWait_local (t : Thread) {op : VOp} (h : op.local = true) : pushWait t op = 0 := by
  cases op <;> simp_all [VOp.local, pushWait]

theorem stepHead_local (s : State) (t : Thread) (e : VEntry) (h : e.op.local = true) (hz : e.waitStores = 0) : stepHead s t e = runHead s t e := by
  unfold stepHead
  rw [hz]
  simp only [waitsForStores_zero]
  have hw : ∀ s1, waitsForMatrix s1 t e = false := by
    intro s1
    unfold waitsForMatrix
    cases ho : e.op <;> simp_all [VOp.local]
  cases ho : e.op <;> simp_all [VOp.local, VOp.tile]

/-- An entry without poisoned sources meets no poison. -/
theorem firstBad_clean (v : VView) (stop : Nat) (h1 : v.badV = []) (h2 : v.badM = []) (h3 : v.e.badScalar = false) :
    firstBad v stop = none := by
  simp [firstBad, h1, h2, h3]

@[simp] theorem Thread.takeCount_tid (t : Thread) (v : VView) : (t.takeCount v).tid = t.tid := by
  unfold Thread.takeCount; split <;> simp

@[simp] theorem Thread.takeCount_vq (t : Thread) (v : VView) : (t.takeCount v).vq = t.vq := by
  unfold Thread.takeCount; split <;> simp

/-- An entry that is no MPOPC and no MFIRST writes no scalar register. -/
theorem Thread.takeCount_other (t : Thread) (v : VView) (h : ∀ first d a, v.e.op ≠ .count first d a) : t.takeCount v = t := by
  unfold Thread.takeCount; split
  · rename_i e
    exact absurd e (h _ _ _)
  · rfl

/-- What an entry that touches no memory makes of its thread when nothing stops it. -/
def committedBody (t : Thread) (e : VEntry) : Thread :=
  let v := viewOf t e
  if v.vl = 0 then (t.takeCount v).commitHead e Flags.none
  else
    let b := vectorBody v (2 ^ 17)
    ((withWrites t e b.1 (if raisesFlags v then b.2 else [])).takeCount v).commitHead e (allFlags b.2)

theorem runHead_local (s : State) (t : Thread) (e : VEntry) (h : e.op.local = true) (hb : bodyStop (viewOf t e) = .finish) :
    runHead s t e = (s.setThread (committedBody t e), .committed) := by
  unfold runHead committedBody
  by_cases hz : (viewOf t e).vl = 0
  · simp [hz]
  · simp only [hz, if_false]
    cases ho : e.op <;> simp_all [VOp.local]

/-- A vector instruction that executes at once. -/
theorem vectorOp_local {s : State} {t : Thread} {i : Instr} {f : Thread → Push} (r : Runs s t) (hq : t.vq = []) (hh : t.holdVec = false)
    (hf : lowest (f t).faults = none) (ho : (f t).op.local = true)
    (hb : bodyStop (viewOf (t.pushed (entryOf t i (f t)) (f t).slots) (entryOf t i (f t))) = .finish) :
    vectorOp s i f = .next (s.setThread (committedBody (t.pushed (entryOf t i (f t)) (f t).slots) (entryOf t i (f t)))) := by
  have hfound := Runs.found r
  rw [vectorOp, onThread_runs r]
  congr 1
  simp only [pushVector, hq, List.length_nil, Config.vectorQueueSize, Nat.zero_lt_succ, if_true, hfound]
  simp only [hf, Nat.not_le.mpr (Nat.zero_lt_succ 63), if_false, pushEntry]
  generalize he : entryOf t i (f t) = e at hb ⊢
  generalize hu : t.pushed e (f t).slots = u at hb ⊢
  have hvq : u.vq = [e] := by rw [← hu]; simp [Thread.pushed, hq]
  have htid : u.tid = t.tid := by rw [← hu]; rfl
  have hhold : u.holdVec = false := by rw [← hu]; exact hh
  have heop : e.op.local = true := by rw [← he]; exact ho
  have hez : e.waitStores = 0 := by rw [← he]; exact pushWait_local t ho
  have h1 : (s.setThread u).thread? u.tid = some u := by
    apply State.thread?_setThread_same (u := t)
    rw [htid]; exact hfound
  have hc : (committedBody u e).tid = u.tid := by
    unfold committedBody
    dsimp only
    split <;> simp [withWrites]
  have hcv : (committedBody u e).vq = [] := by
    unfold committedBody
    dsimp only
    split <;> simp [Thread.commitHead, withWrites, hvq]
  have h2 : ((s.setThread u).setThread (committedBody u e)).thread? u.tid = some (committedBody u e) := by
    rw [← hc]
    apply State.thread?_setThread_same (u := u)
    rw [hc]; exact h1
  simp only [hhold, drainVector, hvq, List.length_singleton, drainFor, h1]
  rw [stepHead_local _ _ _ heop hez, runHead_local _ _ _ heop hb]
  simp only [h2, hcv]
  exact State.setThread_setThread s hc


/-! ### Elements of a group -/

theorem add_le_of_dvd_lt {n a b : Nat} (ha : n ∣ a) (hb : n ∣ b) (h : a < b) : a + n ≤ b := by
  obtain ⟨x, rfl⟩ := ha
  obtain ⟨y, rfl⟩ := hb
  rcases Nat.eq_zero_or_pos n with rfl | hn
  · simp at h
  · have : x < y := Nat.lt_of_mul_lt_mul_left h
    calc n * x + n = n * (x + 1) := by ring
      _ ≤ n * y := Nat.mul_le_mul_left n this

/-- Two different multiples of n bytes of a group lie apart by n bytes. -/
theorem groupByte_apart (vwb : BitVec 8) (f : BitVec 7) {k n x y : Nat} (hk : k ≤ 64) (hn : n ∣ 128) (hx : n ∣ x) (hy : n ∣ y) (h : x ≠ y) :
    groupByte vwb f k x + n ≤ groupByte vwb f k y ∨ groupByte vwb f k y + n ≤ groupByte vwb f k x := by
  unfold groupByte
  simp only
  have hr : n ∣ k * 128 := Dvd.dvd.mul_left hn k
  have hr8 : k * 128 ≤ 8192 := by omega
  rcases Nat.eq_zero_or_pos (k * 128) with h0 | hpos
  · rw [h0, Nat.div_zero, Nat.div_zero, Nat.mod_zero, Nat.mod_zero]
    rcases Nat.lt_or_gt_of_ne h with hlt | hlt
    · have := add_le_of_dvd_lt hx hy hlt; omega
    · have := add_le_of_dvd_lt hy hx hlt; omega
  · generalize hrr : k * 128 = r at *
    have ax : n ∣ x % r := (Nat.dvd_mod_iff hr).mpr hx
    have ay : n ∣ y % r := (Nat.dvd_mod_iff hr).mpr hy
    have bx := add_le_of_dvd_lt ax hr (Nat.mod_lt x hpos)
    have by_ := add_le_of_dvd_lt ay hr (Nat.mod_lt y hpos)
    have ex := Nat.div_add_mod x r
    have ey := Nat.div_add_mod y r
    rcases Nat.lt_trichotomy (x / r) (y / r) with hq | hq | hq
    · left; omega
    · rw [hq] at ex ⊢
      have hne : x % r ≠ y % r := fun he => h (by omega)
      rcases Nat.lt_or_gt_of_ne hne with hlt | hlt
      · have := add_le_of_dvd_lt ax ay hlt; omega
      · have := add_le_of_dvd_lt ay ax hlt; omega
    · right; omega

/-- The widths of elements. -/
def widths : List Nat := [8, 16, 32, 64]

theorem width_bytes {w : Nat} (h : w ∈ widths) : w / 8 ∣ 128 ∧ 256 ^ (w / 8) = 2 ^ w := by
  simp only [widths, List.mem_cons, List.not_mem_nil, or_false] at h
  rcases h with rfl | rfl | rfl | rfl <;> decide

/-- Reading an element after a write of an element of the same group. -/
theorem readElem_writeElem (regs : Memory) (vwb : BitVec 8) (f : BitVec 7) {k w : Nat} (hk : k ≤ 64) (hw : w ∈ widths) (i j v : Nat) :
    readElem (writeElem regs vwb f k w i v) vwb f k w j = if i = j then v % 2 ^ w else readElem regs vwb f k w j := by
  obtain ⟨hd, hp⟩ := width_bytes hw
  unfold readElem writeElem
  split
  · subst i
    have := Memory.readBytes_writeBytes_same regs (groupByte vwb f k (elemByte w j)) (leBytes (w / 8) v)
    rw [length_leBytes] at this
    rw [this, leNat_leBytes, hp]
  · rename_i hne
    congr 1
    apply Memory.readBytes_writeBytes_out
    rw [length_leBytes]
    have hpos : 0 < w / 8 := Nat.pos_of_ne_zero fun h0 => by rw [h0] at hd; exact absurd (Nat.eq_zero_of_zero_dvd hd) (by decide)
    have hx : elemByte w i ≠ elemByte w j := fun he => hne (Nat.eq_of_mul_eq_mul_right hpos he)
    have := groupByte_apart vwb f hk hd (Dvd.intro_left i rfl : w / 8 ∣ elemByte w i) (Dvd.intro_left j rfl : w / 8 ∣ elemByte w j) hx
    omega

/-- Bytes outside an element that is written. -/
theorem read_writeElem_out (regs : Memory) (vwb : BitVec 8) (f : BitVec 7) (k w i v a : Nat)
    (h : ∀ j, j < w / 8 → a ≠ groupByte vwb f k (elemByte w i) + j) : (writeElem regs vwb f k w i v).read a = regs.read a := by
  unfold writeElem
  apply Memory.read_writeBytes_out
  rw [length_leBytes]
  by_contra hc
  exact h (a - groupByte vwb f k (elemByte w i)) (by omega) (by omega)

/-- The index of an element write of a group, or none. -/
def VWrite.index : VWrite → Nat
  | .elem _ _ i _ => i
  | .bit _ i _ => i

/-- Element writes of one group, given as pairs of index and value. -/
def elemWrites (f : BitVec 7) (w : Nat) (ps : List (Nat × Nat)) : List VWrite := ps.map fun p => .elem f w p.1 p.2

theorem foldl_elemWrites_masks (vwb : BitVec 8) (k : Nat) (f : BitVec 7) (w : Nat) (ps : List (Nat × Nat)) (r : Memory × NatSet) :
    ((elemWrites f w ps).foldl (applyWrite vwb k) r).2 = r.2 := by
  induction ps generalizing r with
  | nil => rfl
  | cons p ps ih => simp only [elemWrites, List.map_cons, List.foldl_cons] at ih ⊢; rw [ih]; rfl

/-- An element that no write names is as it was. -/
theorem readElem_foldl_out (vwb : BitVec 8) {k : Nat} (hk : k ≤ 64) (f : BitVec 7) {w : Nat} (hw : w ∈ widths) (ps : List (Nat × Nat))
    (r : Memory × NatSet) (j : Nat) (h : ∀ p ∈ ps, p.1 ≠ j) :
    readElem ((elemWrites f w ps).foldl (applyWrite vwb k) r).1 vwb f k w j = readElem r.1 vwb f k w j := by
  induction ps generalizing r with
  | nil => rfl
  | cons p ps ih =>
    simp only [elemWrites, List.map_cons, List.foldl_cons] at ih ⊢
    rw [ih _ fun q hq => h q (List.mem_cons_of_mem _ hq)]
    simp only [applyWrite]
    rw [readElem_writeElem _ _ _ hk hw, if_neg (h p List.mem_cons_self)]

/-- An element that one write names, and every write of it gives the same value. -/
theorem readElem_foldl_in (vwb : BitVec 8) {k : Nat} (hk : k ≤ 64) (f : BitVec 7) {w : Nat} (hw : w ∈ widths) (ps : List (Nat × Nat))
    (r : Memory × NatSet) (j v : Nat) (hm : (j, v) ∈ ps) (hu : ∀ p ∈ ps, p.1 = j → p.2 = v) :
    readElem ((elemWrites f w ps).foldl (applyWrite vwb k) r).1 vwb f k w j = v % 2 ^ w := by
  induction ps generalizing r with
  | nil => cases hm
  | cons p ps ih =>
    by_cases hin : (j, v) ∈ ps
    · simp only [elemWrites, List.map_cons, List.foldl_cons] at ih ⊢
      exact ih _ hin fun q hq => hu q (List.mem_cons_of_mem _ hq)
    · have hp : p = (j, v) := by
        rcases List.mem_cons.mp hm with h | h
        · exact h.symm
        · exact absurd h hin
      subst hp
      have hout : ∀ q ∈ ps, q.1 ≠ j := fun q hq he =>
        hin (by have := hu q (List.mem_cons_of_mem _ hq) he; rw [← he, ← this]; exact hq)
      have := readElem_foldl_out vwb hk f hw ps (applyWrite vwb k r (.elem f w j v)) j hout
      simp only [elemWrites, List.map_cons, List.foldl_cons] at this ⊢
      rw [this]
      simp only [applyWrite]
      rw [readElem_writeElem _ _ _ hk hw, if_pos rfl]

/-- Bytes outside every element written. -/
theorem read_foldl_out (vwb : BitVec 8) (k : Nat) (f : BitVec 7) (w : Nat) (ps : List (Nat × Nat)) (r : Memory × NatSet) (a : Nat)
    (h : ∀ p ∈ ps, ∀ j, j < w / 8 → a ≠ groupByte vwb f k (elemByte w p.1) + j) :
    ((elemWrites f w ps).foldl (applyWrite vwb k) r).1.read a = r.1.read a := by
  induction ps generalizing r with
  | nil => rfl
  | cons p ps ih =>
    simp only [elemWrites, List.map_cons, List.foldl_cons] at ih ⊢
    rw [ih _ fun q hq => h q (List.mem_cons_of_mem _ hq)]
    exact read_writeElem_out _ _ _ _ _ _ _ _ (h p List.mem_cons_self)

/-! ### Group results -/

/-- The pairs of index and value that a group result writes. -/
def groupPairs (v : VView) (on : Nat → Bool) (stop : Nat) (res : Nat → Nat) : List (Nat × Nat) :=
  ((v.span stop).filterMap fun i => if on i then some (i, res i) else if vtIz v.e.vtype then some (i, 0) else none) ++
    (if vtTz v.e.vtype && v.vl ≤ stop then ((List.range v.vmax).drop (max v.vl v.vstart)).map fun i => (i, 0) else [])

theorem groupResult_pairs (v : VView) (on : Nat → Bool) (stop : Nat) (d : BitVec 7) (w : Nat) (res : Nat → Nat) :
    groupResult v on stop d w res = elemWrites d w (groupPairs v on stop res) := by
  unfold groupResult elemWrites groupPairs spanWrites VView.tailFrom
  rw [List.map_append]
  congr 1
  · rw [List.map_filterMap]
    congr 1
    funext i
    split
    · rfl
    · split <;> rfl
  · split <;> simp [Function.comp_def]

theorem mem_span (v : VView) (stop i : Nat) : i ∈ v.span stop ↔ v.vstart ≤ i ∧ i < min v.vl stop := by
  unfold VView.span
  rw [List.mem_drop_iff_getElem]
  simp only [List.getElem_range, List.length_range]
  constructor
  · rintro ⟨j, hj, rfl⟩; omega
  · intro h; exact ⟨i - v.vstart, by omega, by omega⟩

theorem mem_drop_range (n m i : Nat) : i ∈ (List.range n).drop m ↔ m ≤ i ∧ i < n := by
  rw [List.mem_drop_iff_getElem]
  simp only [List.getElem_range, List.length_range]
  constructor
  · rintro ⟨j, hj, rfl⟩; omega
  · intro h; exact ⟨i - m, by omega, by omega⟩

/-- Which pairs a group result holds when nothing stops the entry. -/
theorem mem_groupPairs (v : VView) (on : Nat → Bool) (stop : Nat) (res : Nat → Nat) (hs : v.vl ≤ stop) (p : Nat × Nat) :
    p ∈ groupPairs v on stop res ↔
      (v.vstart ≤ p.1 ∧ p.1 < v.vl ∧ ((on p.1 = true ∧ p.2 = res p.1) ∨ (on p.1 = false ∧ vtIz v.e.vtype = true ∧ p.2 = 0))) ∨
      (vtTz v.e.vtype = true ∧ max v.vl v.vstart ≤ p.1 ∧ p.1 < v.vmax ∧ p.2 = 0) := by
  unfold groupPairs
  rw [List.mem_append, List.mem_filterMap]
  apply or_congr
  · constructor
    · rintro ⟨i, hi, he⟩
      rw [mem_span] at hi
      by_cases ho : on i = true
      · simp only [ho, if_true, Option.some.injEq] at he
        subst he
        exact ⟨hi.1, by omega, .inl ⟨ho, rfl⟩⟩
      · rw [if_neg ho] at he
        by_cases hz : vtIz v.e.vtype = true
        · simp only [hz, if_true, Option.some.injEq] at he
          subst he
          exact ⟨hi.1, by omega, .inr ⟨by simpa using ho, hz, rfl⟩⟩
        · simp [hz] at he
    · rintro ⟨h1, h2, h⟩
      refine ⟨p.1, (mem_span v stop p.1).mpr ⟨h1, by omega⟩, ?_⟩
      rcases h with ⟨ho, hv⟩ | ⟨ho, hz, hv⟩
      · simp [ho, ← hv]
      · simp [ho, hz, ← hv]
  · by_cases hz : vtTz v.e.vtype = true
    · simp only [hz, hs, decide_true, Bool.and_self, if_true, true_and]
      rw [List.mem_map]
      constructor
      · rintro ⟨i, hi, rfl⟩
        rw [mem_drop_range] at hi
        exact ⟨hi.1, hi.2, rfl⟩
      · rintro ⟨h1, h2, h3⟩
        exact ⟨p.1, (mem_drop_range _ _ _).mpr ⟨h1, h2⟩, by rw [← h3]⟩
    · simp [hz]

/-! ### Claims about groups -/

/-- A legal vector type has one of the widths of elements. -/
theorem width_of_legal {vt : BitVec 14} (h : vtLegal vt = true) : vtSew vt ∈ widths := by
  simp only [vtLegal, Bool.and_eq_true, decide_eq_true_eq] at h
  have h1 := h.1
  unfold vtSew
  generalize (vt.extractLsb' 0 3).toNat = x at *
  interval_cases x <;> decide

/-- A group that a field names passes its check. -/
theorem narrow_ok {vt : BitVec 14} {f : BitVec 7} (h : Claims.Names f (vtGroup vt)) : narrow vt f = [] := by
  simp only [narrow, groupFault, subIf]
  have h2 := h.2
  simp [h.1]; omega

/-- A group result that nothing stops leaves a group as `Dest` says, and every other byte as it was. -/
theorem group_written {t u : Thread} {e : VEntry} (d : BitVec 7) {w : Nat} (on : Nat → Bool) (res : Nat → Nat) (hw : w ∈ widths)
    (hk : t.grant.toNat ≤ 64) (hl : t.vl.toNat ≤ 2 ^ 17) (evl : e.vl = t.vl) (evt : e.vtype = t.vtype) (evw : e.vwb = t.vwb)
    (ec : e.counts = false) (masks : NatSet) (hz : t.vl ≠ 0)
    (hu : u.vregs = ((groupResult (viewOf t e) on (2 ^ 17) d w res).foldl (applyWrite e.vwb t.grant.toNat) (t.vregs, masks)).1)
    (ug : u.grant = t.grant) (uw : u.vwb = t.vwb) : Claims.GroupWritten t u d w on res := by
  rw [groupResult_pairs] at hu
  have hs : (viewOf t e).vl ≤ 2 ^ 17 := by simpa [viewOf, VView.vl, evl] using hl
  have hmem := mem_groupPairs (viewOf t e) on (2 ^ 17) res hs
  have e1 : (viewOf t e).vl = t.vl.toNat := by simp [VView.vl, viewOf, evl]
  have e2 : (viewOf t e).vstart = t.vstart.toNat := by simp [viewOf, ec]
  have e3 : (viewOf t e).vmax = vlMax t.grant.toNat t.vtype := by simp [VView.vmax, viewOf, evt]
  have e4 : (viewOf t e).e.vtype = t.vtype := evt
  rw [evw] at hu
  simp only [e1, e2, e3, e4] at hmem
  generalize groupPairs (viewOf t e) on (2 ^ 17) res = ps at hu hmem
  have hin : ∀ i v, (i, v) ∈ ps → (∀ p ∈ ps, p.1 = i → p.2 = v) → Claims.elemOf u w d i = v % 2 ^ w := by
    intro i v h1 h2
    rw [Claims.elemOf, ug, uw, hu]
    exact readElem_foldl_in _ hk d hw ps (t.vregs, masks) i v h1 h2
  have hout : ∀ i, (∀ p ∈ ps, p.1 ≠ i) → Claims.elemOf u w d i = Claims.elemOf t w d i := by
    intro i h1
    rw [Claims.elemOf, Claims.elemOf, ug, uw, hu]
    exact readElem_foldl_out _ hk d hw ps (t.vregs, masks) i h1
  refine ⟨fun i => ⟨fun h => absurd h hz, ?_, ?_, ?_, ?_⟩, ?_⟩
  · rintro ⟨h1, h2⟩ ho
    refine hin i _ ((hmem _).mpr (.inl ⟨h1, h2, .inl ⟨ho, rfl⟩⟩)) fun p hp hi => ?_
    subst hi
    rcases (hmem p).mp hp with ⟨_, _, h | h⟩ | h
    · exact h.2
    · simp [ho] at h
    · omega
  · rintro ⟨h1, h2⟩ ho
    by_cases hi : vtIz t.vtype = true
    · rw [if_pos hi, hin i 0 ((hmem _).mpr (.inl ⟨h1, h2, .inr ⟨ho, hi, rfl⟩⟩)) fun p hp he => ?_]
      · exact Nat.zero_mod _
      · subst he
        rcases (hmem p).mp hp with ⟨_, _, h | h⟩ | h
        · simp [ho] at h
        · exact h.2.2
        · omega
    · rw [if_neg hi]
      refine hout i fun p hp he => ?_
      subst he
      rcases (hmem p).mp hp with ⟨_, _, h | h⟩ | h
      · simp [ho] at h
      · exact hi h.2.1
      · omega
  · intro _ h1 h2 h3
    by_cases hi : vtTz t.vtype = true
    · rw [if_pos hi, hin i 0 ((hmem _).mpr (.inr ⟨hi, by simpa using ⟨h1, h2⟩, h3, rfl⟩)) fun p hp he => ?_]
      · exact Nat.zero_mod _
      · subst he
        rcases (hmem p).mp hp with h | h
        · omega
        · exact h.2.2.2
    · rw [if_neg hi]
      refine hout i fun p hp he => ?_
      subst he
      rcases (hmem p).mp hp with h | h
      · omega
      · exact hi h.1
  · intro h
    refine hout i fun p hp he => ?_
    subst he
    rcases (hmem p).mp hp with h' | h' <;> omega
  · intro a h
    rw [hu]
    refine read_foldl_out _ _ d w ps (t.vregs, masks) a fun p hp j hj => h p.1 j ?_ hj
    rcases (hmem p).mp hp with h' | h' <;> omega

end Sys2Proof.Machine
end

