-- ==== Sys2Proof/Tests/Slice0.lean ====
section
/-! SUPPORT. Ill-formed terms that the check refuses, words decoded, single steps with results worked out from the spec, and for every statement with
hypotheses a state and operands that meet them, clause by clause. -/

-- One theorem at a time: the check of many at once takes more memory than it may.
set_option Elab.async false

namespace Sys2Proof.Tests

open Sys2Proof Sys2Proof.Machine Sys2Proof.Claims

/-! ### Well-formedness -/

/-- A b operand that is a register. -/
abbrev r (b : BitVec 7) : Src := ⟨b, none⟩

/-- An immediate without a prefix. -/
abbrev imm (b : BitVec 11) : Imm11 := ⟨b, none⟩

theorem test_illformed_system : ([.fence 0 5, .fencesv 32] : List Instr).all (fun i => !i.wf) = true := by decide

theorem test_illformed_shifts : ([.slli 1 2 (imm 64), .srli 1 2 (imm 64), .srai 1 2 (imm 64)] : List Instr).all (fun i => !i.wf) = true := by decide

theorem test_illformed_bit_numbers : ([.bbs 1 64 (imm 0), .bbc 1 64 (imm 0)] : List Instr).all (fun i => !i.wf) = true := by decide

theorem test_illformed_integer_compares : ([.vseqVV 16 0 0 false, .vseqVG 16 0 (r 0) false, .vsneVV 16 0 0 false, .vsneVG 16 0 (r 0) false,
    .vsltVV 16 0 0 false, .vsltVG 16 0 (r 0) false, .vsltnVV 16 0 0 false, .vsltnVG 16 0 (r 0) false] : List Instr).all (fun i => !i.wf) = true := by
  decide

theorem test_illformed_float_compares : ([.vfeqVV 16 0 0 false, .vfeqVG 16 0 (r 0) false, .vfltVV 16 0 0 false, .vfltVG 16 0 (r 0) false,
    .vfleVV 16 0 0 false, .vfleVG 16 0 (r 0) false] : List Instr).all (fun i => !i.wf) = true := by decide

theorem test_illformed_mask_sources : ([.viota 0 16 false, .vsegsum 0 0 16 false, .vsegscan 0 0 16 false, .mtov 0 16 false, .mpopc 0 16,
    .mfirst 0 16] : List Instr).all (fun i => !i.wf) = true := by decide

theorem test_illformed_mask_logic : ([.mand 16 0 0, .mand 0 16 0, .mand 0 0 16, .mor 16 0 0, .mxor 0 16 0, .mandn 0 0 16, .mnot 16 0, .mnot 0 16,
    .mfrv 16 0 false] : List Instr).all (fun i => !i.wf) = true := by decide

theorem test_illformed_tiles : ([.macq 2, .mrelz 2, .mzero 2, .mma 2 0 (r 0), .mmai 2 0 (r 0), .mmag 2 0 (r 0), .matv 0 2 (r 0), .mvta 2 0 (r 0),
    .mlda 2 0, .msta 2 0] : List Instr).all (fun i => !i.wf) = true := by decide

/-- The largest legal value of each kind of field is accepted. -/
theorem test_wellformed_bounds : ([.fence 127 4, .fencesv 31, .slli 1 2 (imm 63), .bbs 1 63 (imm 0), .vseqVV 15 127 127 true, .mand 15 15 15,
    .macq 1, .viota 127 15 true] : List Instr).all Instr.wf = true := by decide

/-! ### Words -/

/-- A word of the b, a, d layout bit by bit: major [31:28], b [27:21], a [20:14], d [13:7], function [6:0] (R55). -/
theorem test_decode_sub : decode [⟨0b0001_0000111_0000110_0000101_0000001, true⟩] [] = .ok (.sub 5 6 (r 7), 1) := by decide

theorem test_decode_bbs : decode [⟨0b0100_0111111_0001001_0000000_0001110, true⟩] [] = .ok (.bbs 9 63 (imm 1), 1) := by decide

/-- A prefix in front of LIH: bits [27:0] of the L word are the high part of the constant (R58). -/
theorem test_decode_prefixed : decode [⟨0xF0123456, true⟩, ⟨0x378985D6, false⟩] [] =
    .ok (.lih 11 ⟨BitVec.ofNat 20 0x789AB, some 0x123456⟩, 2) := by decide

/-- An L prefix before another is misplaced (R60, R63). -/
theorem test_decode_double_prefix : (decode [⟨0xF0000000, true⟩, ⟨0xF0000000, false⟩] []).toOption = none := by decide

theorem test_decode_store : decode [⟨0x6FE09044, true⟩] [] = .ok (.std 32 2 (imm 0x7F8), 1) := by decide

theorem test_decode_vector : decode [⟨0b0111_0001010_0001001_0001000_0000000, true⟩] [] = .ok (.vaddVV 8 9 10 false, 1) := by decide

theorem test_decode_table_word : (decodeTableWord 32 0x10E18281 == some (.sub 5 6 (r 7))) = true := by decide

/-! ### Small states -/

/-- A thread with a handler, 16 KiB of scratchpad and a page table that maps every address to itself. -/
def th : Thread := { Thread.blank with tid := 0x10000, pc := 0x10008, atp := 0xA000000000000001, trapVec := 0x20000, spadLen := 0x4000 }

/-- The same with g1 and g2 at two values. -/
def two (x y : Dword) : Thread := (th.setG 1 x).setG 2 y

/-- A machine whose one thread is t. -/
def one (t : Thread) : State := { State.reset with threads := [t], cur := t.tid, bringUp := 6 }

/-- The same with a page table whose one leaf maps every address to itself, and a line of NOPs, a function entry, at 0x1_0000. -/
def paged (t : Thread) : State := { one t with mem := (placeFirst State.reset []).mem }

/-- An address in the scratchpad window. -/
abbrev spad (off : Nat) : Dword := BitVec.ofNat 64 (0x00FFFF0000000000 + off)

/-- Whether an access succeeds. -/
def okRes {α : Type} : Res α → Bool
  | .ok _ => true
  | _ => false

theorem ok_of {α : Type} {x : Res α} (h : okRes x = true) : ∃ a, x = .ok a := by
  cases x with
  | ok a => exact ⟨a, rfl⟩
  | wait => cases h
  | fault f => cases h

/-- Whether a translation succeeds. -/
def okExc {ε α : Type} : Except ε α → Bool
  | .ok _ => true
  | _ => false

/-- A flag's value, by the kernel's evaluation. -/
theorem settled {s : State} {t : Thread} {l : Loc} {n : Nat} {strong : Bool}
    (h : ((settle s t.tid l n strong).2 && ((settle s t.tid l n strong).1.thread? t.tid).isSome) = true) :
    ∃ s1 t1, Settled s t l n strong s1 t1 := by
  simp only [Bool.and_eq_true, Option.isSome_iff_exists] at h
  exact ⟨_, h.2.choose, Prod.ext rfl h.1, h.2.choose_spec⟩

/-- The same for a load that its port sends at once. -/
theorem settled_load {s : State} {t : Thread} {tr : Trans} {va : Dword} {n : Nat}
    (h : ((settle s t.tid tr.loc n (tr.kind = 1)).2 && ((settle s t.tid tr.loc n (tr.kind = 1)).1.thread? t.tid).isSome &&
      !portHeld (settle s t.tid tr.loc n (tr.kind = 1)).1 (missPort t.core) t.tenant tr &&
      okRes (readable (settle s t.tid tr.loc n (tr.kind = 1)).1 t.agent accLoad va tr n (some t.core))) = true) :
    ∃ s1 t1, Settled s t tr.loc n (tr.kind = 1) s1 t1 ∧ PortFree s1 t tr ∧ ∃ tr', readable s1 t.agent accLoad va tr n (some t.core) = .ok tr' := by
  simp only [Bool.and_eq_true, Option.isSome_iff_exists, Bool.not_eq_true'] at h
  exact ⟨_, _, ⟨Prod.ext rfl h.1.1.1, h.1.1.2.choose_spec⟩, .inr h.1.2, ok_of h.2⟩

theorem ok_exc {ε α : Type} {x : Except ε α} (h : okExc x = true) : ∃ a, x = .ok a := by
  cases x with
  | ok a => exact ⟨a, rfl⟩
  | error f => cases h

/-! ### Witnesses: the scalar stream -/

theorem meets_EncodeRoundTrip : Instr.wf (.bbs 127 63 (imm 0x7FF)) = true ∧ encode (.bbs 127 63 (imm 0x7FF)) ≠ [] := by decide

theorem meets_AluResults : Runs (one (two 5 6)) (two 5 6) ∧ Clean (two 5 6) [1, 2] := ⟨rfl, rfl⟩

theorem meets_DivisionResults : Runs (one (two 5 6)) (two 5 6) ∧ Clean (two 5 6) (1 :: (r 2).reads) ∧ (two 5 6).src (r 2) ≠ 0 :=
  ⟨rfl, rfl, by decide⟩

theorem meets_DivisionCorners_zero : Runs (one (two 5 0)) (two 5 0) ∧ Clean (two 5 0) (1 :: (r 2).reads) ∧ (two 5 0).src (r 2) = 0 :=
  ⟨rfl, rfl, rfl⟩

theorem meets_DivisionCorners_overflow : Runs (one (two minI64 ones64)) (two minI64 ones64) ∧
    Clean (two minI64 ones64) (1 :: (r 2).reads) ∧ (two minI64 ones64).g 1 = minI64 ∧ (two minI64 ones64).src (r 2) = ones64 :=
  ⟨rfl, rfl, rfl, rfl⟩

theorem meets_UnaryResults : Runs (one (two 0 0)) (two 0 0) ∧ Clean (two 0 0) [1] := ⟨rfl, rfl⟩

theorem meets_BitFields : Runs (one (two 5 0x1FFF)) (two 5 0x1FFF) ∧ Clean (two 5 0x1FFF) (3 :: 1 :: (r 2).reads) := ⟨rfl, rfl⟩

theorem meets_BranchOutcomes_failed : Runs (one (two 5 6)) (two 5 6) ∧ Clean (two 5 6) [1, 2] ∧ ¬ ((two 5 6).g 1).toNat = ((two 5 6).g 2).toNat :=
  ⟨rfl, rfl, by decide⟩

theorem meets_BranchOutcomes_taken : Runs (paged (two 5 5)) (two 5 5) ∧ Clean (two 5 5) [1, 2] ∧ ((two 5 5).g 1).toNat = ((two 5 5).g 2).toNat ∧
    ∃ l, arrive (paged (two 5 5)) (two 5 5) .jump false (branchTarget (two 5 5).pc (imm 0).value) = .ok l :=
  ⟨rfl, rfl, rfl, ok_of (by decide +kernel)⟩

theorem meets_BranchOutcomes_bits : (two 0x7FFFFFFFFFFFFFFF minI64).g 1 = 0x7FFFFFFFFFFFFFFF ∧
    ((two 0x7FFFFFFFFFFFFFFF minI64).g 1).getLsbD (63 : BitVec 7).toNat = false ∧
    ((two 0x7FFFFFFFFFFFFFFF minI64).g 2).getLsbD (63 : BitVec 7).toNat = true ∧ Clean (two 0x7FFFFFFFFFFFFFFF minI64) [1] ∧
    Clean (two 0x7FFFFFFFFFFFFFFF minI64) [2] ∧ Runs (paged (two 0x7FFFFFFFFFFFFFFF minI64)) (two 0x7FFFFFFFFFFFFFFF minI64) ∧
    ∃ l, arrive (paged (two 0x7FFFFFFFFFFFFFFF minI64)) (two 0x7FFFFFFFFFFFFFFF minI64) .jump false (branchTarget 0x10008 (imm 0).value) = .ok l :=
  ⟨rfl, by decide, by decide, rfl, rfl, rfl, ok_of (by decide +kernel)⟩

theorem meets_JumpOutcomes_link : Runs (paged (two 0x10008 0)) (two 0x10008 0) ∧ Clean (two 0x10008 0) [1] ∧
    (∃ l, arrive (paged (two 0x10008 0)) (two 0x10008 0) .call false (branchTarget 0x10008 0) = .ok l) ∧
    ∃ l, arrive (paged (two 0x10008 0)) (two 0x10008 0) .call true (((two 0x10008 0).g 1).extractLsb' 0 57) = .ok l :=
  ⟨rfl, rfl, ok_of (by decide +kernel), ok_of (by decide +kernel)⟩

theorem meets_JumpOutcomes_plain : (∃ l, arrive (paged (two 0x10008 0)) (two 0x10008 0) .jump false (branchTarget 0x10008 0) = .ok l) ∧
    ∃ l, arrive (paged (two 0x10008 0)) (two 0x10008 0) .jump true (((two 0x10008 0).g 1).extractLsb' 0 57) = .ok l :=
  ⟨ok_of (by decide +kernel), ok_of (by decide +kernel)⟩

/-- An address with low bits 4 is no slot address, though a multiple of 4. -/
theorem meets_ArrivalFaults_address : Runs (paged (two 0x10004 0)) (two 0x10004 0) ∧ Clean (two 0x10004 0) [1] ∧ (two 0x10004 0).vq = [] ∧
    Handles (two 0x10004 0) ∧ isSlot (((two 0x10004 0).g 1).extractLsb' 0 57) = false := ⟨rfl, rfl, rfl, ⟨rfl, by decide⟩, rfl⟩

/-- A call of slot 1: no function entry, subcause 0x04. -/
theorem meets_ArrivalFaults_line : Runs (paged (two 0x1000C 0)) (two 0x1000C 0) ∧ isSlot (((two 0x1000C 0).g 1).extractLsb' 0 57) = true ∧
    ∃ l, fetchLine (paged (two 0x1000C 0)) (two 0x1000C 0) (((two 0x1000C 0).g 1).extractLsb' 0 57) = .ok l :=
  ⟨rfl, rfl, ok_of (by decide +kernel)⟩

theorem test_call_of_slot_1 : (match fetchLine (paged th) th 0x1000C with | .ok l => headerFault .call 0x1000C l.1 | _ => none) = some 0x04 := by
  decide +kernel

/-- The last doubleword of the crew's range, and a doubleword of a mapped page. -/
theorem meets_ScalarLoads : Runs (paged (two (spad 0x3FF8) 0x30000)) (two (spad 0x3FF8) 0x30000) ∧ Clean (two (spad 0x3FF8) 0x30000) [1] ∧
    ((two (spad 0x3FF8) 0x30000).g 1 + (imm 0).value).toNat % 8 = 0 ∧
    scalarHeld (paged (two (spad 0x3FF8) 0x30000)) (two (spad 0x3FF8) 0x30000) true false = false ∧
    (∃ tr, locateScalar (paged (two (spad 0x3FF8) 0)) (two (spad 0x3FF8) 0).agent accLoad (spad 0x3FF8) 8 = .ok tr ∧
      ∃ s1 t1, Settled (paged (two (spad 0x3FF8) 0)) (two (spad 0x3FF8) 0) tr.loc 8 (tr.kind = 1) s1 t1 ∧ PortFree s1 (two (spad 0x3FF8) 0) tr ∧
        ∃ tr', readable s1 (two (spad 0x3FF8) 0).agent accLoad (spad 0x3FF8) tr 8 (some (two (spad 0x3FF8) 0).core) = .ok tr') ∧
    ∃ tr, locateScalar (paged th) th.agent accLoad 0x30000 8 = .ok tr :=
  ⟨rfl, rfl, by decide, rfl, ⟨_, rfl, settled_load (by decide +kernel)⟩, ok_of (by decide +kernel)⟩

/-- A line that the core's L1 holds needs no packet, though replies are held back. -/
theorem meets_ScalarLoads_cached :
    PortFree { one th with deferReplies := true, l1 := [{ core := 0, line := 0x600, modified := false, bad := [] }] } th (placeTrans 0x30000) :=
  .inl ⟨_, .head _, rfl, rfl⟩

/-- A thread with a held store to the doubleword that it loads: the store performs first. -/
def selfStoring : Thread :=
  { two (spad 0x3FF8) 7 with
    stores := 1
    sbuf := [{ seq := 0, loc := spadLoc 0 0x3FF8, bytes := leBytes 8 7, kind := 0, streaming := false, page := none, afterVl := 0, afterVs := 0 }] }

theorem meets_ScalarLoads_settled : (one selfStoring).thread? selfStoring.tid = some selfStoring ∧
    (∀ strong, ∃ s1 t1, Settled (one selfStoring) selfStoring (spadLoc 0 0x3FF8) 8 strong s1 t1) ∧ ∀ p ∈ selfStoring.sbuf, ¬ lost (one selfStoring) p.loc :=
  ⟨rfl, fun strong => settled (by cases strong <;> decide +kernel), fun p h q => by cases List.mem_singleton.mp h; cases q.1⟩

theorem meets_ScalarStores : Runs (one (two (spad 0x3FF8) 7)) (two (spad 0x3FF8) 7) ∧ Clean (two (spad 0x3FF8) 7) [2, 1] ∧
    ((two (spad 0x3FF8) 7).g 1 + (imm 0).value).toNat % 8 = 0 ∧ (two (spad 0x3FF8) 7).sbuf = [] ∧ (two (spad 0x3FF8) 7).holdStore = false ∧
    scalarHeld (one (two (spad 0x3FF8) 7)) (two (spad 0x3FF8) 7) false true = false ∧
    ∃ tr, locateScalar (one (two (spad 0x3FF8) 7)) (two (spad 0x3FF8) 7).agent accStore (spad 0x3FF8) 8 = .ok tr ∧ tr.kind ≠ 1 ∧
      leafHeld (one (two (spad 0x3FF8) 7)) (two (spad 0x3FF8) 7).tid accStore tr.entry = false ∧
      (∃ tr', writable (one (two (spad 0x3FF8) 7)) (two (spad 0x3FF8) 7).agent (spad 0x3FF8) tr 8 = .ok tr') ∧
      ¬ lost (one (two (spad 0x3FF8) 7)) tr.loc ∧ PortFree (one (two (spad 0x3FF8) 7)) (two (spad 0x3FF8) 7) tr :=
  ⟨rfl, rfl, by decide, rfl, rfl, rfl, ⟨_, rfl, by decide, rfl, ok_of (by decide +kernel), (fun h => by cases h.1), .inr rfl⟩⟩

/-- A line that is lost. -/
theorem meets_ScalarStores_lost : poisonSub { one th with lostLines := [0x600] } (placeTrans 0x30000).loc 8 = some 0x05 ∧ Handles th ∧ th.vq = [] :=
  ⟨by decide +kernel, ⟨rfl, by decide⟩, rfl⟩

/-- A thread whose stores are held. -/
def holder : Thread := { two (spad 0x3FF8) 7 with holdStore := true }

theorem meets_ScalarStores_held : Runs (one holder) holder ∧ Clean holder [2, 1] ∧ holder.holdStore = true ∧
    scalarHeld (one holder) holder false true = false ∧
    ∃ tr, locateScalar (one holder) holder.agent accStore (spad 0x3FF8) 8 = .ok tr ∧ tr.kind ≠ 1 ∧
      leafHeld (one holder) holder.tid accStore tr.entry = false ∧ poisonSub (one holder) tr.loc 8 ≠ some 0x05 :=
  ⟨rfl, rfl, rfl, rfl, ⟨_, rfl, by decide, rfl, by decide +kernel⟩⟩

theorem meets_FaultingAccesses_misaligned : Runs (one (two 1 0)) (two 1 0) ∧ Clean (two 1 0) [2, 1] ∧ (two 1 0).vq = [] ∧ Handles (two 1 0) ∧
    ((two 1 0).g 1 + (imm 0).value).toNat % 2 ≠ 0 := ⟨rfl, rfl, rfl, ⟨rfl, by decide⟩, by decide⟩

/-- A thread whose range begins at 16 KiB. -/
def upper (x : Dword) : Thread := { two x 0 with spadLo := 0x4000 }

/-- Just below the range, a doubleword that straddles its end, and the first byte past the scratchpad. -/
theorem meets_FaultingAccesses_range : Runs (one (upper (spad 0x3FF8))) (upper (spad 0x3FF8)) ∧ Clean (upper (spad 0x3FF8)) [2, 1] ∧
    Handles (upper (spad 0x3FF8)) ∧ scalarHeld (one (upper (spad 0x3FF8))) (upper (spad 0x3FF8)) true true = false ∧
    (∀ off ∈ [0x3FF8, 0x8000, 0x180000], (spad off).toNat % 8 = 0 ∧ 0x00FFFF0000000000 ≤ (spad off).toNat ∧
      (spad off).toNat ≤ 0x00FFFF0000FFFFFF) ∧
    (spad 0x3FF8).toNat < 0x00FFFF0000000000 + (upper 0).spadLo ∧
    0x00FFFF0000000000 + (upper 0).spadLo + (upper 0).spadLen < (spad 0x8000).toNat + 8 ∧ 0x00FFFF0000180000 ≤ (spad 0x180000).toNat :=
  ⟨rfl, rfl, ⟨rfl, by decide⟩, rfl, by decide, by decide, by decide, by decide⟩

theorem meets_StoreThenLoad : Runs (one (two (spad 0x3FF8) 7)) (two (spad 0x3FF8) 7) ∧ Clean (two (spad 0x3FF8) 7) [2, 1] ∧
    (two (spad 0x3FF8) 7).sbuf = [] ∧ (two (spad 0x3FF8) 7).holdStore = false ∧
    scalarHeld (one (two (spad 0x3FF8) 7)) (two (spad 0x3FF8) 7) true true = false ∧
    (spad 0x3FF8).toNat % 8 = 0 ∧ 0x00FFFF0000000000 + th.spadLo ≤ (spad 0x3FF8).toNat ∧
    (spad 0x3FF8).toNat + 8 ≤ 0x00FFFF0000000000 + th.spadLo + th.spadLen ∧ (spad 0x3FF8).toNat + 8 ≤ 0x00FFFF0000180000 ∧
    (one (two (spad 0x3FF8) 7)).poison = [] := ⟨rfl, rfl, rfl, rfl, rfl, by decide, by decide, by decide, by decide, rfl⟩

theorem atRest (t : Thread) (hq : t.vq = []) (hs : t.sbuf = []) : AtRest (one t) t := ⟨hq, rfl, hs⟩

theorem meets_AtomicOperations : Runs (one (two (spad 0x3FF8) 7)) (two (spad 0x3FF8) 7) ∧ Clean (two (spad 0x3FF8) 7) (3 :: 1 :: (r 2).reads) ∧
    AtRest (one (two (spad 0x3FF8) 7)) (two (spad 0x3FF8) 7) ∧
    ∃ tr, atomicLoc (one (two (spad 0x3FF8) 7)) (two (spad 0x3FF8) 7) (spad 0x3FF8) accAmo = .ok tr ∧
      awaitsAcks (one (two (spad 0x3FF8) 7)) (releases .acqrel && true) tr.loc = false ∧
      PortFree (one (two (spad 0x3FF8) 7)) (two (spad 0x3FF8) 7) tr := ⟨rfl, rfl, atRest _ rfl rfl, ⟨_, rfl, rfl, .inr rfl⟩⟩

/-- A free tag of 256, where replies are held back. -/
theorem meets_AtomicOperations_tags : PortFree { one th with deferReplies := true } th (placeTrans 0x30000) := .inr (by decide +kernel)

theorem meets_MisalignedAtomics : Runs (one (two 4 7)) (two 4 7) ∧ Clean (two 4 7) (3 :: 1 :: (r 2).reads) ∧ AtRest (one (two 4 7)) (two 4 7) ∧
    Handles (two 4 7) ∧ (two 4 7).wait ≠ .unreachable ∧ ((two 4 7).g 1).toNat % 8 ≠ 0 :=
  ⟨rfl, rfl, atRest _ rfl rfl, ⟨rfl, by decide⟩, by decide, by decide⟩

/-- The bound 0 is reached by a counter of 0, the bound 1 is not. -/
theorem meets_CountBarriers : Runs (one (two (spad 0) 0)) (two (spad 0) 0) ∧ Clean (two (spad 0) 0) (1 :: (r 2).reads) ∧
    AtRest (one (two (spad 0) 0)) (two (spad 0) 0) ∧ (two (spad 0) 0).wait ≠ .unreachable ∧
    (∃ tr, atomicLoc (one (two (spad 0) 0)) (two (spad 0) 0) (spad 0) accAmo = .ok tr ∧ awaitsAcks (one (two (spad 0) 0)) true tr.loc = false ∧
      PortFree (one (two (spad 0) 0)) (two (spad 0) 0) tr) ∧
    (∃ tr, atomicLoc (one (two (spad 0) 0)) (two (spad 0) 0) (spad 0) accLoad = .ok tr ∧ PortFree (one (two (spad 0) 0)) (two (spad 0) 0) tr ∧
      ((two (spad 0) 0).src (r 2)).toNat ≤ (((one (two (spad 0) 0)).markLeaf accLoad tr.entry).mem64 tr.loc).toNat) ∧
    ∃ tr, atomicLoc (one (two (spad 0) 1)) (two (spad 0) 1) (spad 0) accLoad = .ok tr ∧
      (((one (two (spad 0) 1)).markLeaf accLoad tr.entry).mem64 tr.loc).toNat < ((two (spad 0) 1).src (r 2)).toNat ∧
      (two (spad 0) 1).wait ≠ .barw tr.loc ((two (spad 0) 1).src (r 2)) :=
  ⟨rfl, rfl, atRest _ rfl rfl, by decide, ⟨_, rfl, rfl, .inr rfl⟩, ⟨_, rfl, .inr rfl, by decide⟩, ⟨_, rfl, by decide, by decide⟩⟩

/-- Alone in its gang a thread cannot be joined: with a second live thread it may wait. -/
theorem test_barw_reach : (match execBarw 1 (r 2) (one (two (spad 0) 1)) with | .next s => s.threads.map (·.wait) | _ => []) = [.unreachable] ∧
    (match execBarw 1 (r 2) { one (two (spad 0) 1) with threads := [two (spad 0) 1, { th with tid := 0x10001 }] } with
      | .next s => s.threads.map (·.wait)
      | _ => []) = [.barw (spadLoc 0 0) 1, .none] := by decide +kernel

/-- A waiter that cannot be reached. -/
def stranded : Thread := { two (spad 0) 1 with wait := .unreachable }

theorem meets_CountBarriers_unreachable : Runs (one stranded) stranded ∧ Clean stranded (1 :: (r 2).reads) ∧ stranded.vq = [] ∧ Handles stranded ∧
    stranded.wait = .unreachable := ⟨rfl, rfl, rfl, ⟨rfl, by decide⟩, rfl⟩

theorem meets_Watermarks : Runs (one (two (spad 0) 0)) (two (spad 0) 0) ∧ Clean (two (spad 0) 0) [2, 1] ∧
    AtRest (one (two (spad 0) 0)) (two (spad 0) 0) ∧ (∃ tr, atomicLoc (one (two (spad 0) 0)) (two (spad 0) 0) (spad 0) accAmo = .ok tr ∧
      awaitsAcks (one (two (spad 0) 0)) true tr.loc = false ∧ PortFree (one (two (spad 0) 0)) (two (spad 0) 0) tr) ∧
    (∃ tr, atomicLoc (one (two (spad 0) 0)) (two (spad 0) 0) (spad 0) accLoad = .ok tr ∧ tr.loc = spadLoc 0 0 ∧ tr.kind ≠ 1 ∧
      ((two (spad 0) 0).g 2).toNat ≤ (((settle (one (two (spad 0) 0)) th.tid tr.loc 8).1.markLeaf accLoad tr.entry).mem64 tr.loc).toNat) ∧
    (∃ tr, atomicLoc (one (two (spad 0) 1)) (two (spad 0) 1) (spad 0) accLoad = .ok tr ∧ tr.loc = spadLoc 0 0 ∧ tr.kind ≠ 1 ∧
      (((settle (one (two (spad 0) 1)) th.tid tr.loc 8).1.markLeaf accLoad tr.entry).mem64 tr.loc).toNat < ((two (spad 0) 1).g 2).toNat) ∧
    (∃ s1 t1, Settled (one (two (spad 0) 0)) (two (spad 0) 0) (spadLoc 0 0) 8 false s1 t1) ∧
    ∃ s1 t1, Settled (one (two (spad 0) 1)) (two (spad 0) 1) (spadLoc 0 0) 8 false s1 t1 :=
  ⟨rfl, rfl, atRest _ rfl rfl, ⟨_, rfl, rfl, .inr rfl⟩, ⟨_, rfl, rfl, by decide, by decide +kernel⟩,
    ⟨_, rfl, rfl, by decide, by decide +kernel⟩, settled (by decide +kernel),
    settled (by decide +kernel)⟩

theorem meets_Fences : Runs (one th) th ∧ AtRest (one th) th ∧ (0x03 : BitVec 7).getLsbD 4 = false ∧ (0x03 : BitVec 7).getLsbD 6 = false ∧
    (0x03 : BitVec 7).getLsbD 2 = false ∧ (0x03 : BitVec 7).getLsbD 3 = false := ⟨rfl, atRest _ rfl rfl, rfl, rfl, rfl, rfl⟩

/-- An engine command of th in flight. -/
def cmd : Command :=
  { tid := 0x10000, slot := 0, seq := 0, op := .rzero, tenant := 0, sup := false, atp := 0xA000000000000001, die := 0, core := 0, spadLo := 0,
    spadLen := 0x4000, acq := false, before := [], block := 0x30000, blockAt := 0x30000, arg := 0, params := [], phase := .issued, pairs := [],
    sectors := [], plan := none, next := 0, early := [], expert := none, launch := none, replay := none, repeats := [], pages := [] }

theorem meets_Fences_engine : (∀ c ∈ (one th).commands, c.tid = th.tid → c.mayWrite = false) ∧ (0x1F : BitVec 7).getLsbD 4 = true ∧
    Runs { one th with commands := [cmd] } th ∧ AtRest { one th with commands := [cmd] } th ∧
    ∃ c ∈ ({ one th with commands := [cmd] } : State).commands, c.tid = th.tid ∧ c.mayWrite = true :=
  ⟨fun _ h => (nomatch h), rfl, rfl, ⟨rfl, rfl, rfl⟩, ⟨cmd, .head _, rfl, by decide⟩⟩

/-- A thread with a queued vector load. -/
def vqueued : Thread := th.pushed (entryOf th (.vldt 8 1 (r 2) false) (memPush .ldt false 8 1 0 (some (r 2)) th)) 1

/-- DIR 0 from vector loads on to scalar loads, and DIR 1 from scalar stores on to vector loads. -/
theorem meets_Fences_vector : Runs (one vqueued) vqueued ∧ (0x05 : BitVec 7).getLsbD 4 = false ∧ (0x05 : BitVec 7).getLsbD 2 = true ∧
    (∃ e ∈ vqueued.vq, e.order < vqueued.order ∧ e.accesses ((0x05 : BitVec 7).getLsbD 0) ((0x05 : BitVec 7).getLsbD 1) = true) ∧
    (0x16 : BitVec 7).getLsbD 4 = true ∧ (0x16 : BitVec 7).getLsbD 1 = true ∧
    (if VMemOp.ldt.stores then (0x16 : BitVec 7).getLsbD 3 else (0x16 : BitVec 7).getLsbD 2) = true :=
  ⟨rfl, rfl, rfl, ⟨_, .head _, by decide, by decide⟩, rfl, rfl, rfl⟩

/-- A store that a FENCESV has put behind that load. -/
def behindLoad : Thread := ({ vqueued with fences := { StreamFence.none with ssVl := vqueued.order } }.setG 1 (spad 0x3FF8)).setG 2 7

theorem meets_ScalarStores_fenced : Runs (one behindLoad) behindLoad ∧ Clean behindLoad [2, 1] ∧ scalarHeld (one behindLoad) behindLoad false true = true ∧
    ∃ tr, locateScalar (one behindLoad) behindLoad.agent accStore (behindLoad.g 1 + (imm 0).value) 8 = .ok tr ∧
      leafHeld (one behindLoad) behindLoad.tid accStore tr.entry = false ∧ poisonSub (one behindLoad) tr.loc 8 ≠ some 0x05 :=
  ⟨rfl, rfl, by decide +kernel, ⟨_, rfl, rfl, by decide +kernel⟩⟩

/-- th in a wait, with a ticket whose status has come or not. -/
def waiting (w : Wait) (status : Option Dword) : Thread := { th with wait := w, tickets := [{ slot := 31, seq := 0xFFFF, status := status }] }

theorem meets_Pauses : (one th).stoppedDies.mem th.die.toNat = false ∧ (∀ w status, Runs (one (waiting w status)) (waiting w status)) ∧ (waiting .none none).wait = .none ∧
    (waiting (.pause 0 false) none).wait = .pause 0 false ∧ (waiting (.pause 0 true) none).wait = .pause 0 true ∧
    (∃ k ∈ (waiting .none (some 1)).tickets, k.status ≠ none) ∧ (∀ k ∈ (waiting .none none).tickets, k.status = none) ∧
    (waiting (.idle 0 false) none).wait = .idle 0 false ∧ (waiting (.idle 0 true) none).wait = .idle 0 true ∧
    (waiting (.idle 0 false) none).core < (one th).cyc.length :=
  ⟨rfl, fun _ _ => rfl, rfl, rfl, rfl, ⟨_, .head _, by decide⟩, by decide, rfl, rfl, by decide +kernel⟩

/-! ### Witnesses: traps and the thread -/

theorem meets_ProgramTraps : Runs (one th) th ∧ drainVector (one th) th = (one th, .committed) ∧ (one th).thread? th.tid = some th ∧ Handles th ∧
    (one th).debuggers.mem th.tenant.toNat = false ∧ ({ one th with debuggers := [0] } : State).debuggers.mem th.tenant.toNat = true ∧
    drainVector { one th with debuggers := [0] } th = ({ one th with debuggers := [0] }, .committed) :=
  ⟨rfl, rfl, rfl, ⟨rfl, by decide⟩, rfl, rfl, rfl⟩

/-- After reset the queue has four places: with two records queued a third still leaves the last one. -/
theorem meets_SystemCalls : Runs (one th) th ∧ th.vq = [] ∧ th.repeats = [] ∧ recordCount (one th) th.tenant + 1 < tqSize (one th) th.tenant ∧
    recordHeld (one th) th.tenant = false ∧
    recordCount { one th with mgmt := [(0x4608, 0x200000000)] } th.tenant + 1 < tqSize { one th with mgmt := [(0x4608, 0x200000000)] } th.tenant ∧
    tqSize { one th with mgmt := [(0x4608, 0x300000000)] } th.tenant ≤ recordCount { one th with mgmt := [(0x4608, 0x300000000)] } th.tenant + 1 :=
  ⟨rfl, rfl, rfl, by decide, by decide +kernel, by decide, by decide⟩

/-- A record that waits to be written holds the next one back. -/
theorem meets_SystemCalls_held :
    recordHeld { one th with
      records := [{ tenant := 0, flt := { cause := 0x17, sub := 0, va := 0, addr := 0, access := 0, expert := none, reads := [] },
                                       count := 0, eng := false, slot := 0, tid := 0, elem := 0 }] } th.tenant
      = true := by decide +kernel

theorem meets_IllegalEncodings : Runs (one th) th ∧ th.vq = [] ∧ Handles th := ⟨rfl, rfl, rfl, by decide⟩

/-- th with a poisoned g1. -/
def spoiled : Thread := { th with badScal := [1] }

theorem meets_PoisonedOperands : Runs (one spoiled) spoiled ∧ spoiled.badG 1 = true ∧ spoiled.vq = [] ∧ Handles spoiled :=
  ⟨rfl, rfl, rfl, rfl, by decide⟩

/-- th in its handler, from which it returns to the start of its line. -/
def handling : Thread :=
  { th with inHandler := true, trap := { cause := 0x16, pc := 0x10008, addr := 0, elem := 0, save := 0x10008 },
            snapshot := some { vl := 3, vtype := 2, vstart := 1, vwb := 8, swb := 16, vq := [], epoch := 0 } }

/-- th without a handler. -/
def bare : Thread := { th with trapVec := 0 }

/-- Three records queued: the last place is left. -/
theorem meets_FatalTraps : Runs (one handling) handling ∧ handling.vq = [] ∧ handling.sbuf = [] ∧ handling.inHandler = true ∧
    Runs (one bare) bare ∧ bare.trapVec = 0 ∧
    recordCount { one th with mgmt := [(0x4608, 0x300000000)] } th.tenant < tqSize { one th with mgmt := [(0x4608, 0x300000000)] } th.tenant ∧
    recordHeld { one th with mgmt := [(0x4608, 0x300000000)] } th.tenant = false :=
  ⟨rfl, rfl, rfl, rfl, rfl, rfl, by decide, by decide +kernel⟩

theorem meets_ReturnFromTrap : Runs (paged handling) handling ∧ handling.inHandler = true ∧ handling.vq = [] ∧
    (∃ c, handling.snapshot = some c) ∧ (∃ l, arrive (paged handling) handling .eret true handling.trap.save = .ok l) ∧
    Runs (one th) th ∧ th.inHandler = false ∧ th.trapVec ≠ 0 :=
  ⟨rfl, rfl, rfl, ⟨_, rfl⟩, ok_of (by decide +kernel), rfl, rfl, by decide⟩

/-- A second thread, of tenant 0 and of tenant 1. -/
def mate : Thread := { th with tid := 0x10001 }
def stranger : Thread := { th with tid := 0x10001, tenant := 1 }

/-- The machine with a second thread. -/
def pair (t u : Thread) : State := { one t with threads := [t, u] }

/-- A thread that has yielded, beside one that can issue, and alone. -/
theorem meets_Pauses_yield : ({ th with yielded := true } : Thread).yielded = true ∧
    (∃ v ∈ (pair { th with yielded := true } mate).threads, v.tid ≠ th.tid ∧ v.core = th.core ∧ v.yielded = false ∧
      runnable (pair { th with yielded := true } mate) v = true) ∧
    ∀ v ∈ (one { th with yielded := true }).threads, v.tid ≠ th.tid → v.core = th.core →
      v.yielded = true ∨ runnable (one { th with yielded := true }) v = false :=
  ⟨rfl, ⟨mate, .tail _ (.head _), by decide, rfl, rfl, by decide +kernel⟩, by decide +kernel⟩

theorem meets_ThreadEnds : Runs (one th) th ∧ AtRest (one th) th ∧
    Sparse.get 0 ({ one th with accOwner := [(1, 0x10001)] } : State).accOwner (th.core * 2 + 1) = th.tid.toNat + 1 ∧
    Runs (pair (two 0x10001 0) mate) (two 0x10001 0) ∧ Clean (two 0x10001 0) [1] ∧
    (pair (two 0x10001 0) mate).thread? (((two 0x10001 0).g 1).extractLsb' 0 32) = some mate ∧ mate.tid ≠ (two 0x10001 0).tid ∧
    mate.tenant = (two 0x10001 0).tenant ∧ field ((two 0x10001 0).g 1) 32 32 = 0 ∧ field ((two 0x10001 0).g 1) 11 5 = 0 ∧ mate.sbuf = [] ∧
    (¬ ∃ f n, mate.wait = .dying f n) ∧ (pair (two 0x10001 0) mate).accords = [] :=
  ⟨rfl, atRest _ rfl rfl, rfl, rfl, rfl, rfl, by decide, rfl, by decide, by decide, rfl, (fun h => nomatch h.choose_spec.choose_spec), rfl⟩

/-- A target that a fatal trap has ended, whose record has still to enter. -/
theorem meets_ThreadEnds_dying :
    ∃ f n, ({ mate with wait := .dying { cause := 0x16, sub := 0, va := 0, addr := 0, access := 0, expert := none, reads := [] } 0 } : Thread).wait = .dying f n :=
  ⟨_, _, rfl⟩

/-- A thread of another tenant, no thread, and each reserved field. -/
theorem meets_ThreadEnds_nothing : (pair (two 0x10001 0) stranger).thread? (((two 0x10001 0).g 1).extractLsb' 0 32) = some stranger ∧
    stranger.tenant ≠ (two 0x10001 0).tenant ∧ (one (two 0x10001 0)).thread? (((two 0x10001 0).g 1).extractLsb' 0 32) = none ∧
    field ((two 0x100000000 0).g 1) 32 32 ≠ 0 ∧ field ((two 0x800 0).g 1) 11 5 ≠ 0 :=
  ⟨rfl, by decide, rfl, by decide, by decide⟩

theorem meets_Barriers : Runs (one th) th ∧ AtRest (one th) th ∧ th.wait = .none ∧
    (∀ v ∈ (pair th { mate with wait := .barc false }).threads, sameCrew th v = true → v.tid ≠ th.tid → v.wait = .barc false) ∧
    ∃ v ∈ (pair th mate).threads, sameCrew th v = true ∧ v.tid ≠ th.tid ∧ v.wait ≠ .barc false :=
  ⟨rfl, atRest _ rfl rfl, rfl, by decide, ⟨mate, by decide, by decide, by decide, by decide⟩⟩

/-- th at supervisor level. -/
def supervisor (x y : Dword) : Thread := { two x y with sup := true }

theorem meets_AddressSpaceSwitch : Runs (one (supervisor 0xA000000000000000 0)) (supervisor 0xA000000000000000 0) ∧
    Clean (supervisor 0xA000000000000000 0) [1] ∧ AtRest (one (supervisor 0xA000000000000000 0)) (supervisor 0xA000000000000000 0) ∧
    (supervisor 0xA000000000000000 0).sup = true ∧ field ((supervisor 0xA000000000000000 0).g 1) 60 4 = 10 ∧
    field ((supervisor 0xB000000000000000 0).g 1) 60 4 ≠ 10 ∧ Handles (supervisor 0xB000000000000000 0) ∧
    (two 0xA000000000000000 0).sup = false ∧ Handles (two 0xA000000000000000 0) :=
  ⟨rfl, rfl, atRest _ rfl rfl, rfl, by decide, by decide, ⟨rfl, by decide⟩, rfl, rfl, by decide⟩

theorem meets_TranslationInvalidation : Runs (one (supervisor 0 1)) (supervisor 0 1) ∧ Clean (supervisor 0 1) (1 :: (r 2).reads) ∧
    AtRest (one (supervisor 0 1)) (supervisor 0 1) ∧ (∀ x ∈ (one (supervisor 0 1)).accords, x.pages = []) ∧ (supervisor 0 1).sup = true ∧
    (two 0 1).sup = false ∧ ¬ (r 0).field ≠ 0 ∧ ¬ (⟨0, some 1⟩ : Src).field ≠ 0 ∧ (r 2).field ≠ 0 ∧ Handles (two 0 1) :=
  ⟨rfl, rfl, atRest _ rfl rfl, fun _ h => (nomatch h), rfl, rfl, by decide, by decide, by decide, rfl, by decide⟩

/-- A TLBI that covers the page of a block whose command has still to read it. -/
theorem meets_TranslationInvalidation_command :
    ∃ c ∈ (paged th : State).commands ++ [{ cmd with pages := [(0x30000, 4096)] }], c.tid = (two 0x30000 0).tid ∧
      ∃ p ∈ c.pages, ((two 0x30000 0).g 1).toNat % 2 ^ 57 / p.2 = p.1 % 2 ^ 57 / p.2 ∧ c.atp.extractLsb' 44 16 = th.atp.extractLsb' 44 16 :=
  ⟨_, .head _, rfl, _, .head _, by decide, rfl⟩

/-- A thread of the core that has arrived in a line of a covered page, and one in another page. -/
theorem meets_TranslationInvalidation_arrived :
    ([0x10008, 0x1000000010008] : List (BitVec 57)).map (fun pc =>
      ({ th with arrived := some (pc, []), arrivedPage := 4096 } : Thread).arrivedCovered (some 0x10000) (some 0)) = [true, false] := by
  decide +kernel

/-- A page of the high half, of which bits 63 to 57 repeat bit 56. -/
theorem meets_TranslationInvalidation_page :
    ((supervisor 0xFF80000000001000 1).g 1).toNat % 2 ^ 57 / 4096 = 0x180000000001000 % 2 ^ 57 / 4096 := by decide

/-! ### Witnesses: special registers, vector length and windows -/

theorem meets_CsrReads : Runs (one th) th ∧ AtRest (one th) th ∧ (∀ row ∈ csrRows, row.1.toNat < 0x100 → csrAt th row.1) ∧
    csrAt (supervisor 0 0) 0x101 ∧ ∃ row ∈ csrRows, row.1 = 0x101 :=
  ⟨rfl, atRest _ rfl rfl, fun _ _ h => .inl h, .inr rfl, by simp [csrRows]⟩

/-- The largest SWB is legal and the next multiple of 8 is not. -/
theorem meets_CsrWrites : ((0x20, 0x1FF) : BitVec 14 × Dword) ∈ csrMasks ∧ Runs (one (two 384 392)) (two 384 392) ∧
    Clean (two 384 392) (r 1).reads ∧ AtRest (one (two 384 392)) (two 384 392) ∧ csrValue (one (two 384 392)) (two 384 392) 0x20 = some 0 ∧
    csrLegal (one (two 384 392)) (two 384 392) 0x20 ((0 &&& ~~~0x1FF) ||| ((two 384 392).src (r 1) &&& 0x1FF)) = true :=
  ⟨by decide, rfl, rfl, atRest _ rfl rfl, rfl, by decide⟩

/-- TQCFG with 16 places: the queue is empty after reset, and is not while a record stands in it. -/
theorem meets_CsrWrites_queue : Runs (one (supervisor 4 0)) (supervisor 4 0) ∧ AtRest (one (supervisor 4 0)) (supervisor 4 0) ∧
    csrValue (one (supervisor 4 0)) (supervisor 4 0) 0x101 ≠ none ∧
    csrLegal (one (supervisor 4 0)) (supervisor 4 0) 0x101 ((supervisor 4 0).src (r 1) &&& 0x01FFFFFFFFFFF00F) = true ∧
    (tqUsed (one (supervisor 4 0)) 0 = 0 ∧ tenantReplays (one (supervisor 4 0)) 0 = false) ∧
    ¬ tqUsed { one (supervisor 4 0) with mgmt := [(0x4608, 0x100000000)] } 0 = 0 :=
  ⟨rfl, atRest _ rfl rfl, by decide +kernel, by decide +kernel, by decide +kernel, by decide +kernel⟩

/-- A VTYPE of half the VLMAX at a full VL. -/
theorem meets_CsrWrites_vtype : vlMax 1 0x00 = 128 ∧ vlMax 1 0x02 = 32 ∧
    csrLegal (one th) { two 0x02 0 with grant := 1, vl := 128 } 0x01 0x02 = true := by decide +kernel

theorem meets_CsrRefusals : Handles (two 384 392) ∧ Clean (two 384 392) (r 2).reads ∧
    csrLegal (one (two 384 392)) (two 384 392) 0x20 ((0 &&& ~~~0x1FF) ||| ((two 384 392).src (r 2) &&& 0x1FF)) = false ∧
    (∀ reg ∈ csrMasks, reg.1 = 0x00 → ¬ csrAt (two 384 392) 0x00) ∧ (∀ row ∈ csrRows, row.1 = 0x07 → ¬ csrAt (two 384 392) 0x07) ∧
    ¬ csrAt (two 384 392) 0x101 ∧ matrixOf (one th) th.tid = [] :=
  ⟨⟨rfl, by decide⟩, rfl, by decide, by simp [csrMasks], by simp [csrRows], by simp only [csrAt]; decide, rfl⟩

/-- VTYPE i32: SEW 2, FMT 0. A request of one element more than a lane group holds wants two groups. -/
theorem meets_SetVectorLength : Runs (one (two 33 2)) (two 33 2) ∧ Clean (two 33 2) (1 :: (r 2).reads) ∧ (two 33 2).vq = [] ∧
    field ((two 33 2).src (r 2)) 14 50 = 0 ∧ vtLegal (((two 33 2).src (r 2)).extractLsb' 0 14) = true ∧
    0 < allocate ((one (two 33 2)).setThread { two 33 2 with latReq := 2 }) (two 33 2) 2 := ⟨rfl, rfl, rfl, by decide, by decide, by decide +kernel⟩

/-- A second thread that holds every group, so that nothing is granted. -/
def greedy : Thread := { th with tid := 0x10001, grant := 64, latReq := 64, lanes := -1 }

theorem meets_SetVectorLength_waits : allocate ((pair (two 33 2) greedy).setThread { two 33 2 with latReq := 2 }) (two 33 2) 2 = 0 ∧
    vtLegal (((two 33 4).src (r 2)).extractLsb' 0 14) = false ∧ field ((two 33 0x4000).src (r 2)) 14 50 ≠ 0 ∧ Handles (two 33 4) :=
  ⟨by decide +kernel, by decide, by decide, rfl, by decide⟩

/-- Displacements to the last legal base, and one step past it. -/
theorem meets_WindowMoves : Runs (one (two 384 392)) (two 384 392) ∧ Clean (two 384 392) (r 1).reads ∧ Clean (two 384 392) (r 2).reads ∧
    (let sg := (two 384 392).swb.toNat + ((two 384 392).src (r 1)).toInt; 0 ≤ sg ∧ sg ≤ 384 ∧ sg % 8 = 0) ∧
    (let sv := (two 128 136).vwb.toNat + ((two 128 136).src (r 1)).toInt; 0 ≤ sv ∧ sv ≤ 128 ∧ sv % 8 = 0) ∧ (two 384 392).vq = [] ∧
    Handles (two 384 392) ∧ ¬ (let sg := (two 384 392).swb.toNat + ((two 384 392).src (r 2)).toInt; 0 ≤ sg ∧ sg ≤ 384 ∧ sg % 8 = 0) ∧
    ¬ (let sv := (two 128 136).vwb.toNat + ((two 128 136).src (r 2)).toInt; 0 ≤ sv ∧ sv ≤ 128 ∧ sv % 8 = 0) :=
  ⟨rfl, rfl, rfl, by decide, by decide, rfl, ⟨rfl, by decide⟩, by decide, by decide⟩

theorem meets_LaneTable : (∀ u ∈ (coreThreads (pair th greedy) th.core).filter (fun u => u.tid != th.tid), u.slot ≠ th.slot) ∧
    0 < 60 ∧ 60 + (((coreThreads (one th) th.core).filter fun u => u.tid != th.tid).map fun u => u.latReq.toNat).sum ≤ enabledGroups (one th) th.core :=
  ⟨by decide +kernel, by decide, by decide +kernel⟩

theorem meets_LaneTable_report : Runs (pair (two 1 0) greedy) (two 1 0) ∧ Clean (two 1 0) [1] ∧
    (coreThreads (pair (two 1 0) greedy) th.core).find? (fun u => u.slot = ((two 1 0).g 1).extractLsb' 0 3 && u.tenant = th.tenant) = some greedy ∧
    ∀ u ∈ coreThreads (pair (two 2 0) greedy) th.core, u.slot = ((two 2 0).g 1).extractLsb' 0 3 → u.tenant ≠ th.tenant :=
  ⟨rfl, rfl, by decide +kernel, by decide +kernel⟩

/-! ### Witnesses: vector instructions -/

/-- A thread with one lane group, four elements of a vector type and g1, g2. -/
def lanes (vt : BitVec 14) (x y : Dword) : Thread := { two x y with grant := 1, vl := 4, vtype := vt }

theorem lanesReady (vt : BitVec 14) (x y : Dword) : LanesReady (lanes vt x y) :=
  ⟨rfl, rfl, rfl, rfl, Nat.le_of_ble_eq_true rfl, Nat.le_of_ble_eq_true rfl⟩

/-- i32 in groups of eight registers: the last group is v120 to v127. -/
theorem meets_IntegerElements : Runs (one (lanes 0xC2 5 6)) (lanes 0xC2 5 6) ∧ LanesReady (lanes 0xC2 5 6) ∧ vtLegal 0xC2 = true ∧
    Names 120 (vtGroup 0xC2) ∧ vtFmt 0xC2 ≤ 1 ∧ Clean (lanes 0xC2 5 6) (r 2).reads :=
  ⟨rfl, lanesReady .., by decide, ⟨by decide, by decide⟩, by decide, rfl⟩

/-- FP32 is no integer format; the bitwise operations accept it. -/
theorem meets_IntegerElements_any : vtLegal 0x12 = true ∧ ¬ vtFmt 0x12 ≤ 1 ∧ ∃ row ∈ intRows, row.2.2.1 = true :=
  ⟨by decide, by decide, ⟨_, .tail _ (.tail _ (.tail _ (.tail _ (.tail _ (.head _))))), rfl⟩⟩

theorem meets_MergesAndMoves : Runs (one (lanes 0xC2 5 6)) (lanes 0xC2 5 6) ∧ LanesReady (lanes 0xC2 5 6) ∧ vtLegal 0xC2 = true ∧
    Names 120 (vtGroup 0xC2) ∧ Names 0 (vtGroup 0xC2) ∧ Clean (lanes 0xC2 5 6) (r 2).reads := ⟨rfl, lanesReady .., by decide, ⟨by decide, by decide⟩, ⟨by decide, by decide⟩, rfl⟩

/-- FP32 for the operations, E4M3 in single registers for the widening conversion: its source is a group of four. -/
theorem meets_FloatElements : Runs (one (lanes 0x12 5 6)) (lanes 0x12 5 6) ∧ LanesReady (lanes 0x12 5 6) ∧ vtLegal 0x12 = true ∧
    vtFmt 0x12 ∈ [2, 3, 4] ∧ Names 127 (vtGroup 0x12) ∧ Clean (lanes 0x12 5 6) (r 2).reads ∧ vtLegal 0x28 = true ∧ vtFmt 0x28 ∈ [3, 4, 5, 6] ∧
    32 / vtSew 0x28 * vtGroup 0x28 ≤ 8 ∧ Names 124 (32 / vtSew 0x28 * vtGroup 0x28) ∧ Runs (one (lanes 0x28 5 6)) (lanes 0x28 5 6) ∧
    LanesReady (lanes 0x28 5 6) :=
  ⟨rfl, lanesReady .., by decide, by decide, ⟨by decide, by decide⟩, rfl, by decide, by decide, by decide, ⟨by decide, by decide⟩, rfl, lanesReady ..⟩

/-- A thread whose m1 has bit 3 only. -/
def masked : Thread := { lanes 0x02 5 6 with masks := [65539] }

theorem meets_PermutationsAndMasks : Runs (one masked) masked ∧ LanesReady masked ∧ vtLegal masked.vtype = true ∧ Names 127 (vtGroup masked.vtype) ∧
    vtFmt masked.vtype ≤ 1 ∧ Clean masked (r 2).reads ∧ 3 < masked.vl.toNat ∧ maskBit masked.masks 1 3 = true ∧
    (∀ j, j < 3 → maskBit masked.masks 1 j = false) ∧ ∀ i, i < masked.vl.toNat → maskBit masked.masks 2 i = false :=
  ⟨rfl, ⟨rfl, rfl, rfl, rfl, by decide, by decide⟩, by decide, ⟨by decide, by decide⟩, by decide, rfl, by decide, rfl, by decide, by decide⟩

theorem meets_Reductions : Runs (one (lanes 0x02 5 6)) (lanes 0x02 5 6) ∧ LanesReady (lanes 0x02 5 6) ∧ vtLegal 0x02 = true ∧ vtFmt 0x02 ≤ 1 ∧
    Names 127 (vtGroup 0x02) := ⟨rfl, lanesReady .., by decide, by decide, ⟨by decide, by decide⟩⟩

theorem meets_BlocksAndSelection : Runs (one (lanes 0x12 5 6)) (lanes 0x12 5 6) ∧ LanesReady (lanes 0x12 5 6) ∧ vtLegal 0x12 = true ∧
    vtFmt 0x12 ∈ [2, 3, 4] ∧ Names 127 (vtGroup 0x12) ∧ (∀ f ∈ ([0, 126, 2] : List (BitVec 7)), f.toNat % vtGroup 0x12 = 0 ∧
      f.toNat + 2 * vtGroup 0x12 ≤ 128) ∧ (0 : BitVec 7).toNat + 2 * vtGroup 0x12 ≤ (2 : BitVec 7).toNat :=
  ⟨rfl, lanesReady .., by decide, by decide, ⟨by decide, by decide⟩, by decide, by decide⟩

/-- To blocks of INT8 in single registers: four FP32 registers are the source. From E4M3 blocks: a group of four is the destination. -/
theorem meets_BlocksAndSelection_blocks : vtLegal 0x00 = true ∧ vtFmt 0x00 ∈ [0, 1, 5, 6] ∧ vtSew 0x00 = 8 ∧ vtGroup 0x00 ≤ 2 ∧
    Names 124 (4 * vtGroup 0x00) ∧ blockCount 4 (targetCode (vtFmt 0x00)) * 64 ≤ 1 * 128 * vtGroup 0x00 ∧ vtFmt 0x28 ∈ [2, 3, 4, 5, 6] ∧
    32 / vtSew 0x28 * vtGroup 0x28 ≤ 8 ∧ Names 124 (32 / vtSew 0x28 * vtGroup 0x28) ∧
    bodyStop (viewOf (lanes 0x28 5 6) (entryFor (lanes 0x28 5 6) (.vcvtx 124 0 false) (.widen 124 0) false 0 1)) = .finish :=
  ⟨by decide, by decide, by decide, by decide, ⟨by decide, by decide⟩, by decide, by decide, by decide, ⟨by decide, by decide⟩, by decide +kernel⟩

/-- A stage of distance 2 over four elements, and the fused pair to E4M3. -/
theorem meets_BlocksAndSelection_stages : Runs (one (lanes 0x12 2 0x30002)) (lanes 0x12 2 0x30002) ∧ Clean (lanes 0x12 2 0x30002) (r 1).reads ∧
    field ((lanes 0x12 2 0x30002).src (r 1)) 0 16 = 2 ^ 1 ∧ 4 % (2 * 2) = 0 ∧ field ((lanes 0x12 2 0x30002).src (r 1)) 16 48 = 0 ∧
    field ((lanes 0x12 2 0x30002).src (r 2)) 0 16 = 2 ^ 1 ∧ field ((lanes 0x12 2 0x30002).src (r 2)) 16 3 = 3 ∧
    field ((lanes 0x12 2 0x30002).src (r 2)) 19 45 = 0 ∧ vtFmt 0x12 = 2 ∧ blockCount 4 3 * 64 ≤ 1 * 128 * vtGroup 0x12 :=
  ⟨rfl, rfl, by decide, by decide, by decide, by decide, by decide, by decide, by decide, by decide⟩

/-- The four words that end at the crew's last byte. -/
theorem meets_ScratchpadVectors : Runs (one (lanes 0x02 (spad 0x3FF0) 4)) (lanes 0x02 (spad 0x3FF0) 4) ∧ LanesReady (lanes 0x02 (spad 0x3FF0) 4) ∧
    vtLegal 0x02 = true ∧ Clean (lanes 0x02 (spad 0x3FF0) 4) (1 :: (r 2).reads) ∧ Names 127 (vtGroup 0x02) ∧ matrixOf (one th) th.tid = [] ∧
    (∀ i, i < 4 → ∀ x ∈ [(spad 0x3FF0 + BitVec.ofNat 64 (i * (vtSew 0x02 / 8))).toNat, (spad 0x3FF0 + 4 * BitVec.ofNat 64 i).toNat],
      x % 4 = 0 ∧ 0x00FFFF0000000000 ≤ x ∧ x - 0x00FFFF0000000000 + 4 ≤ 0x4000 ∧ x - 0x00FFFF0000000000 + 4 ≤ 0x180000) ∧
    (one (lanes 0x02 (spad 0x3FF0) 4)).poison = [] ∧ (one (lanes 0x02 (spad 0x3FF0) 4)).softErrors = [] ∧ Unfenced (one (lanes 0x02 (spad 0x3FF0) 4)) (lanes 0x02 (spad 0x3FF0) 4) :=
  ⟨rfl, lanesReady .., by decide, rfl, ⟨by decide, by decide⟩, rfl, by decide, rfl, rfl, rfl, rfl⟩

/-- Every vector memory instruction of the table finishes its pass over the scratchpad where its elements may be accessed; LDFE and LDFEC want full
granules. -/
def fullOnes (t : Thread) : State := { one t with full := [2 ^ 56, 2 ^ 56 + 1] }

theorem meets_VectorMemory : Runs (fullOnes (lanes 0x02 (spad 0) 4)) (lanes 0x02 (spad 0) 4) ∧ LanesReady (lanes 0x02 (spad 0) 4) ∧
    Unfenced (fullOnes (lanes 0x02 (spad 0) 4)) (lanes 0x02 (spad 0) 4) ∧ Clean (lanes 0x02 (spad 0) 4) (1 :: (r 2).reads) ∧ (lanes 0x02 (spad 0) 4).vl ≠ 0 ∧
    ∀ k, k < 12 → ∃ row rest, (memRows 8 1 16 (r 2) false (lanes 0x02 (spad 0) 4)).drop k = row :: rest ∧
      ∃ w, memEntry (fullOnes ((lanes 0x02 (spad 0) 4).pushed (entryOf (lanes 0x02 (spad 0) 4) row.1 row.2.2) row.2.2.slots))
        ((lanes 0x02 (spad 0) 4).pushed (entryOf (lanes 0x02 (spad 0) 4) row.1 row.2.2) row.2.2.slots)
        (viewOf ((lanes 0x02 (spad 0) 4).pushed (entryOf (lanes 0x02 (spad 0) 4) row.1 row.2.2) row.2.2.slots)
          (entryOf (lanes 0x02 (spad 0) 4) row.1 row.2.2)) row.2.1 8 (if row.2.1.indexed then 16 else 0) none = (w, .finish) := by
  refine ⟨rfl, lanesReady .., ⟨rfl, rfl⟩, rfl, by decide, fun k hk => ?_⟩
  match k, hk with
  | 0, _ => exact ⟨_, _, rfl, _, Prod.ext rfl (by decide +kernel)⟩
  | 1, _ => exact ⟨_, _, rfl, _, Prod.ext rfl (by decide +kernel)⟩
  | 2, _ => exact ⟨_, _, rfl, _, Prod.ext rfl (by decide +kernel)⟩
  | 3, _ => exact ⟨_, _, rfl, _, Prod.ext rfl (by decide +kernel)⟩
  | 4, _ => exact ⟨_, _, rfl, _, Prod.ext rfl (by decide +kernel)⟩
  | 5, _ => exact ⟨_, _, rfl, _, Prod.ext rfl (by decide +kernel)⟩
  | 6, _ => exact ⟨_, _, rfl, _, Prod.ext rfl (by decide +kernel)⟩
  | 7, _ => exact ⟨_, _, rfl, _, Prod.ext rfl (by decide +kernel)⟩
  | 8, _ => exact ⟨_, _, rfl, _, Prod.ext rfl (by decide +kernel)⟩
  | 9, _ => exact ⟨_, _, rfl, _, Prod.ext rfl (by decide +kernel)⟩
  | 10, _ => exact ⟨_, _, rfl, _, Prod.ext rfl (by decide +kernel)⟩
  | 11, _ => exact ⟨_, _, rfl, _, Prod.ext rfl (by decide +kernel)⟩

theorem finished {x : Pass × Stop} (h : x.2 = .finish) : ∃ w, x = (w, .finish) := ⟨x.1, Prod.ext rfl h⟩

/-- The first tile of the directory of die 0: 256 rows of 64 bytes from 0x3_0000 on, of tenant 0. -/
def tile : Tile :=
  { die := 0, index := 0, tenant := 0,
    desc := { base := 0x30000, fmt := 1, rows1 := 0, rows0 := 255, rlen16 := 3, stride0 := 64, stride1 := 0 } }

/-- Its handle. -/
abbrev hd : Dword := 0x8000000000000000

/-- A machine with that tile. -/
def tiled (t : Thread) : State := { paged t with tiles := [tile] }

/-- The last row of a tile. -/
theorem meets_VectorMemory_tile : Runs (tiled (lanes 0x02 hd 255)) (lanes 0x02 hd 255) ∧
    ∃ w, memEntry ((tiled (lanes 0x02 hd 255)).setThread ((lanes 0x02 hd 255).pushed
        (entryOf (lanes 0x02 hd 255) (.vldt 8 1 (r 2) false) (memPush .ldt false 8 1 0 (some (r 2)) (lanes 0x02 hd 255))) 1))
      ((lanes 0x02 hd 255).pushed
        (entryOf (lanes 0x02 hd 255) (.vldt 8 1 (r 2) false) (memPush .ldt false 8 1 0 (some (r 2)) (lanes 0x02 hd 255))) 1)
      (viewOf ((lanes 0x02 hd 255).pushed
        (entryOf (lanes 0x02 hd 255) (.vldt 8 1 (r 2) false) (memPush .ldt false 8 1 0 (some (r 2)) (lanes 0x02 hd 255))) 1)
        (entryOf (lanes 0x02 hd 255) (.vldt 8 1 (r 2) false) (memPush .ldt false 8 1 0 (some (r 2)) (lanes 0x02 hd 255)))) .ldt 8 0 none =
      (w, .finish) := ⟨rfl, finished (by decide +kernel)⟩

/-! ### Witnesses: accumulators, tiles and tags -/

/-- The owner of za0, and a thread of the same core that is not. -/
def owned (s : State) : State := { s with accOwner := [(0, 0x10001)] }

theorem meets_AccumulatorTiles : Runs (owned (one th)) th ∧ AtRest (owned (one th)) th ∧ th.parked = false ∧
    Sparse.get 0 (owned (one th)).accOwner (th.tileKey 0) = th.tid.toNat + 1 ∧ th.holdMat = false ∧ th.snapshot = none ∧
    (coreQueue (owned (one th)) th).length < 16 ∧ Sparse.get 0 (one th).accOwner (th.tileKey 1) = 0 ∧
    (∀ w ∈ (one th).macqWait, w.1 = th.tileKey 1 → w.2 = th.tid) ∧ (th.tid, th.tileKey 1) ∉ (one th).accSaved ∧ Handles th :=
  ⟨rfl, ⟨rfl, rfl, rfl⟩, rfl, rfl, rfl, rfl, by decide, rfl, fun _ h => (nomatch h), fun h => (nomatch h), rfl, by decide⟩

/-- A pre-empted owner whose image nothing holds. -/
theorem meets_AccumulatorTiles_parked : rangeHeld (owned (pair mate { th with parked := true })) true (tileImage th 0) 0x40000 = false ∧
    (owned (pair mate { th with parked := true })).threads.find? (fun x => x.tid.toNat + 1 =
      Sparse.get 0 (owned (pair mate { th with parked := true })).accOwner (mate.tileKey 0)) = some { th with parked := true } := by decide +kernel

theorem meets_AccumulatorTiles_wait : (owned (pair mate th)).threads.find? (fun x => x.tid.toNat + 1 =
      Sparse.get 0 (owned (pair mate th)).accOwner (mate.tileKey 0)) = some th ∧ th.parked = false ∧
    Sparse.get 0 (owned (pair mate th)).accOwner (mate.tileKey 0) ≠ mate.tid.toNat + 1 ∧ Runs (owned (pair mate th)) mate ∧
    AtRest (owned (pair mate th)) mate := ⟨by decide, rfl, by decide, rfl, rfl, rfl, rfl⟩

/-- The last row of the tile. -/
theorem meets_AccumulatorTiles_rows : Runs (owned (one (lanes 0x02 0 127))) (lanes 0x02 0 127) ∧ LanesReady (lanes 0x02 0 127) ∧ vtSew 0x02 = 32 ∧
    vtFmt 0x02 ≤ 2 ∧ (lanes 0x02 0 127).vl.toNat ≤ 512 ∧ Clean (lanes 0x02 0 127) (r 2).reads ∧ Names 127 (vtGroup 0x02) ∧
    ((lanes 0x02 0 127).src (r 2)).toNat ≤ 127 ∧ (owned (one (lanes 0x02 0 127))).accPoison.mem (0 * 128 + 127) = false :=
  ⟨rfl, lanesReady .., by decide, by decide, by decide, rfl, ⟨by decide, by decide⟩, by decide, rfl⟩

/-- A member of a tile gang with MSHAPE M = 1, N = 1 and the tile's handle in g1 and g2; the owner of za0. -/
def mat (x y : Dword) : Thread := { two x y with mshape := (1 : BitVec 10) ++ (1 : BitVec 16), tileg := true }

/-- A block of 120 E2M1 zeros with its check byte (R83, R84). -/
def zeros : List Byte := [1, 127, 0, blockCheck ([1, 127, 0, 0] ++ List.replicate 60 0)] ++ List.replicate 60 0

/-- The tile's first row is that block. -/
def blocks (t : Thread) : State := owned ((tiled t).storeBytes 0x30000 zeros)

/-- Whether a matrix row's checks pass and its rows complete. -/
def matrixRuns (s : State) (t : Thread) (row : Instr × MOp × Dword × Dword × Nat) : Bool :=
  let e := matrixEntry t row.1 row.2.1 0 row.2.2.1 row.2.2.2.1
  let u := { t with pc := slotAfter t.pc row.2.2.2.2, arrived := none, repeats := t.queuedRepeats, order := t.order + 1, mrow := 0,
                    mkoff := if row.2.1 = .mmai then t.mkoff + 512 else t.mkoff }
  let s1 := { s with matq := s.matq ++ [e] }.setThread u
  match operandCheck s1 u e with
  | .error _ => false
  | .ok ops =>
    match rowsFrom u e ops ((List.range (shapeM t.mshape)).drop t.mrow.toNat) s1 with
    | .done _ _ => true
    | _ => false

/-- The multiplies on a tile of E2M1 blocks, MLDA and MSTA on the scratchpad. -/
theorem meets_MatrixInstructions : (blocks (mat hd hd)).thread? th.tid = some (mat hd hd) ∧ AtRest (blocks (mat hd hd)) (mat hd hd) ∧
    Clean (mat hd hd) (1 :: (r 2).reads) ∧ (mat hd hd).parked = false ∧ (mat hd hd).tileg = true ∧
    (coreQueue (blocks (mat hd hd)) (mat hd hd)).length < 16 ∧ shapeM (mat hd hd).mshape ≤ 128 ∧
    ((matrixRows 0 1 (r 2) (mat hd hd)).take 3).all (matrixRuns (blocks (mat hd hd)) (mat hd hd)) = true ∧
    ((matrixRows 0 1 (r 2) (mat (spad 0) 0)).drop 3).all (matrixRuns (blocks (mat (spad 0) 0)) (mat (spad 0) 0)) = true ∧
    (two hd hd).tileg = false ∧ Handles (two hd hd) :=
  ⟨by decide +kernel, ⟨rfl, by decide +kernel, rfl⟩, rfl, rfl, rfl, by decide +kernel, by decide, by decide +kernel, by decide +kernel, rfl, rfl,
    by decide⟩

theorem matrixRuns_iff {s : State} {t : Thread} {row : Instr × MOp × Dword × Dword × Nat} (h : matrixRuns s t row = true) :
    let e := matrixEntry t row.1 row.2.1 0 row.2.2.1 row.2.2.2.1
    let u := { t with pc := slotAfter t.pc row.2.2.2.2, arrived := none, repeats := t.queuedRepeats, order := t.order + 1, mrow := 0,
                      mkoff := if row.2.1 = .mmai then t.mkoff + 512 else t.mkoff }
    let s1 := { s with matq := s.matq ++ [e] }.setThread u
    ∃ ops s2 e2, operandCheck s1 u e = .ok ops ∧ rowsFrom u e ops ((List.range (shapeM t.mshape)).drop t.mrow.toNat) s1 = .done s2 e2 := by
  intro e u s1
  simp only [matrixRuns] at h
  split at h
  · cases h
  · rename_i ops ho
    split at h
    · rename_i s2 e2 hr
      exact ⟨ops, s2, e2, ho, hr⟩
    · cases h

/-- A descriptor of two rows of 64 bytes at 0x4_0000 in the crew's scratchpad. -/
def described (t : Thread) : State :=
  (one t).storeBytes (spadLoc 0 0) (leBytes 8 0x40000 ++ leBytes 8 0x0100000000010003 ++ leBytes 8 64 ++ leBytes 8 0)

/-- Whether the descriptor that a read gave is valid. -/
def describes : Res (State × Nat) → Bool
  | .ok x => (descFault (BitVec.ofNat 64 (bits x.2 0 64)) (BitVec.ofNat 64 (bits x.2 64 64)) (descOf (BitVec.ofNat 64 (bits x.2 0 64))
      (BitVec.ofNat 64 (bits x.2 64 64)) (BitVec.ofNat 64 (bits x.2 128 64)) (BitVec.ofNat 64 (bits x.2 192 64)))).isNone
  | _ => false

/-- A tenant whose MAX is 0 may take no entry. -/
theorem meets_TileHandles_new : (described (two (spad 0) 1)).thread? th.tid = some (two (spad 0) 1) ∧ Clean (two (spad 0) 1) (1 :: (r 2).reads) ∧
    describes (scalarRead (described (two (spad 0) 1)) (two (spad 0) 1) ((two (spad 0) 1).g 1) 32) = true ∧
    mayTakeEntry (described (two (spad 0) 1)) 0 0 = true ∧
    mayTakeEntry { described (two (spad 0) 1) with mgmt := [(0x4080, 0)] } 0 0 = false :=
  ⟨by decide +kernel, rfl, by decide +kernel, by decide +kernel, by decide +kernel⟩

/-- A tile of two rows, its handle in g1, and another thread's write claim on its first row through another tile. -/
def small : Tile := { tile with desc := { tile.desc with rows0 := 1 } }
def smallTiled (t : Thread) : State := { paged t with tiles := [small] }
def rival (granted : Bool) : Claim :=
  { handle := 0x8000000000000001, tid := 0x10001, write := true, granted := granted, ranges := [(0x30000, 64)], started := true, slices := [],
    placed := (slicesOf State.reset [(0x30000, 64)]).map fun k => (k, 0), pc := 0x10008, handler := false, done := granted }
def mine (granted : Bool) : Claim :=
  { handle := hd, tid := 0x10000, write := true, granted := granted, ranges := [(0x30000, 64), (0x30040, 64)], started := granted,
    slices := [], placed := [], pc := 0x10008, handler := false, done := granted }

/-- Whether a footprint is found, with its ranges. -/
def foundRanges (x : Res (List (Nat × Trans))) (rs : List (Nat × Nat)) : Bool :=
  match x with
  | .ok fs => rangesOf fs == rs
  | _ => false

theorem found_of {x : Res (List (Nat × Trans))} {rs : List (Nat × Nat)} (h : foundRanges x rs = true) : ∃ fs, x = .ok fs ∧ rangesOf fs = rs := by
  cases x with
  | ok a => exact ⟨a, rfl, eq_of_beq h⟩
  | wait => cases h
  | fault f => cases h

theorem meets_TileHandles : (smallTiled (two hd 1)).thread? th.tid = some (two hd 1) ∧ AtRest (smallTiled (two hd 1)) (two hd 1) ∧
    checkHandle (smallTiled (two hd 1)) 0 ((two hd 1).g 1) = .ok small ∧ matrixUses (smallTiled (two hd 1)) hd = false ∧
    (smallTiled (two hd 1)).deferClaims = false ∧ (∀ c ∈ (smallTiled (two hd 1)).claims, c.handle ≠ hd) ∧
    (∃ c ∈ ({ smallTiled (two hd 1) with claims := [mine true] } : State).claims,
      c.handle = hd ∧ c.tid = th.tid ∧ c.granted = true) ∧
    (∃ fs, footprint (smallTiled (two hd 1)) (two hd 1).agent accLoad (footprintPieces small.desc) = .ok fs ∧
      rangesOf fs = [(0x30000, 64), (0x30040, 64)]) ∧
    (∃ fs, footprint (smallTiled (two hd 1)) (two hd 1).agent accStore (footprintPieces small.desc) = .ok fs ∧
      rangesOf fs = [(0x30000, 64), (0x30040, 64)]) ∧
    ((rival true).granted = true ∧ (rival true).tid ≠ th.tid) ∧ claimsConflict (mine true) (rival true) = true ∧
    (∃ k ∈ slicesOf (smallTiled (two hd 1)) [(0x30000, 64), (0x30040, 64)], ((rival true).placedAt k).isSome = true) ∧
    (smallTiled (two hd 1)).stoppedDies = [] :=
  ⟨by decide +kernel, ⟨rfl, rfl, rfl⟩, by decide +kernel, rfl, rfl, fun _ h => (nomatch h), ⟨_, .head _, rfl, rfl, rfl⟩,
    found_of (by decide +kernel), found_of (by decide +kernel), ⟨rfl, by decide⟩, by decide, by decide +kernel, rfl⟩

/-- The split after the first of two rows. -/
theorem meets_TileHandles_split : 1 ≤ ((two hd 1).src (r 2)).toNat ∧ ((two hd 1).src (r 2)).toNat < small.desc.rows ∧
    (∃ lo hi, splitDesc small.desc 1 = some (lo, hi) ∧ footprintsMeet lo hi = false) ∧ mayTakeEntry (smallTiled (two hd 1)) 0 0 = true ∧
    mayTakeEntry { smallTiled (two hd 1) with mgmt := [(0x4080, 0)] } 0 0 = false ∧ Handles (two 0 1) ∧
    checkHandle (smallTiled (two 0 1)) 0 ((two 0 1).g 1) = .error 0x03 :=
  ⟨by decide, by decide, ⟨_, _, rfl, by decide⟩, by decide +kernel, by decide +kernel, ⟨rfl, by decide⟩, by decide +kernel⟩

/-- A thread with g1, g2 and g3. -/
def three (x y z : Dword) : Thread := (two x y).setG 3 z

/-- A machine whose pages are tagged, and whose row at 0x3_0000 is of tenant 0 with kind 1 and value 5. -/
def tagged (t : Thread) : State := { (one t).storeBytes 0x1000 (leBytes 8 0x4000000000000DF) with tags := [(192, mkTag 1 0 5)] }

/-- Whether a leaf is marked. -/
def marked (s : State) (x : Trans) : Bool :=
  match x.entry with
  | none => true
  | some e => s.mem.read e.loc &&& 0xC0 == 0xC0

theorem marked_iff {s : State} {x : Trans} (h : marked s x = true) : Marked s x := by
  intro e he
  simp only [marked, he] at h
  exact eq_of_beq h

/-- Whether the checks of a TAG instruction pass with one row, all leaves marked. -/
def oneRow (s : State) (op : TagOp) (t : Thread) : Bool :=
  match checkTag s t op (t.g 1) (t.g 2) (t.g 3) with
  | .ok ([(n, x)], list) => n = 1024 && marked s x && list.all fun p => marked s p.2
  | _ => false

theorem oneRow_iff {s : State} {op : TagOp} {t : Thread} (h : oneRow s op t = true) :
    ∃ x list, checkTag s t op (t.g 1) (t.g 2) (t.g 3) = .ok ([(1024, x)], list) ∧ Marked s x ∧ ∀ p ∈ list, Marked s p.2 := by
  simp only [oneRow] at h
  split at h
  · rename_i n x list hc
    simp only [Bool.and_eq_true, decide_eq_true_eq, List.all_eq_true] at h
    obtain ⟨⟨rfl, hx⟩, hl⟩ := h
    exact ⟨x, list, hc, marked_iff hx, fun p hp => marked_iff (hl p hp)⟩
  · cases h

/-- The row matches the pattern of kind 1 and any value, and does not match that of kind 2; the last offset of TSUM. -/
theorem meets_TagOperations : (tagged (three 0x30000 0x1000000000000000 0x03000001)).thread? th.tid = some (three 0x30000 0x1000000000000000 0x03000001) ∧
    AtRest (tagged (three 0x30000 0x1000000000000000 0x03000001)) (three 0x30000 0x1000000000000000 0x03000001) ∧
    Clean (three 0x30000 0x1000000000000000 0x03000001) (3 :: 1 :: (r 2).reads) ∧
    RowsFree (tagged (three 0x30000 0x1000000000000000 0x03000001)) ∧
    tagMatches (tagOf (tagged th) 0x30000) 0x1000000000000000 0 = true ∧ tagMatches (tagOf (tagged th) 0x30000) 0x2000000000000000 0 = false :=
  ⟨by decide +kernel, ⟨rfl, rfl, rfl⟩, rfl, ⟨rfl, rfl, rfl, rfl, rfl, rfl, rfl, rfl, rfl, rfl, rfl, rfl, fun _ h => (nomatch h)⟩,
    by decide +kernel, by decide +kernel⟩

theorem meets_TagOperations_checked :
    (([.tcnt, .tclr, .tfill, .tretag, .tinc] : List TagOp).all fun op => oneRow (tagged th) op (three 0x30000 0x1000000000000000 0x20000001)) = true ∧
    oneRow (tagged th) .tsum (three 0x30000 0x1000000000000000 0x3F8) = true ∧
    oneRow (tagged th) .tcomp (three 0x30000 0x1000000000000000 0x303FC) = false ∧
    oneRow (tagged th) .tcomp (three 0x30000 0x1000000000000000 0x30400) = true ∧
    oneRow (tagged th) .tcomp (three 0x30000 0x1000000000000000 (spad 0x3FFC)) = true ∧
    oneRow (tagged th) .tagst (three 0x30000 0 0x20000001) = true ∧ oneRow (tagged th) .tagld (three 0x30000 0 0) = true := by decide +kernel

/-! ### Witnesses: engines, accords and experts -/

/-- th with the first n tickets, and g1 at a block's address. -/
def holding (n : Nat) (x : Dword) : Thread :=
  { two x 0 with tickets := (List.range n).map fun k => { slot := BitVec.ofNat 5 k, seq := 0, status := none } }

/-- The last slot is free, and then none is. -/
theorem meets_EngineCommands : Runs (one (holding 31 (spad 0x3FC0))) (holding 31 (spad 0x3FC0)) ∧
    AtRest (one (holding 31 (spad 0x3FC0))) (holding 31 (spad 0x3FC0)) ∧ Clean (holding 31 (spad 0x3FC0)) (1 :: (r 2).reads) ∧
    ((holding 31 (spad 0x3FC0)).g 1).toNat % 64 = 0 ∧ LowestFree (holding 31 (spad 0x3FC0)) 31 ∧
    (∃ tr, locateScalar (one (holding 31 (spad 0x3FC0))) (holding 31 (spad 0x3FC0)).agent accLoad (spad 0x3FC0) 64 = .ok tr ∧
      Marked (one (holding 31 (spad 0x3FC0))) tr ∧
      leafHeld (one (holding 31 (spad 0x3FC0))) (holding 31 (spad 0x3FC0)).tid accLoad tr.entry = false) ∧
    (∀ k : BitVec 5, ∃ x ∈ (holding 32 (spad 0x3FC0)).tickets, x.slot = k) ∧ Handles (holding 32 (spad 0x3FC0)) ∧
    ((two 0x30020 0).g 1).toNat % 64 ≠ 0 :=
  ⟨rfl, atRest _ rfl rfl, rfl, by decide, ⟨by decide, by decide +kernel, by decide +kernel⟩, ⟨_, rfl, fun _ h => (nomatch h), rfl⟩,
    by decide +kernel, ⟨rfl, by decide⟩, by decide⟩

/-- A thread with one ticket, in slot 31 with the last number, named by g1. -/
def collector (status : Option Dword) : Thread :=
  { two 0x80000000001FFFFF 0 with tickets := [{ slot := 31, seq := 0xFFFF, status := status }] }

theorem meets_EngineCommands_tickets : (∀ status, ∀ k ∈ (collector status).tickets, (∀ x ∈ (collector status).tickets, x.slot = k.slot → x = k) ∧
      (collector status).g 1 = ticketOf k.slot k.seq ∧ k.status = status) ∧ ∀ k ∈ (two 1 0).tickets, (two 1 0).g 1 ≠ ticketOf k.slot k.seq :=
  ⟨fun _ _ h => by
    cases h with
    | head => exact ⟨fun x hx _ => by
        cases hx with
        | head => rfl
        | tail _ h => exact (nomatch h), by show (two 0x80000000001FFFFF 0).g 1 = ticketOf 31 0xFFFF; decide +kernel, rfl⟩
    | tail _ h => exact (nomatch h), fun _ h => (nomatch h)⟩

/-- A command in flight on the paged machine, with its block at 0x3_0000. -/
def flying (c : Command) : State := { paged th with commands := [c] }

/-- The same with 64 bytes as the block. -/
def posted (c : Command) (ws : List Dword) : State := (flying c).storeBytes 0x30000 (ws.flatMap fun w => leBytes 8 w.toNat)

theorem soleCommand (c : Command) : SoleCommand (flying c) c := by simp [SoleCommand, flying]

/-- A block of zeros is an error for RZERO (SUB 1); its own op with no rows is none. -/
theorem meets_CommandEvents : SoleCommand (flying cmd) cmd ∧ (∀ x ∈ (flying cmd).commands, x.tid = cmd.tid → x.phase ≠ .issued ∨ x = cmd) ∧
    (cmd.replay = none ∧ (flying cmd).stoppedDies.mem cmd.die.toNat = false) ∧
    ¬ (cmd.op = .expq ∨ cmd.op = .exprel ∨ cmd.op = .pgreq) ∧ cmd.op ≠ .tlaunch ∧
    (∀ t, (flying cmd).thread? cmd.tid = some t → ∀ p ∈ t.sbuf, overlap cmd.blockAt 64 p.loc p.bytes.length = false) ∧
    heldBack (flying cmd) cmd.tid false cmd.blockAt 64 = false ∧
    portHeld (flying cmd) (enginePort cmd.die) cmd.tenant (placeTrans cmd.blockAt) = false ∧
    (∃ s1, readBlock (flying cmd) cmd = some s1) ∧ poisonSub (flying cmd) cmd.blockAt 64 = none ∧
    paramFault (flying cmd) { cmd with params := dwordsOf ((flying cmd).loadBytes cmd.blockAt 64), pages := [] } = some 1 ∧
    paramFault (posted cmd [2]) { cmd with params := dwordsOf ((posted cmd [2]).loadBytes cmd.blockAt 64), pages := [] } = none :=
  ⟨soleCommand cmd, by decide, ⟨rfl, rfl⟩, by decide, by decide, fun t h p hp => by cases h; exact (nomatch hp), by decide +kernel, by decide +kernel,
    Option.isSome_iff_exists.mp (by decide +kernel), by decide +kernel, by decide +kernel, by decide +kernel⟩

/-- A stopped die, and a command that waits for the service of a fault, accept nothing. -/
theorem meets_CommandEvents_stopped :
    ¬ (cmd.replay = none ∧ ({ flying cmd with stoppedDies := [0] } : State).stoppedDies.mem cmd.die.toNat = false) := by decide

/-- EXPREL, which has no block, at each phase. -/
def exprel (p : Phase) : Command := { cmd with op := .exprel, phase := p }

theorem meets_CommandEvents_bare : (∀ p, SoleCommand (flying (exprel p)) (exprel p)) ∧ (exprel .issued).op = .exprel ∧
    (exprel .issued).phase = .issued ∧ (exprel .accepted).phase ≠ .issued ∧ (exprel (.finishing 1 0)).phase = .finishing 1 0 ∧
    (exprel (.finishing 1 0)).replay = none := ⟨fun p => soleCommand _, rfl, rfl, by decide, rfl, rfl⟩

/-- TLAUNCH to queue 0: refused while the queue is off (SUB 1), and posted when it is an enabled device-fed queue. -/
def tlaunch : Command := { cmd with op := .tlaunch }

/-- The device with queue 0 enabled, fed by the device, its ring at 0x5_0000. -/
def queued (s : State) : State := { s with mgmt := [(0x8000, 0x50003)] }

theorem meets_CommandEvents_launch : SoleCommand (flying tlaunch) tlaunch ∧ tlaunch.op = .tlaunch ∧
    launchRefusal (flying tlaunch) tlaunch.tenant tlaunch.sup tlaunch.arg (dwordsOf ((flying tlaunch).loadBytes tlaunch.blockAt 64)) = some 1 ∧
    launchRefusal (queued (flying tlaunch)) tlaunch.tenant tlaunch.sup tlaunch.arg (dwordsOf ((flying tlaunch).loadBytes tlaunch.blockAt 64)) = none ∧
    heldBack (queued (flying tlaunch)) tlaunch.tid true (qBlock (qcfg (queued (flying tlaunch)) 0) (qTail (queued (flying tlaunch)) 0)) 64 = false :=
  ⟨soleCommand _, rfl, by decide +kernel, by decide +kernel, by decide +kernel⟩

/-- Whether an access succeeds at a location of the package. -/
def localOk : Res Trans → Bool
  | .ok tr => !isPeer tr.loc
  | _ => false

theorem local_of {x : Res Trans} (h : localOk x = true) : ∃ tr, x = .ok tr ∧ isPeer tr.loc = false := by
  cases x with
  | ok tr => exact ⟨tr, rfl, by simpa [localOk] using h⟩
  | wait => cases h
  | fault f => cases h

/-- RZERO with its work done and no NOTIFY. -/
def finished' : Command := { cmd with phase := .finishing 1 0, params := [2, 0, 0, 0, 0, 0, 0, 0] }

theorem meets_CommandEvents_result : SoleCommand (flying finished') finished' ∧ finished'.phase = .finishing 1 0 ∧ finished'.replay = none ∧
    ((finished'.params.getD 0 0).getLsbD 13 = false) ∧
    ∃ tr, enginePiece (flying finished') finished' accStore false (finished'.block.toNat + 0x38) 8 = .ok tr ∧ isPeer tr.loc = false :=
  ⟨soleCommand _, rfl, rfl, by decide, local_of (by decide +kernel)⟩

/-- A TCNT of th over two rows of bank 0 of a stack, of which the packet has arrived or not. -/
def accord (arrived : Bool) (rows : List Nat) : Accord :=
  { tid := 0x10000, tags := [], tenant := 0, op := .tcnt, param := 0, pattern := 0, d := 3, slots := 1, va := 0,
    rows := rows.map fun k => { index := k, pa := 1024 * k, queued := none }, arrivals := if arrived then [(0, 0)] else [], asid := 0, pages := [],
    list := [], listed := 0, count := 0, sum := 0, hits := [], badRow := none }

/-- A KILL's target with an accord in flight. -/
theorem meets_ThreadEnds_accord :
    ∃ x ∈ ({ pair (two 0x10001 0) mate with accords := [{ accord true [0] with tid := 0x10001 }] } : State).accords, x.tid = mate.tid :=
  ⟨_, .head _, rfl⟩

/-- A TLBI that covers a page of an accord in flight. -/
theorem meets_TranslationInvalidation_waits : ∃ x ∈ ({ one (two 0x200000 0) with accords := [{ accord true [0] with asid := 1, pages := [(0x200000, 4096)] }] } : State).accords,
    ∃ p ∈ x.pages, ((two 0x200000 0).g 1).toNat % 2 ^ 57 / p.2 = p.1 % 2 ^ 57 / p.2 ∧ x.asid = 1 := ⟨_, .head _, _, .head _, by decide, rfl⟩

def counting (arrived : Bool) (rows : List Nat) : State := { one th with accords := [accord arrived rows] }

theorem meets_AccordsAndExperts_packet : (counting false [0, 1]).accords = [accord false [0, 1]] ∧
    bufferRoom (counting false [0, 1]) 0 = true ∧ (accord false [0, 1]).arrivedAt 0 = none ∧
    (∃ r ∈ (accord false [0, 1]).rows, stackOf r.pa = 0) ∧
    (accord true [0, 1]).arrivedAt 0 ≠ none := ⟨rfl, by decide +kernel, by decide +kernel, ⟨_, .head _, by decide⟩, by decide +kernel⟩

/-- A row that is the last, one of two, and one whose packet has not come. -/
theorem meets_AccordsAndExperts_row : Sole (counting true [5]) th ∧ th.tid = (accord true [5]).tid ∧
    (∃ x ∈ (accord true [5]).rows, (accord true [5]).arrivedAt (stackOf x.pa) ≠ none ∧ x.index < 2 ^ 25 ∧ (∀ y ∈ (accord true [5]).rows, y = x) ∧
      (counting true [5]).selfRefresh.mem (stackOf x.pa).toNat = false ∧ (counting true [5]).stoppedDies.mem th.die.toNat = false ∧
      homeStopped (counting true [5]) x.pa = false ∧ claimHolds (counting true [5]) 0x10000 false x.pa 1024 = false ∧ lineLost (counting true [5]) x.pa 1024 = false) ∧
    (∃ x ∈ (accord true [4, 5]).rows, x.index = 4 ∧ (∀ y ∈ (accord true [4, 5]).rows, y.index = x.index → y = x) ∧
      (∀ y ∈ (accord true [4, 5]).rows, y.pa / 1024 % 2 ^ 14 = x.pa / 1024 % 2 ^ 14 → x.pa ≤ y.pa) ∧ ∃ y ∈ (accord true [4, 5]).rows, y ≠ x) ∧
    (∃ x ∈ (accord false [5]).rows, (accord false [5]).arrivedAt (stackOf x.pa) = none) ∧
    ({ counting true [5] with selfRefresh := [0] } : State).selfRefresh.mem (stackOf (1024 * 5)).toNat = true ∧
    homeStopped { counting true [5] with stoppedDies := [0, 1, 2, 3] } (1024 * 5) = true := by
  refine ⟨by simp [Sole, counting, one], rfl, ⟨_, .head _, by decide +kernel, by decide, by decide, rfl, rfl, rfl, by decide, by decide +kernel⟩,
    ⟨_, .head _, rfl, by decide, by decide, ?_⟩, ⟨_, .head _, by decide +kernel⟩, rfl, by decide +kernel⟩
  exact ⟨_, .tail _ (.head _), by decide⟩

/-- Tenant 0 with a table of one expert at 0x5_0000 and a pool, and a fetch that holds its slot. -/
def fetching (host : Bool) (ended : Option Nat) : State :=
  { one th with
    mgmt := [(0x4400, 0x50000)]
    fetches := [{ tenant := 0, expert := 0, host := host, src := 0, pages := 1, placed := true, moved := 0, posted := true, victim := none, ended := ended }] }

theorem meets_AccordsAndExperts_fetch : (∃ f, (fetching true (some 0)).fetches = [f] ∧ f.placed = true ∧ f.host = true ∧ f.ended = some 0) ∧
    (∃ f, (fetching true (some 255)).fetches = [f] ∧ f.ended = some 255) ∧ (∃ f, (fetching false none).fetches = [f] ∧ f.host = false) ∧
    ertEntry (fetching true (some 0)) 0 0 = some 0x50000 ∧ (∀ t ∈ (fetching true (some 0)).threads, t.parked = false) ∧
    ertHeld (fetching true (some 0)) deviceTid 0 true 0 = false ∧
    hostWrites (fetching true (some 0)) (poolSlot (fetching true (some 0)) 0 (ertSlot (fetching true (some 0)) 0x50000))
      (slotBytes (fetching true (some 0)) 0) = false :=
  ⟨⟨_, rfl, rfl, rfl, rfl⟩, ⟨_, rfl, rfl⟩, ⟨_, rfl, rfl⟩, by decide +kernel, by decide, by decide +kernel, by decide +kernel⟩

/-- An eviction of that expert, and one whose slot a store still waits to write. -/
def evicted (t : Thread) : State := { one t with mgmt := [(0x4400, 0x50000)], evicting := [(0, 0, false)] }
def storing : Thread :=
  { th with sbuf := [{ seq := 0, loc := 0, bytes := [1], kind := 0, streaming := false, page := none, afterVl := 0, afterVs := 0 }] }

theorem meets_AccordsAndExperts_eviction : (evicted th).evicting = [(0, 0, false)] ∧ ertEntry (evicted th) 0 0 = some 0x50000 ∧
    slotInUse (evicted th) (poolSlot (evicted th) 0 (ertSlot (evicted th) 0x50000)) (slotBytes (evicted th) 0) = false ∧
    slotInUse (evicted storing) (poolSlot (evicted storing) 0 (ertSlot (evicted storing) 0x50000)) (slotBytes (evicted storing) 0) = true ∧
    ertHeld (evicted th) deviceTid 0 true 0 = false ∧ ertHeld { evicted th with selfRefresh := [stackOf 0x50000 |>.toNat] } deviceTid 0 true 0 = true :=
  ⟨rfl, by decide +kernel, by decide +kernel, by decide +kernel, by decide +kernel, by decide +kernel⟩

/-! ### Witnesses: management space and ownership -/

/-- Values at the limits: a tenant's MAX of 16 slots and of 16,384 entries, one more, a LO above its MAX, and LOs that together exceed what there is. -/
theorem meets_RegisterWrites_quotas :
    (field 16 16 5 ≤ field 16 0 5 ∧ field 16 0 5 ≤ 16 ∧ reserved (one th) 0 0x4000 16 5 0 16 ≤ 16) ∧ ¬ field 17 0 5 ≤ 16 ∧
    ¬ field 0x10000 16 5 ≤ field 0x10000 0 5 ∧ ¬ reserved { one th with mgmt := [(0x4008, 0x100010)] } 0 0x4000 16 5 0 0x10001 ≤ 16 ∧
    (field 16384 32 15 ≤ field 16384 0 15 ∧ field 16384 0 15 ≤ 16384 ∧ reserved (one th) 0 0x4080 32 15 0 16384 ≤ 16384) ∧
    ¬ field 16385 0 15 ≤ 16384 := by decide +kernel

/-- AGE and LEN of 0, a context pool in use and one that is not, the queue sizes 2 and 12, a HEAD that reaches TAIL and one that passes it. -/
theorem meets_RegisterWrites_limits : field 0x10000 16 8 ≠ 0 ∧ ¬ field 1 16 8 ≠ 0 ∧ field 1 0 16 ≠ 0 ∧ ¬ field 0x10000 0 16 ≠ 0 ∧
    (∀ u ∈ (one th).threads, ¬ (u.die = 0 ∧ u.tenant = 1)) ∧ (∃ u ∈ (one th).threads, u.die = 0 ∧ u.tenant = 0) ∧
    (∀ p ∈ ertEntries (one th) 0, ertState (one th) p.2 ∉ [1, 2, 3]) ∧ (16 ≤ field 0x8000 11 5 ∧ field 0x8000 11 5 ≤ 30) ∧
    ¬ 16 ≤ field 0x7800 11 5 ∧ (2 ≤ field 2 0 4 ∧ field 12 0 4 ≤ 12) ∧ ¬ field 13 0 4 ≤ 12 ∧
    (∀ u ∈ (one th).threads, u.tenant = 0 → u.replay = none) ∧ (field 3 0 16 + 65536 - field 0x300000000 0 16) % 65536 ≤
      (field 0x300000000 32 16 + 65536 - field 0x300000000 0 16) % 65536 ∧
    ¬ (field 4 0 16 + 65536 - field 0x300000000 0 16) % 65536 ≤ (field 0x300000000 32 16 + 65536 - field 0x300000000 0 16) % 65536 ∧
    (59 : BitVec 6).toNat < 60 ∧ ¬ (60 : BitVec 6).toNat < 60 := by decide +kernel

/-- The first aperture base, and one below the region; firmware that has failed; a failed die. -/
theorem meets_RegisterWrites_bounds : (one th).firmwareOk = true ∧ ({ one th with firmwareOk := false } : State).firmwareOk = false ∧
    0x1000000000000 ≤ field (0x1000000000000 : Dword) 28 28 * 2 ^ 28 ∧ ¬ 0x1000000000000 ≤ field (0xFFFFF0000000 : Dword) 28 28 * 2 ^ 28 ∧
    ((one th).mreg 0 0xB008).getLsbD 16 = false ∧ (one th).failedDies.mem ((0 : BitVec 10).toNat / 256) = false ∧
    ({ one th with failedDies := [3] } : State).failedDies.mem ((1023 : BitVec 10).toNat / 256) = true := by decide +kernel

/-- A table whose one expert is resident. -/
theorem meets_RegisterWrites_active :
    ∃ p ∈ ertEntries ({ one th with mgmt := [(0x4400, 0x50000)] }.store64 0x50000 0x4000000000000000) 0,
      ertState ({ one th with mgmt := [(0x4400, 0x50000)] }.store64 0x50000 0x4000000000000000) p.2 ∈ [1, 2, 3] :=
  ⟨(0, 0x50000), by decide +kernel, by decide +kernel⟩

/-- The first window of the CXL region, one that leaves the region, and one that meets another decoder's. -/
theorem meets_RegisterWrites_windows : windowFree (windowOf 0x10000000001 20) 0x10000000000 0x410000000000 (otherHdm (one th) 0 0) ∧
    ¬ 0x10000000000 ≤ (windowOf 0xFFFF0000001 20).1 - 0xFFFF0000000 ∧
    ¬ windowFree (windowOf 0x10000000001 20) 0x10000000000 0x410000000000
      (otherHdm { one th with mgmt := [(0xA010, 0x10000000001), (0xA018, 0x10001)] } 0 0) ∧
    (0x10001 : Dword).getLsbD 16 = true ∧ ((one th).mreg 0 0xA008).getLsbD 16 = false := by
  refine ⟨⟨by decide +kernel, by decide +kernel, ?_⟩, by decide +kernel, fun h => ?_, by decide, by decide +kernel⟩
  · have h : otherHdm (one th) 0 0 = [] := by decide +kernel
    rw [h]
    exact fun _ h => (nomatch h)
  · exact absurd (h.2.2 (0x10000000000, 0x10000000) (by decide +kernel)) (by decide +kernel)

/-- The largest and the first refused SIZE; a queue that starts; a changed configuration of an enabled one. -/
theorem meets_RegisterWrites_queues : field (0xB01 : Dword) 8 4 < 12 ∧ ¬ field (0xC01 : Dword) 8 4 < 12 ∧ (0xB01 : Dword).getLsbD 0 = true ∧
    (qcfg (one th) 1023).getLsbD 0 = false ∧ (qcfg (queued (one th)) 0).getLsbD 0 = true ∧ qcfg (queued (one th)) 0 ≠ 0x50007 ∧
    (allQueues.filter fun x => qEnabled (qcfg (one th) x) && qTenant (qcfg (one th) x) = 0).length < 64 := by decide +kernel

/-- TAIL at a full ring and past it; a doorbell of the queue's own virtual function, of another, and before the functions work. -/
theorem meets_RegisterWrites_tails : (field 16 0 16 + 65536 - qHead (one th) 0) % 65536 ≤ 2 ^ (field (qcfg (one th) 0) 8 4 + 4) ∧
    2 ^ (field (qcfg (one th) 0) 8 4 + 4) < (field 17 0 16 + 65536 - qHead (one th) 0) % 65536 ∧ (one th).bringUp = 6 ∧
    (qTenant (qcfg (one th) 0)).toNat + 1 = (1 : BitVec 5).toNat ∧ qDeviceFed (qcfg (one th) 0) = false ∧ qSup (qcfg (one th) 0) = false ∧
    (qTenant (qcfg (one th) 0)).toNat + 1 ≠ (16 : BitVec 5).toNat ∧ State.reset.bringUp ≠ 6 := by decide +kernel

theorem meets_RegisterWrites_expdone : (∃ f, (fetching true none).fetch? 0 (BitVec.extractLsb' 0 16 (0xFF0000 : Dword)) = some f ∧ f.host = true) ∧
    (fetching true none).fetch? 0 (BitVec.extractLsb' 0 16 (0xFF0001 : Dword)) = none ∧
    ∃ f, (fetching false none).fetch? 0 (BitVec.extractLsb' 0 16 (0xFF0000 : Dword)) = some f ∧ f.host = false :=
  ⟨⟨_, rfl, rfl⟩, rfl, ⟨_, rfl, rfl⟩⟩

/-- Stack 15 with frame 16,383 owned by tenant 1; the device with an update of stack 15 under way, at the last row of its only frame. -/
def framed : State := { one th with frames := [(15 * 16384 + 16383, 17)] }
def update (assign : Bool) (row : Nat) : Ownership := { stack := 15, assign := assign, tenant := 0, frames := [16383], row := row }
def updating (assign : Bool) (row : Nat) : State := { one th with ownership := [update assign row] }

/-- The last frame is in range, one past it is not; foreign, free and owned frames. -/
theorem meets_OwnershipUpdates : (∀ o ∈ framed.ownership, o.stack ≠ 15) ∧ (16383 : BitVec 14).toNat + (0 : BitVec 14).toNat ≤ 16383 ∧
    16383 < (16383 : BitVec 14).toNat + (1 : BitVec 14).toNat ∧ frameOwner framed 15 16383 ≠ 0 ∧
    frameOwner framed 15 16383 ≠ (0 : BitVec 4).toNat + 1 ∧ frameOwner framed 15 16383 = (1 : BitVec 4).toNat + 1 ∧ frameOwner framed 15 16382 = 0 ∧
    (∃ o ∈ (updating true 0).ownership, o.stack = 15) := by decide +kernel

theorem meets_OwnershipUpdates_row : (∀ assign row, (updating assign row).ownership = [update assign row] ∧
      (update assign row).frames = 16383 :: []) ∧ (update true 63).row < 64 ∧
    (updating true 63).selfRefresh.mem (update true 63).stack.toNat = false ∧
    ({ updating true 63 with selfRefresh := [15] } : State).selfRefresh.mem (update true 63).stack.toNat = true ∧
    (updating true 63).stoppedDies.mem (stackDie (update true 63).stack).toNat = false ∧
    ({ updating true 63 with stoppedDies := [3] } : State).stoppedDies.mem (stackDie (update true 63).stack).toNat = true :=
  ⟨fun _ _ => ⟨rfl, rfl⟩, by decide, rfl, rfl, rfl, rfl⟩

/-- A packet to the row at the frame's end that has arrived before a release of it. -/
def toRow : Packet :=
  { op := .write, stack := 15, port := 5, tag := 0, tenant := 0, access := { pa := 0x3FFFFFC00, op := .write [1], release := false }, kind := 0, stride := 1,
    len := 1, esz := 0, first := 0, list := [], flits := [], owing := [0], damaged := false, waited := false }

theorem meets_OwnershipUpdates_arrived : ∃ p ∈ ({ updating false 63 with packets := [toRow] } : State).packets,
    overlap p.access.pa.toNat (accessSize p.access) (16383 * 1048576 + (15 : BitVec 4).toNat * 65536 + 63 * 1024) 1024 = true ∧
      packetHeld { updating false 63 with packets := [toRow] } p = false := ⟨_, .head _, by decide, by decide +kernel⟩

/-! ### Witnesses: events -/

/-- A thread that waits for the service of a fault, the fifteenth time it was met, its record queued or not. -/
def faulted (queued : Bool) : Thread :=
  { th with replay := some { flt := { cause := 0x05, sub := 0x01, va := 0x30000, addr := 0x30000, access := 0, expert := none, reads := [] }, count := 15, queued := queued,
                             saved := th.trap, expert := none } }

/-- A thread that waits for a system call's answer. -/
def caller : Thread :=
  { th with replay := some { flt := { cause := 0x17, sub := 0x00, va := 0, addr := 0, access := 0, expert := none, reads := [] }, count := 0, queued := true, saved := th.trap,
                             expert := none } }

theorem sole (t : Thread) : Sole (one t) t := by simp [Sole, one]

theorem meets_ThreadsFromOutside_replay : Sole (one (faulted true)) (faulted true) ∧ (∃ x, (faulted true).replay = some x ∧ x.queued = true) ∧
    (∃ x, (faulted false).replay = some x ∧ x.queued = false) ∧ (∃ x, caller.replay = some x ∧ x.flt.cause = 0x17) ∧
    (one (faulted true)).firmwareOk = true ∧ (∀ v ∈ (one (faulted true)).threads, v.parked = false) ∧
    (faulted true).tenant = 0 ∧ (faulted true).tenant ≠ 1 ∧ (∀ v ∈ (one (faulted true)).threads, v.replay ≠ none → Handles v) ∧
    (faulted true).sbuf = [] ∧ recordCount (one (faulted true)) 0 < tqSize (one (faulted true)) 0 ∧ recordHeld (one (faulted true)) 0 = false := by
  refine ⟨sole _, ⟨_, rfl, rfl⟩, ⟨_, rfl, rfl⟩, ⟨_, rfl, rfl⟩, rfl, by decide, rfl, by decide, fun v hv _ => ?_, rfl, by decide, by decide +kernel⟩
  cases hv with
  | head => exact ⟨rfl, by decide⟩
  | tail _ h => exact (nomatch h)

/-- A command whose access waits for the service of a fault. -/
def faultedCmd : Command :=
  { cmd with phase := .accepted, replay := some ({ cause := 0x05, sub := 0x01, va := 0x30000, addr := 0x30000, access := 1, expert := none, reads := [] }, 0, true, none) }

theorem meets_ThreadsFromOutside_command : SoleCommand (flying faultedCmd) faultedCmd ∧ (∃ f n q x, faultedCmd.replay = some (f, n, q, x)) ∧
    faultedCmd.tenant = 0 ∧ faultedCmd.phase = .accepted := ⟨soleCommand _, ⟨_, _, _, _, rfl⟩, rfl, rfl⟩

/-- A stream of four words whose third one waits. -/
def streaming : Command :=
  { faultedCmd with op := .vstrm, arg := 4, params := [2 ^ 8, 0, 0x30000, 4, 0x40000, 0, 0, 0] }

/-- th's request alone, behind a rival's request that its directory has not started, and at a slice that a rival's grant holds. -/
def requesting (earlier : List Claim) : State := { one th with claims := earlier ++ mine false :: [] }

theorem meets_ThreadsFromOutside_tenure : (requesting []).stoppedDies = [] ∧ (requesting []).claims = [] ++ mine false :: [] ∧ (mine false).granted = false ∧ Sole (requesting []) th ∧
    th.tid = (mine false).tid ∧ (∀ x ∈ ([] : List Claim) ++ [], x.tid = (mine false).tid → x.granted = true) ∧
    (mine false).started = false ∧ (∃ x ∈ [rival false], x.granted = false ∧ handleDie x.handle = handleDie (mine false).handle ∧
      claimsConflict (mine false) x = true) ∧ ∀ x ∈ [rival true] ++ [], x.tid = (mine false).tid → x.granted = true :=
  ⟨rfl, rfl, rfl, by simp [Sole, requesting, one], rfl, fun _ h => (nomatch h), rfl, ⟨_, .head _, rfl, by decide, by decide⟩, by decide⟩

/-- The requester at its THACQ, and in its handler. -/
theorem meets_ThreadsFromOutside_waiter : (mine false).waiter th = true ∧ (mine false).waiter { th with inHandler := true } = false ∧
    Sole { requesting [] with threads := [{ th with inHandler := true }] } { th with inHandler := true } :=
  ⟨by decide, by decide, by simp [Sole]⟩

theorem meets_ThreadsFromOutside_slice : ∃ k rest, slicesOf State.reset [(0x30000, 64), (0x30040, 64)] = k :: rest ∧
    (let c := { mine false with started := true, slices := k :: rest, placed := [(k, 1)] }
     c.placedAt k = some 1 ∧ claimsConflict c (rival true) = true ∧ ∃ m, (rival true).placedAt k = some m ∧ ((rival true).granted = true ∨ m < 1)) :=
  ⟨_, _, rfl, by decide +kernel, by decide +kernel, _, rfl, .inl rfl⟩

theorem meets_ThreadsFromOutside_round : ((one th).bringUp = 6 ∧ (one th).failedDies.mem (3 : BitVec 2).toNat = false ∧
      (one th).stoppedDies.mem (3 : BitVec 2).toNat = false) ∧ State.reset.bringUp ≠ 6 ∧ (∀ g ∈ (one th).gangs, g.die ≠ 3) ∧
    (∀ q, queueDie q = 3 → offers (one th) q = false) := by
  refine ⟨⟨rfl, rfl, rfl⟩, by decide, fun _ h => (nomatch h), ?_⟩
  intro q _
  have hm : ∀ off, mgmtReset off = 0 → (one th).mreg (queueDie q) off = 0 := fun _ h => h
  have hq : 0x8000 ≤ offQueue q := by show 0x8000 ≤ 0x8000 + 32 * (q.toNat % 256); omega
  have hr : mgmtReset (offQueue q) = 0 := by
    generalize offQueue q = o at hq
    unfold mgmtReset
    iterate 14 rw [if_neg (by omega)]
  show ((none : Option Task).isSome || (qEnabled ((one th).mreg (queueDie q) (offQueue q)) && _)) = false
  rw [hm _ hr]
  rfl

/-- A task of one thread, and its gang, which waits and fits; its tenant's weight is 1 in every round, or 0. -/
def task : Task :=
  { queue := 0, seq := 0, tenant := 0, sup := false, prio := 0,
    block := { entry := 0x10000, spad := 1, tileg := false, gangsM1 := 0, ncrewM1 := 0, nthrM1 := 0, done := 0, args := 0, p0 := 0, p1 := 0,
               p2 := 0, p3 := 0 },
    entered := 1, live := 1, fatal := false, hostFed := true, ticket := none }
def gang : Gang :=
  { id := 0, die := 0, entry := 0, queue := 0, seq := 0, index := 0, tenant := 0, state := .waiting, level := 0, atLevel := 0, ran := 0,
    parkedFor := 0, age := 0 }
def waitingGang (mgmt : Sparse Dword) : State := { State.reset with bringUp := 6, tasks := [task], gangs := [gang], mgmt := mgmt }

theorem meets_ThreadsFromOutside_gang :
    (waitingGang [(0x4180, 0x100001)]).gangs.filter (fun x => x.die = 0) = [gang] ∧ gang.state = .waiting ∧
    fits (waitingGang [(0x4180, 0x100001)]) gang = true ∧ field ((waitingGang [(0x4180, 0x100001)]).mreg 0 0x4100) 0 8 ≠ 0 ∧
    gangSize (waitingGang [(0x4180, 0x100001)]) gang ≤
      min (0 + field ((waitingGang [(0x4180, 0x100001)]).mreg 0 0x4100) 0 8) 1024 ∧
    fits (waitingGang [(0x4100, 0x80000), (0x4180, 0x100001)]) gang = true ∧
    field ((waitingGang [(0x4100, 0x80000), (0x4180, 0x100001)]).mreg 0 0x4100) 0 8 = 0 := by decide +kernel

/-- Tenant 0's only thread has nothing outstanding; its one tile stands alone at its place. -/
theorem meets_ThreadsFromOutside_removal : (∀ u ∈ (tiled th).threads, u.tenant = 0 → u.sbuf = [] ∧ u.ending = false ∧ (∀ x ∈ (tiled th).accords, x.tid ≠ u.tid) ∧
      ∀ w ∈ (tiled th).threads, w.tid = u.tid → w.tenant = 0) ∧ tile ∈ (tiled th).tiles ∧ tile.tenant = 0 ∧
    (tiled th).tiles.filter (fun x => x.die = tile.die && x.index = tile.index) = [tile] ∧
    ∀ p ∈ ertEntries (killThreads (tiled th) 0) 0, heldBack (killThreads (tiled th) 0) deviceTid true p.2 32 = false :=
  ⟨by decide, .head _, rfl, by decide, by decide +kernel⟩

/-- A packet of stack 0 before one of stack 1. -/
def packet (stack : BitVec 4) (op : MemOp) : Packet :=
  { op := MemOp.packetOp op, stack := stack, port := 5, tag := 255, tenant := 0, access := { pa := 0x30000, op := op, release := false }, kind := 0, stride := 0, len := 1,
    esz := 0, first := 0, list := [], flits := [], owing := [0, 1], damaged := false, waited := false }
def packets (op : MemOp) : State := { one th with packets := packet 0 op :: [packet 1 op] }

theorem meets_FabricEvents_packets : (∀ op, (packets op).packets = packet 0 op :: [packet 1 op] ∧ (packet 0 op).stack = 0 ∧
      (packet 0 op).damaged = false ∧ (packets op).accords = [] ∧ ∀ x ∈ [packet 1 op], x.stack ≠ 0) ∧
    ((packets (.read 255)).bringUp = 6 ∧ (packets (.read 255)).selfRefresh.mem (0 : BitVec 4).toNat = false ∧
      (packets (.read 255)).stoppedDies.mem ((0 : BitVec 4).toNat / 4) = false) ∧
    claimHolds (packets (.read 255)) deviceTid false 0x30000 255 = false ∧
    claimHolds (packets (.write [1])) deviceTid true 0x30000 1 = false ∧ claimHolds (packets (.amo .add 1 0)) deviceTid true 0x30000 8 = false ∧
    claimHolds (packets (.publish 1)) deviceTid true 0x30000 8 = false ∧
    ({ packets (.read 255) with selfRefresh := [0] } : State).selfRefresh.mem (0 : BitVec 4).toNat = true := by
  refine ⟨fun op => ⟨rfl, rfl, rfl, rfl, fun x h => ?_⟩, ⟨rfl, rfl, rfl⟩, rfl, rfl, rfl, rfl, rfl⟩
  cases h with
  | head => show (1 : BitVec 4) ≠ 0; decide
  | tail _ h => exact (nomatch h)

/-- A packet received before, a new one, and paths up, down and dead. -/
theorem meets_FabricEvents_paths : (7, 0) ∈ ({ one th with received := [(7, 0)] } : State).received ∧ (7, 0) ∉ (one th).received ∧
    (one th).deadPaths.mem (4095 : BitVec 12).toNat = false ∧ (one th).downPaths.mem (4095 : BitVec 12).toNat = false ∧
    ({ one th with downPaths := [4095] } : State).downPaths.mem (4095 : BitVec 12).toNat = true ∧
    ({ one th with deadPaths := [4095] } : State).deadPaths.mem (4095 : BitVec 12).toNat = true ∧
    isPeer (peerLoc 4095 0) = true ∧ peerOf (peerLoc 4095 0) = (4095 : BitVec 12).toNat :=
  ⟨.head _, fun h => (nomatch h), rfl, rfl, rfl, rfl, by decide +kernel, by decide +kernel⟩

/-- The last byte of HBM and the byte past it. -/
theorem meets_FabricEvents_outside : outsideTarget (one th) 0x804 { pa := 0xFFFFFFFFFF, op := .write [1], release := false } = true ∧
    outsideTarget (one th) 0x804 { pa := 0x10000000000, op := .write [1], release := false } = false := by decide +kernel

/-- A port of the host reaches the lowest 256 GiB. -/
theorem meets_FabricEvents_host : outsideTarget (one th) 0x800 { pa := 0x3FFFFFFFFF, op := .write [1], release := false } = true ∧
    outsideTarget (one th) 0x803 { pa := 0x4000000000, op := .write [1], release := false } = false := by decide +kernel

/-- A reply that waits, a packet lost on its way, and neither. -/
def answered : State := { one th with replies := [{ port := 5, tag := 255, index := 0, data := [1], poisoned := false }] }
def inFlight : State := { one th with inflight := [packet 0 (.read 1)] }

theorem meets_FabricEvents_replies : (∃ r, answered.replies = [] ++ r :: [] ∧ (r.port = 5 ∧ r.tag = 255 ∧ r.index = (0 : BitVec 16).toNat) ∧ ∀ p ∈ answered.packets ++ answered.inflight,
      ¬ (p.port = 5 ∧ p.tag = 255)) ∧ (∀ a ∈ answered.accords, missPort (a.tid.extractLsb' 3 8).toNat ≠ 5) ∧
    (∃ p, inFlight.inflight = [] ++ p :: [] ∧ (p.port = 5 ∧ p.tag = 255 ∧ (1 : BitVec 16).toNat ∈ p.owing) ∧ ¬ p.owing.length ≤ 1 ∧
      ({ p with owing := p.owing.erase 1 } : Packet).owing.length ≤ 1) ∧ inFlight.replies = [] ∧ (one th).inflight = [] :=
  ⟨⟨_, rfl, ⟨rfl, rfl, rfl⟩, fun _ h => (nomatch h)⟩, fun _ h => (nomatch h), ⟨_, rfl, ⟨rfl, rfl, by decide⟩, by decide, by decide⟩, rfl, rfl⟩

/-- The first line of the CXL region, which port 0 homes while no decoder is on, and the last line of HBM. -/
theorem meets_FabricEvents_snoop : (0x10000000000 ≤ (0x200000000 : BitVec 45).toNat * 128 ∧ (0x200000000 : BitVec 45).toNat * 128 < 0x410000000000 ∧
      homeDie (one th) ((0x200000000 : BitVec 45).toNat * 128) = 0) ∧ ¬ 0x10000000000 ≤ (0x1FFFFFFFF : BitVec 45).toNat * 128 := by
  decide +kernel

/-- The seventh and eighth replay of a link, and a failed link. -/
theorem meets_FabricEvents_link : Sparse.get 0 (one th).linkCount (255 : BitVec 8).toNat < 7 ∧
    Sparse.get 0 ({ one th with linkCount := [(255, 7)] } : State).linkCount (255 : BitVec 8).toNat = 7 ∧
    8 ≤ Sparse.get 0 ({ one th with linkCount := [(255, 8)] } : State).linkCount (255 : BitVec 8).toNat := by decide

theorem meets_DeviceEvents : State.reset.bringUp ≠ 6 ∧ State.reset.firmwareOk = true ∧ (∀ a rest, State.reset.firmware = a :: rest → False) ∧
    ({ State.reset with firmwareOk := false } : State).firmwareOk = false ∧ (one th).bringUp = 6 :=
  ⟨by decide, rfl, fun _ _ h => (nomatch h), rfl, rfl⟩

/-- An image whose version is below the fused counter, or whose counter has none below: one of the two fails. -/
theorem meets_DeviceEvents_firmware (v : Nat) (h : v < Config.fusedRollback) :
    ∃ a rest, ({ State.reset with firmware := [{ code := [], key := [], signature := [], version := v }] } : State).firmware = a :: rest ∧
      ¬ Config.fusedRollback ≤ a.version := ⟨_, _, rfl, Nat.not_le.mpr h⟩

/-- A correctable error in the first row of bank 0 of stack 0; a stack in self-refresh; a stopped and a failed die. -/
theorem meets_DeviceEvents_rows : ({ one th with softErrors := [2] } : State).softErrors.filter (fun k => k / 64 = bankRowPa 0 0 0 / 1024) ≠ [] ∧
    (one th).softErrors.filter (fun k => k / 64 = bankRowPa 0 0 0 / 1024) = [] ∧
    ({ one th with selfRefresh := [15] } : State).selfRefresh.mem (15 : BitVec 4).toNat = true ∧
    (one th).selfRefresh.mem (15 : BitVec 4).toNat = false ∧ (one th).packets = [] ∧ (one th).accords = [] ∧
    ({ one th with stoppedDies := [3] } : State).stoppedDies.mem (3 : BitVec 2).toNat = true ∧
    ({ one th with failedDies := [3] } : State).failedDies.mem (3 : BitVec 2).toNat = true ∧ (one th).failedDies.mem (3 : BitVec 2).toNat = false ∧
    (one th).stoppedDies.mem (3 : BitVec 2).toNat = false := ⟨by decide, rfl, rfl, rfl, rfl, rfl, rfl, rfl, rfl, rfl⟩

/-- A line held in an L1 and the L2, one in neither, a packet in the buffer, and a command with a sector in its row buffer. -/
def cached : State := { one th with l1 := [{ core := 255, line := 3, modified := false, bad := [] }], l2 := [{ line := 3, tenant := 0, pinned := false }] }
def buffered : Command := { cmd with sectors := [{ line := 0, bytes := [1, 2], bad := [] }] }

theorem meets_DeviceEvents_sites : (∃ c ∈ cached.l1, c.core = (3 : BitVec 2).toNat * 64 + (63 : BitVec 6).toNat ∧ c.line = (0x1FF : BitVec 56).toNat / 128) ∧
    (∃ c ∈ cached.l2, c.line = (0x1FF : BitVec 56).toNat / 128) ∧ (¬ ∃ c ∈ (one th).l1, c.line = 3) ∧ (¬ ∃ c ∈ (one th).l2, c.line = 3) ∧
    (∃ p, ({ one th with packets := [packet 0 (.read 1)] } : State).packets = [p] ∧ p.stack = 0) ∧
    SoleCommand (flying buffered) buffered ∧ buffered.op ≠ .rcopy ∧ ∃ x rest, buffered.sectors = x :: rest :=
  ⟨⟨_, .head _, rfl, rfl⟩, ⟨_, .head _, rfl⟩, fun h => (nomatch h.choose_spec.1), fun h => (nomatch h.choose_spec.1), ⟨_, rfl, rfl⟩, soleCommand _,
    by decide, _, _, rfl⟩

/-- A row copy between two stacks, of which the last sector is still to move. -/
def rowCopy : Command := { cmd with op := .rcopy, pairs := [(0x10000, 0x30000)], next := 31 }

theorem meets_DeviceEvents_row : SoleCommand (flying rowCopy) rowCopy ∧ 31 < 32 * rowCopy.pairs.length ∧ rowCopy.unitDone 31 = false ∧
    rowCopy.rowInside (31 / 32) = false ∧ ∀ j, j < 31 → rowCopy.unitDone j = true ∨ rowCopy.rowInside (j / 32) = true :=
  ⟨soleCommand _, by decide, by decide, by decide +kernel, by decide⟩

/-- The last byte of HBM and the last granule of a scratchpad. -/
theorem meets_DeviceEvents_errors : (0xFFFFFFFFFF : BitVec 56).toNat < 0x10000000000 ∧ (98303 : BitVec 17).toNat < 98304 ∧ Sole (one th) th :=
  ⟨by decide, by decide, sole th⟩

/-! ### Witnesses: the step -/

/-- Whether a line is reached whose slot decodes to an instruction that needs no other line. -/
noncomputable def fetches (s : State) (t : Thread) (i : Instr) (n : Nat) : Bool :=
  match arrive s t .fall false t.pc with
  | .ok l => !wantsNext t l.1 (slotOf t.pc) && (match decode (lineSlots l.1 (slotOf t.pc)) [] with
    | .ok p => p.1 = i && p.2 = n
    | .error _ => false)
  | _ => false

theorem fetches_iff {s : State} {t : Thread} {i : Instr} {n : Nat} (h : fetches s t i n = true) :
    ∃ line entry, arrive s t .fall false t.pc = .ok (line, entry) ∧ wantsNext t line (slotOf t.pc) = false ∧
      decode (lineSlots line (slotOf t.pc)) [] = .ok (i, n) := by
  simp only [fetches] at h
  split at h
  · rename_i l ha
    obtain ⟨line, entry⟩ := l
    simp only [Bool.and_eq_true, Bool.not_eq_true'] at h
    obtain ⟨hw, h⟩ := h
    split at h
    · rename_i p hd
      simp only [Bool.and_eq_true, decide_eq_true_eq] at h
      obtain ⟨rfl, rfl⟩ := h
      exact ⟨line, entry, ha, hw, hd⟩
    · cases h
  · cases h

/-- The first thread of a machine on which SUB g5, g6, g7 has been placed. -/
def first : Thread := { firstThread with tid := 0x10000 }
def placed : State := placeFirst State.reset [0x10E18281]

theorem meets_StepRunsDecoded : placed.threads = [first] ∧ placed.agenda.head? = some (.run first.tid) ∧ runnable placed first = true ∧
    first.wait = .none ∧ first.vq = [] ∧ matrixOf placed first.tid = [] ∧ arrivedLine first = none ∧
    fetches (beginTurn { placed with agenda := placed.agenda.drop 1, steps := placed.steps + 1 } first) first (.sub 5 6 (r 7)) 1 = true :=
  ⟨by decide +kernel, by decide +kernel, by decide +kernel, rfl, rfl, rfl, rfl, by decide +kernel⟩

/-- A thread that has arrived at its address with a line read. -/
theorem meets_StepRunsDecoded_arrived : arrivedLine { first with arrived := some (first.pc, List.replicate 128 0) } = some (List.replicate 128 0) := by decide +kernel

/-- With an empty agenda the round robin gives the same thread its turn. -/
theorem meets_StepRunsDecoded_robin : ({ placed with agenda := [] } : State).agenda = [] ∧
    (ownWork { placed with agenda := [], steps := 1 }).isNone = true ∧ roundDue { placed with agenda := [], steps := 1 } = false ∧
    nextThread { placed with agenda := [], steps := 1 } = some first := by decide +kernel

theorem meets_InvKept : Inv State.reset ∧ ∃ s', step State.reset = .next s' := by
  constructor
  · show Memory.wf State.reset.mem = true
    decide
  · exact ⟨_, rfl⟩

/-! ### Single steps -/

/-- The first thread after a meaning. -/
def after (x : Result) : Option Thread :=
  match x with
  | .next s => s.threads.head?
  | _ => none

/-- g(d) after a meaning. -/
def gAfter (x : Result) (d : BitVec 7) : Option Dword := (after x).map fun t => t.g d

/-- A doubleword of the scratchpad after a meaning. -/
def spadAfter (x : Result) (off : Nat) : Option Dword :=
  match x with
  | .next s => some (s.mem64 (spadLoc 0 off))
  | _ => none

theorem test_add_wraps : gAfter (execAdd 3 1 (r 2) (one (two ones64 2))) 3 = some 1 := by decide +kernel

theorem test_sub_source_is_destination : gAfter (execSub 1 1 (r 2) (one (two 5 7))) 1 = some (-2) := by decide +kernel

theorem test_write_of_g0 : gAfter (execAdd 0 1 (r 2) (one (two 5 7))) 0 = some 0 := by decide +kernel

/-- −1 × 2 has the high half −1 signed and 1 unsigned (R97). -/
theorem test_mulh : gAfter (execMulh 3 1 (r 2) (one (two ones64 2))) 3 = some ones64 ∧
    gAfter (execMulhn 3 1 (r 2) (one (two ones64 2))) 3 = some 1 := by decide +kernel

/-- −7 / 2 rounds toward zero, and the remainder has the sign of −7 (R97). -/
theorem test_div_negative : gAfter (execDiv 3 1 (r 2) (one (two (-7) 2))) 3 = some (-3) ∧
    gAfter (execRem 3 1 (r 2) (one (two (-7) 2))) 3 = some (-1) := by decide +kernel

theorem test_shift_counts_modulo_64 : gAfter (execSll 3 1 (r 2) (one (two 1 65))) 3 = some 2 ∧
    gAfter (execRor 3 1 (r 2) (one (two 1 1))) 3 = some minI64 ∧ gAfter (execSra 3 1 (r 2) (one (two minI64 63))) 3 = some ones64 := by decide +kernel

/-- BFX.i with 0x11C4 extracts bits [11:4] of the source, signed (chapter 05). -/
theorem test_bfx_signed : gAfter (execBfx 3 1 (r 2) (one (two 0xABC 0x11C4))) 3 = some 0xFFFFFFFFFFFFFFAB := by decide +kernel

/-- LIH and ORI of the worked constant (chapter 05). -/
theorem test_lih : gAfter (execLih 3 ⟨BitVec.ofNat 20 0x789AB, some 0x123456⟩ (one th)) 3 = some 0x0123456789AB0000 := by decide +kernel

/-- The slot after slot 29 of a line is slot 0 of the next (R47). -/
theorem test_next_slot_crosses_line : slotAfter 0x1007C 1 = 0x10088 ∧ branchTarget 0x10088 (-1) = 0x1007C := by decide

theorem test_load_sign_extends : gAfter (execLdw 3 1 (imm 0) ((one (two (spad 8) 0)).store64 (spadLoc 0 8) 0x80000000)) 3 =
    some 0xFFFFFFFF80000000 := by decide +kernel

theorem test_store_is_little_endian : spadAfter (execSth 2 1 (imm 3) (one (two (spad 1) 0x1234ABCD))) 0 = some 0x0000ABCD00000000 := by
  decide +kernel

theorem test_amomin_is_signed : gAfter (execAmomin 3 1 (r 2) .plain false ((one (two (spad 0) ones64)).store64 (spadLoc 0 0) 5)) 3 = some 5 ∧
    spadAfter (execAmomin 3 1 (r 2) .plain false ((one (two (spad 0) ones64)).store64 (spadLoc 0 0) 5)) 0 = some ones64 := by decide +kernel

theorem test_amocas_fails : spadAfter (execAmocas 3 1 (r 2) .plain false ((one (three (spad 0) 9 4)).store64 (spadLoc 0 0) 5)) 0 = some 5 := by
  decide +kernel

/-- TRAP 5 (chapter 05): cause 0x16, subcause 5, TRAPSAVE at the next slot, the pc at slot 0 of the handler's line. -/
theorem test_trap : (after (execTrap 5 (one th))).map (fun t => (t.trap.cause, t.trap.pc, t.trap.save, t.pc, t.inHandler)) =
    some (0x0516, 0x10008, 0x1000C, 0x20008, true) := by decide +kernel

theorem test_eret : (after (execEret (paged handling))).map (fun t => (t.pc, t.inHandler, t.vl, t.vtype, t.swb)) =
    some (0x10008, false, 3, 2, 16) := by decide +kernel

/-- VCVTBC alone: its group of eight passes v127 or is none, or its format is not FP32; where nothing else holds, 0x14. -/
theorem test_unpaired : ([(0xC2, 121), (0x02, 1), (0xD2, 4), (0x12, 127)] : List (BitVec 14 × BitVec 7)).map (fun p =>
    (after (execUnpairedVcvtbc p.2 false (one { th with vtype := p.1 }))).map fun t => t.trap.cause) =
    [some 0x0401, some 0x0501, some 0x0701, some 0x1401] := by decide +kernel

/-- Fatal in the handler: the thread ends with bit 63 of the cause set, and the trap queue's TAIL advances. -/
theorem test_trap_in_handler : (match execTrap 5 (one handling) with
    | .next s => (s.threads.length, s.ended.map (fun t => t.trap.cause), tqTail s 0)
    | _ => (9, [], 9)) = (0, [0x8000000000000516], 1) := by decide +kernel

/-- The three requests of chapter 01: with 16 and 10 groups wanted and held by the others, a want of 64 receives 38. -/
theorem test_lane_shares : allocate { one th with threads := [{ th with latReq := 64 }, { th with tid := 0x10001, latReq := 16, grant := 16 },
    { th with tid := 0x10002, latReq := 10, grant := 10 }] } { th with latReq := 64 } 64 = 38 := by decide +kernel

/-- SETVL of 33 words takes two groups: VL is 33 and VLMAX 64. -/
theorem test_setvl : (after (execSetvl 3 1 (r 2) (one (two 33 2)))).map (fun t => (t.vl, t.grant, t.g 3)) = some (33, 2, 33) := by decide +kernel

/-- A register as words. -/
def filled (f : BitVec 7) (w : List Nat) : Memory := (List.range w.length).foldl (fun m i => writeElem m 0 f 1 32 i (w.getD i 0)) []

/-- A thread with v1 as words. -/
def loaded (vt : BitVec 14) (w : List Nat) (y : Dword) : Thread := { lanes vt 0 y with vregs := filled 1 w }

/-- Words of a group after a meaning. -/
def words (x : Result) (f : BitVec 7) (n : Nat) : Option (List Nat) := (after x).map fun t => (List.range n).map fun i => readElem t.vregs 0 f 1 32 i

/-- Bytes of a group after a meaning. -/
def bytesOf (x : Result) (f : BitVec 7) (ns : List Nat) : Option (List Nat) := (after x).map fun t => ns.map fun i => readElem t.vregs 0 f 1 8 i

/-- Saturation at the largest i32; the other elements wrap nowhere. -/
theorem test_vsadd : words (execVsaddVG 2 1 (r 2) false (one (loaded 0x02 [0x7FFFFFFF, 1, 0xFFFFFFFF, 0x80000000] 1))) 2 4 =
    some [0x7FFFFFFF, 2, 0, 0x80000001] := by decide +kernel

/-- The mask of chapter 00: elements 5, 7 and 9 alone are active. -/
theorem test_active_elements : (List.range 10).filter (fun i => 4 ≤ i && maskBit (NatSet.insert (NatSet.insert (NatSet.insert (NatSet.insert
    (NatSet.insert [] 1) 3) 5) 7) 9) 0 i) = [5, 7, 9] := by decide

/-- The estimate of 1/√2 (chapter 06). -/
theorem test_rsqrte : words (execVfrsqrte 2 1 false (one (loaded 0x12 [0x40000000] 0))) 2 1 = some [0x3F34B000] := by decide +kernel

/-- 1, 2, 3, 4 at distance 1 give 3, −1, 7, −1 (chapter 06). -/
theorem test_butterfly : words (execVbfly 2 1 (r 2) false (one (loaded 0x12 [0x3F800000, 0x40000000, 0x40400000, 0x40800000] 1))) 2 4 =
    some [0x40400000, 0xBF800000, 0x40E00000, 0xBF800000] := by decide +kernel

/-- The rotation at distance 2 of those, converted to E2M1 (chapter 06): bytes 0, 1, 2, 4, 5, 6 of the block. -/
theorem test_chain : bytesOf (execVbflyc 1 (r 2) (some (16, false)) (one (loaded 0x12 [0x40400000, 0xBF800000, 0x40E00000, 0xBF800000] 0x10002))) 16
    [0, 1, 2, 4, 5, 6] = some [0x01, 0x7F, 0x52, 0xC8, 0x0E, 0x00] := by decide +kernel

/-- The worked conversion of 0.75, −2.5, 40, 1 to E2M1 (chapter 04). -/
theorem test_convert_to_block : bytesOf (execVcvtb 16 4 false
    (one { lanes 0x08 0 0 with vregs := filled 4 [0x3F400000, 0xC0200000, 0x42200000, 0x3F800000] })) 16 [0, 1, 2, 4, 5, 6] =
    some [0x01, 0x7E, 0x6A, 0xE3, 0x48, 0x00] := by decide +kernel

/-- The worked multiply of chapter 08: two BF16 tiles of two rows of 512 bytes, resumed at row 1. -/
def product : State :=
  let t : Thread := { mat hd (hd + 1) with mshape := (2 : BitVec 10) ++ (2 : BitVec 16), mrow := 1 }
  let desc : Desc := { base := 0x30000, fmt := 3, rows1 := 0, rows0 := 1, rlen16 := 31, stride0 := 512, stride1 := 0 }
  let s := { owned (paged t) with
    tiles := [{ die := 0, index := 0, tenant := 0, desc := desc }, { die := 0, index := 1, tenant := 0, desc := { desc with base := 0x30400 } }] }
  [(0x30000, 0x3F80), (0x30002, 0x4000), (0x30200, 0x4040), (0x30240, 0x3F00), (0x30400, 0x4080), (0x30402, 0x3F80), (0x30440, 0x4000),
    (0x30600, 0xBF80), (0x30640, 0x4100)].foldl (fun s p => s.storeBytes p.1 (leBytes 2 p.2)) s

theorem test_matrix_multiply : (match execMmai 0 1 (r 2) product with
    | .next s => ([(0, 0), (0, 1), (1, 0), (1, 1)].map fun p => accGet s.acc 0 p.1 p.2, s.matq.length, s.threads.map fun t => t.mkoff)
    | _ => ([], 9, [])) = ([0, 0, 0x41500000, 0x3F800000], 0, [512]) := by decide +kernel

end Sys2Proof.Tests
end

section
/-! SUPPORT. Scalar results and window moves (chapter 05): what an ALU instruction and an illegal one answer, the borderline divisions (R98), bit
fields bit by bit (R99), and the bases of the windows (R123). -/

namespace Sys2Proof.ScalarControl

open Sys2Proof Sys2Proof.Machine Sys2Proof.Claims

/-! ### ALU instructions -/

/-- An instruction whose meaning is `aluOp` completes by writing what its function makes of g(a) and the b operand; it never traps on clean
operands. -/
theorem completes_aluOp {i : Instr} {d a : BitVec 7} {b : Src} {s : State} {t : Thread} {f : Dword → Dword → Dword} (r : Runs s t)
    (c : Clean t (a :: b.reads)) (h : exec i s = aluOp d a b s f) :
    Completes i s t fun u => Wrote t u d (f (t.g a) (t.src b)) b.slots :=
  completes_writeOp r c d b.slots (fun t => f (t.g a) (t.src b)) h

/-- The same for operands at which the function takes a known value. -/
theorem completes_aluOp_value {i : Instr} {d a : BitVec 7} {b : Src} {s : State} {t : Thread} {f : Dword → Dword → Dword} {v : Dword}
    (r : Runs s t) (c : Clean t (a :: b.reads)) (h : exec i s = aluOp d a b s f) (hv : f (t.g a) (t.src b) = v) :
    Completes i s t fun u => Wrote t u d v b.slots :=
  hv ▸ completes_aluOp r c h

/-! ### Borderline divisions (R98) -/

theorem quotI_zero (x : Dword) : quotI x 0 = ones64 := rfl

theorem quotN_zero (x : Dword) : quotN x 0 = ones64 := rfl

theorem remI_zero (x : Dword) : remI x 0 = x := rfl

theorem remN_zero (x : Dword) : remN x 0 = x := rfl

/-- The quotient 2⁶³ wraps to the dividend. -/
theorem quotI_overflow : quotI minI64 ones64 = minI64 := by decide

theorem quotN_overflow : quotN minI64 ones64 = 0 := by decide

theorem remI_overflow : remI minI64 ones64 = 0 := by decide

theorem remN_overflow : remN minI64 ones64 = minI64 := by decide

/-! ### Bit fields (R99) -/

/-- A field of a doubleword as a slice of it. -/
theorem field_eq_extractLsb' (y : Dword) (lo n : Nat) : field y lo n = (y.extractLsb' lo n).toNat := by
  rw [field, bits, BitVec.extractLsb'_toNat, Nat.shiftRight_eq_div_pow]

theorem testBit_bits (v lo n i : Nat) : (bits v lo n).testBit i = (decide (i < n) && v.testBit (lo + i)) := by
  rw [bits, Nat.testBit_mod_two_pow, Nat.testBit_div_two_pow, Nat.add_comm]

theorem bits_lt (v lo n : Nat) : bits v lo n < 2 ^ n := Nat.mod_lt _ (Nat.two_pow_pos n)

/-- Setting every bit from n to 63 above a number of n bits. -/
theorem testBit_add_ones {v n i : Nat} (hv : v < 2 ^ n) (hn : n ≤ 64) (hi : i < 64) :
    (v + (2 ^ 64 - 2 ^ n)).testBit i = if i < n then v.testBit i else true := by
  have ones : 2 ^ 64 - 2 ^ n = 2 ^ n * (2 ^ (64 - n) - 1) := by
    rw [Nat.mul_sub, ← pow_add, Nat.add_sub_cancel' hn, Nat.mul_one]
  rw [ones, Nat.add_comm, Nat.testBit_two_pow_mul_add _ hv, Nat.testBit_two_pow_sub_one]
  split
  · rfl
  · exact decide_eq_true (by omega)

/-- The mask of n bits from bit lo up. -/
theorem getLsbD_fieldMask (n lo : Nat) {i : Nat} (hi : i < 64) :
    (BitVec.ofNat 64 ((2 ^ n - 1) * 2 ^ lo)).getLsbD i = decide (lo ≤ i ∧ i < lo + n) := by
  rw [BitVec.getLsbD_ofNat, decide_eq_true hi, Bool.true_and, Nat.testBit_mul_two_pow, Nat.testBit_two_pow_sub_one, ← Bool.decide_and,
    decide_eq_decide]
  omega

/-- BFX bit by bit: the field, then zeros or copies of its top bit. -/
theorem getLsbD_bitField (a y : Dword) {i : Nat} (hi : i < 64) :
    (Machine.bitField a y).getLsbD i =
      if i < field y 6 6 + 1 then a.getLsbD (field y 0 6 + i)
      else y.getLsbD 12 && a.getLsbD (field y 0 6 + (field y 6 6 + 1) - 1) := by
  have len_le : field y 6 6 + 1 ≤ 64 := bits_lt _ _ 6
  have top : (bits a.toNat (field y 0 6) (field y 6 6 + 1)).testBit (field y 6 6 + 1 - 1) =
      a.getLsbD (field y 0 6 + (field y 6 6 + 1) - 1) := by
    rw [testBit_bits, BitVec.testBit_toNat, decide_eq_true (by omega), Bool.true_and]
    rfl
  have inField : i < field y 6 6 + 1 →
      (bits a.toNat (field y 0 6) (field y 6 6 + 1)).testBit i = a.getLsbD (field y 0 6 + i) := fun h => by
    rw [testBit_bits, BitVec.testBit_toNat, decide_eq_true h, Bool.true_and]
  simp only [Machine.bitField, top]
  by_cases extended : (y.getLsbD 12 && a.getLsbD (field y 0 6 + (field y 6 6 + 1) - 1)) = true
  · rw [if_pos extended, extended, BitVec.getLsbD_ofNat, decide_eq_true hi, Bool.true_and, testBit_add_ones (bits_lt _ _ _) len_le hi]
    exact ite_congr rfl inField fun _ => rfl
  · rw [if_neg extended, Bool.eq_false_of_not_eq_true extended, BitVec.getLsbD_ofNat, decide_eq_true hi, Bool.true_and]
    by_cases h : i < field y 6 6 + 1
    · rw [if_pos h, inField h]
    · rw [if_neg h, testBit_bits, decide_eq_false h, Bool.false_and]

/-- BFI bit by bit: the lowest bits of a in the field, the bits of d elsewhere. -/
theorem getLsbD_bitInsert (d a y : Dword) {i : Nat} (hi : i < 64) :
    (bitInsert d a y).getLsbD i =
      if field y 0 6 ≤ i ∧ i < field y 0 6 + (field y 6 6 + 1) then a.getLsbD (i - field y 0 6) else d.getLsbD i := by
  simp only [bitInsert, BitVec.getLsbD_or, BitVec.getLsbD_and, BitVec.getLsbD_not, BitVec.getLsbD_shiftLeft, getLsbD_fieldMask _ _ hi, hi]
  by_cases inField : field y 0 6 ≤ i ∧ i < field y 0 6 + (field y 6 6 + 1)
  · simp [inField]
  · simp [inField]

/-! ### Illegal instructions -/

/-- The thread that an illegal instruction puts at its handler's entry has entered it as R320 says. -/
theorem entered_illegal (t : Thread) (sub : BitVec 8) (pc save : BitVec 57) :
    Entered t (Thread.inHandlerAt { t with noAhead := false } (mkFault 0x01 sub 0 accLoad) 0 { pc := pc, save := save, elem := 0 })
      0x01 sub pc save 0 0 :=
  ⟨rfl, rfl, rfl, rfl, rfl, rfl, rfl, rfl, rfl, rfl, ⟨0, rfl⟩, rfl⟩

/-- An instruction found illegal enters the handler of a thread without older vector instructions. -/
theorem traps_illegal {i : Instr} {s : State} {t : Thread} {sub : BitVec 8} (r : Runs s t) (hq : t.vq = []) (hh : Handles t)
    (h : exec i s = .next (illegal s t sub)) : Traps i s s t fun u => Entered t u 0x01 sub t.pc t.pc 0 0 := by
  obtain ⟨outside, vector⟩ := hh
  rw [illegal_idle (Runs.found r) hq, takeTrap_handler _ rfl outside vector hq, State.noteFault_none s rfl] at h
  exact ⟨_, _, h, only_setThread (Runs.found r) rfl, entered_illegal t sub t.pc t.pc⟩

/-! ### Window bases -/

theorem baseLegal_iff (base limit : Int) : baseLegal base limit = true ↔ 0 ≤ base ∧ base ≤ limit ∧ base % 8 = 0 := by
  simp [baseLegal, and_assoc]

/-- A base in the range of its field is stored as it is. -/
theorem toNat_ofInt_of_range {w : Nat} {x : Int} (h0 : 0 ≤ x) (h : x < 2 ^ w) : ((BitVec.ofInt w x).toNat : Int) = x := by
  rw [BitVec.toNat_ofInt]
  push_cast
  rw [Int.toNat_of_nonneg (Int.emod_nonneg _ (by positivity)), Int.emod_eq_of_lt h0 h]

/-- WINSG moves the scalar window to a legal base and refuses any other; the displacement is read through the old window. -/
theorem exec_winsg {b : Src} {s : State} {t : Thread} (r : Runs s t) (c : Clean t b.reads) :
    exec (.winsg b) s = .next (if baseLegal (t.swb.toNat + (t.src b).toInt) 384 then
      s.setThread ({ t with swb := BitVec.ofInt 9 (t.swb.toNat + (t.src b).toInt) }.advance b.slots) else illegal s t 0x12) :=
  scalarOp_clean r c _

/-- WINSV does the same for the vector window. -/
theorem exec_winsv {b : Src} {s : State} {t : Thread} (r : Runs s t) (c : Clean t b.reads) :
    exec (.winsv b) s = .next (if baseLegal (t.vwb.toNat + (t.src b).toInt) 128 then
      s.setThread ({ t with vwb := BitVec.ofInt 8 (t.vwb.toNat + (t.src b).toInt) }.advance b.slots) else illegal s t 0x12) :=
  scalarOp_clean r c _

/-! ### The statements -/

/-- Settles O4: every division writes its function's value, and those functions take the table's values at a divisor of 0 and at −2⁶³ / −1. -/
theorem divisionCorners : Obligations.DivisionCorners := by
  intro d a b s t r c
  refine ⟨?never, ?byZero, ?overflow⟩
  case never =>
    simp only [divRows, List.forall_mem_cons, List.not_mem_nil, false_imp_iff, implies_true, and_true]
    exact ⟨⟨_, completes_aluOp r c rfl⟩, ⟨_, completes_aluOp r c rfl⟩, ⟨_, completes_aluOp r c rfl⟩, ⟨_, completes_aluOp r c rfl⟩⟩
  case byZero =>
    intro hy
    exact ⟨completes_aluOp_value r c rfl (by rw [hy, quotI_zero]), completes_aluOp_value r c rfl (by rw [hy, quotN_zero]),
      completes_aluOp_value r c rfl (by rw [hy, remI_zero]), completes_aluOp_value r c rfl (by rw [hy, remN_zero])⟩
  case overflow =>
    intro hx hy
    exact ⟨completes_aluOp_value r c rfl (by rw [hx, hy, quotI_overflow]), completes_aluOp_value r c rfl (by rw [hx, hy, quotN_overflow]),
      completes_aluOp_value r c rfl (by rw [hx, hy, remI_overflow]), completes_aluOp_value r c rfl (by rw [hx, hy, remN_overflow])⟩

/-- Settles O6: BFX and BFI write the values that `getLsbD_bitField` and `getLsbD_bitInsert` describe. -/
theorem bitFields : Obligations.BitFields := by
  intro d a b s t r c y pos len
  have hpos : field y 0 6 = pos := field_eq_extractLsb' y 0 6
  have hlen : field y 6 6 + 1 = len := congrArg (· + 1) (field_eq_extractLsb' y 6 6)
  have hc : Clean t (a :: b.reads) := (Bool.or_eq_false_iff.1 c).2
  refine ⟨⟨Machine.bitField (t.g a) y, fun i hi => ?_, completes_aluOp r hc rfl⟩,
    ⟨bitInsert (t.g d) (t.g a) y, fun i hi => ?_, completes_writeOp r c d b.slots (fun t => bitInsert (t.g d) (t.g a) (t.src b)) rfl⟩⟩
  · rw [getLsbD_bitField _ _ hi, hpos, hlen]
  · rw [getLsbD_bitInsert _ _ _ hi, hpos, hlen]

/-- Settles O35: a legal base fits the field of its window, so it is stored unchanged; any other base takes the illegal-instruction trap. -/
theorem windowMoves : Obligations.WindowMoves := by
  intro b s t r c sg sv
  have winsg := exec_winsg r c
  have winsv := exec_winsv r c
  refine ⟨fun legal => ?scalar, fun legal => ?vector, fun hq hh => ⟨fun refused => ?scalarRefused, fun refused => ?vectorRefused⟩⟩
  case scalar =>
    rw [if_pos ((baseLegal_iff sg 384).2 legal)] at winsg
    have stored : ((BitVec.ofInt 9 sg).toNat : Int) = sg := toNat_ofInt_of_range legal.1 (by omega)
    exact completes_setThread r winsg rfl ⟨stored, stepped_advance _ _⟩
  case vector =>
    rw [if_pos ((baseLegal_iff sv 128).2 legal)] at winsv
    have stored : ((BitVec.ofInt 8 sv).toNat : Int) = sv := toNat_ofInt_of_range legal.1 (by omega)
    exact completes_setThread r winsv rfl ⟨stored, stepped_advance _ _⟩
  case scalarRefused =>
    rw [if_neg (mt (baseLegal_iff sg 384).1 refused)] at winsg
    exact traps_illegal r hq hh winsg
  case vectorRefused =>
    rw [if_neg (mt (baseLegal_iff sv 128).1 refused)] at winsv
    exact traps_illegal r hq hh winsv

end Sys2Proof.ScalarControl
end

section
/-! SUPPORT. Vector instructions of chapter 06 that write one group and raise no flag: what such an instruction makes of its thread when it executes
at once, and the merges and moves (R131). -/

namespace Sys2Proof.VectorCompute

open Sys2Proof Sys2Proof.Machine Sys2Proof.Claims

/-! ### Checks at push -/

/-- Every format that a legal VTYPE names is among all of them (R13). -/
theorem formats_any {vt : BitVec 14} (h : vtLegal vt = true) : formats vt anyFormats = [] := by
  have named : vtFmt vt ∈ anyFormats := by
    simp only [vtLegal, Bool.and_eq_true, Bool.or_eq_true, decide_eq_true_eq] at h
    simp only [anyFormats, List.mem_cons, List.not_mem_nil, or_false]
    omega
  rw [formats, List.elem_eq_true_of_mem named]
  rfl

theorem groupsPush_faults {t : Thread} {fs : List Nat} {d a b : BitVec 7} (op : VOp) (m : Bool) (hf : formats t.vtype fs = [])
    (hd : Names d (vtGroup t.vtype)) (ha : Names a (vtGroup t.vtype)) (hb : Names b (vtGroup t.vtype)) :
    (groupsPush op m d a b fs t).faults = [] := by
  rw [groupsPush, hf, narrow_ok hd, narrow_ok ha, narrow_ok hb]
  rfl

theorem scalarPush_faults {t : Thread} {fs : List Nat} {d a : BitVec 7} (op : VOp) (m : Bool) (b : Src) (hf : formats t.vtype fs = [])
    (hd : Names d (vtGroup t.vtype)) (ha : Names a (vtGroup t.vtype)) : (scalarPush op m d a b fs t).faults = [] := by
  rw [scalarPush, hf, narrow_ok hd, narrow_ok ha]
  rfl

theorem unaryPush_faults {t : Thread} {fs : List Nat} {d a : BitVec 7} (op : VOp) (m : Bool) (hf : formats t.vtype fs = [])
    (hd : Names d (vtGroup t.vtype)) (ha : Names a (vtGroup t.vtype)) : (unaryPush op m d a fs t).faults = [] := by
  rw [unaryPush, hf, narrow_ok hd, narrow_ok ha]
  rfl

/-! ### Entries that write one group -/

/-- The entries that touch no memory, no accumulator and no scalar register, and read no block. -/
def plain (op : VOp) : Bool :=
  op.local && match op with
    | .count _ _ _ | .widen _ _ => false
    | _ => true

theorem local_of_plain {op : VOp} (h : plain op = true) : op.local = true := (Bool.and_eq_true_iff.1 h).1

theorem ne_count_of_plain {op : VOp} (h : plain op = true) (first : Bool) (d a : BitVec 7) : op ≠ .count first d a := by
  rintro rfl
  cases h

theorem ne_widen_of_plain {op : VOp} (h : plain op = true) (d a : BitVec 7) : op ≠ .widen d a := by
  rintro rfl
  cases h

/-- A plain entry reads from VSTART on. -/
theorem counts_plain {e : VEntry} (h : plain e.op = true) : e.counts = false := by
  unfold VEntry.counts
  split
  · next op => exact absurd op (ne_count_of_plain h _ _ _)
  · rfl

/-- A plain entry without poisoned sources runs to its end. -/
theorem bodyStop_plain {v : VView} (h : plain v.e.op = true) (hv : v.badV = []) (hm : v.badM = []) (hs : v.e.badScalar = false) :
    bodyStop v = .finish := by
  simp only [bodyStop, firstBad_clean v v.vl hv hm hs]
  split
  · next block =>
    split at block
    · next op => exact absurd op (ne_widen_of_plain h _ _)
    · cases block
  · next bad => cases bad
  · rfl

/-- An entry whose whole result is one group at SEW: no flag and no other register. -/
def WritesGroup (v : VView) (d : BitVec 7) (on : Nat → Bool) (res : Nat → Nat) : Prop :=
  ∀ stop, vectorBody v stop = (groupResult v on stop d v.sew res, [])

/-- A thread past a vector instruction of n slots that left its vector registers as given, and neither a mask nor a flag changed. -/
def finished (t : Thread) (n : Nat) (regs : Memory) : Thread :=
  { t with pc := slotAfter t.pc n, arrived := none, repeats := t.laterRepeats, vregs := regs, vstart := 0, vcpAddr := t.pc, order := t.order + 1 }

theorem committed_finished (t : Thread) (n : Nat) (regs : Memory) : Committed t (finished t n regs) n := ⟨rfl, rfl, rfl⟩

theorem quiet_finished (t : Thread) (n : Nat) (regs : Memory) : Quiet t (finished t n regs) := ⟨rfl, rfl⟩

/-- Past its commit an instruction has no repeat count left, those that its push kept included (R332). -/
theorem queuedRepeats_filter (t : Thread) : (t.queuedRepeats.filter fun r => r.1 != t.pc) = t.laterRepeats := by
  rw [Thread.queuedRepeats, Thread.laterRepeats, List.filter_filter]
  congr 1
  funext r
  exact inf_sup_self

theorem stick_none (fcsr : BitVec 7) : Flags.stick fcsr 0 = fcsr := by
  rw [Flags.stick]
  exact BitVec.or_zero

/-- Pushed onto an empty queue and committed without flags, an entry leaves its thread finished, with the vector registers that it has then. -/
theorem commitHead_pushed {t : Thread} {i : Instr} {p : Push} (hq : t.vq = []) (n : Nat) (regs : Memory) :
    ({ t.pushed (entryOf t i p) n with vregs := regs } : Thread).commitHead (entryOf t i p) 0 = finished t n regs := by
  have queue : (t.vq ++ [entryOf t i p]).tail = t.vq := by rw [hq]; rfl
  have ahead : (t.noAhead && (t.vq ++ [entryOf t i p]).head?.all fun e => e.early.isEmpty) = t.noAhead := by
    rw [hq]
    exact Bool.and_true _
  have flags : Flags.stick t.fcsr ((entryOf t i p).flags ||| 0) = t.fcsr :=
    (congrArg (Flags.stick t.fcsr) BitVec.or_zero).trans (stick_none t.fcsr)
  have repeats : (t.queuedRepeats.filter fun r => r.1 != (entryOf t i p).addr) = t.laterRepeats := queuedRepeats_filter t
  simp only [Thread.commitHead, Thread.pushed, Thread.advance, queue, ahead, flags, repeats]
  rfl

/-- Writes of one group touch nothing but the vector registers of a thread without poison. -/
theorem withWrites_group {t : Thread} (e : VEntry) (v : VView) (on : Nat → Bool) (stop : Nat) (d : BitVec 7) (w : Nat) (res : Nat → Nat)
    (hv : t.badVregs = []) (hm : t.badMasks = []) :
    withWrites t e (groupResult v on stop d w res) [] =
      { t with vregs := ((groupResult v on stop d w res).foldl (applyWrite e.vwb t.grant.toNat) (t.vregs, t.masks)).1 } := by
  have masks : classBits e.xcls t.masks [] = t.masks := by
    rw [classBits]
    exact ite_self _
  simp only [withWrites, groupResult_pairs, masks, foldl_elemWrites_masks, hv, hm, List.isEmpty_nil, if_true]

/-- What a plain entry that writes one group makes of a thread that was ready for it: with VL 0 nothing is written (R12). -/
theorem committedBody_group {t : Thread} {i : Instr} {p : Push} {d : BitVec 7} {on : Nat → Bool} {res : Nat → Nat} (ready : LanesReady t)
    (hp : plain p.op = true) (body : WritesGroup (viewOf t (entryOf t i p)) d on res) (n : Nat) :
    committedBody (t.pushed (entryOf t i p) n) (entryOf t i p) = finished t n (if t.vl = 0 then t.vregs else
      ((groupResult (viewOf t (entryOf t i p)) on (2 ^ 17) d (vtSew t.vtype) res).foldl (applyWrite t.vwb t.grant.toNat) (t.vregs, t.masks)).1) := by
  obtain ⟨idle, -, hv, hm, -, -⟩ := ready
  have view : viewOf (t.pushed (entryOf t i p) n) (entryOf t i p) = viewOf t (entryOf t i p) := rfl
  have vl : (viewOf t (entryOf t i p)).vl = 0 ↔ t.vl = 0 := BitVec.toNat_eq (y := 0#17) |>.symm
  have other : ∀ u : Thread, u.takeCount (viewOf t (entryOf t i p)) = u := fun u => u.takeCount_other _ (ne_count_of_plain hp)
  rw [committedBody]
  simp only [view, vl, other, body (2 ^ 17), ite_self]
  split
  · exact commitHead_pushed idle n t.vregs
  · rw [withWrites_group (t := t.pushed (entryOf t i p) n) _ _ _ _ _ _ _ hv hm]
    exact commitHead_pushed idle n _

/-- A group written while VL is 0 is as it was (R12). -/
theorem groupWritten_vl_zero {t u : Thread} (d : BitVec 7) (w : Nat) (on : Nat → Bool) (res : Nat → Nat) (hz : t.vl = 0)
    (hr : u.vregs = t.vregs) (hg : u.grant = t.grant) (hw : u.vwb = t.vwb) : GroupWritten t u d w on res := by
  have kept : ∀ i, elemOf u w d i = elemOf t w d i := fun i => by rw [elemOf, elemOf, hr, hg, hw]
  have none : ∀ i, ¬ inSpan t i := fun i hi => by simp [inSpan, hz] at hi
  exact ⟨fun i => ⟨fun _ => kept i, fun hi => absurd hi (none i), fun hi => absurd hi (none i), fun h => absurd hz h, fun _ => kept i⟩,
    fun a _ => by rw [hr]⟩

/-- An instruction that pushes a plain entry which writes one group completes with that group written. -/
theorem completes_group {i : Instr} {s : State} {t : Thread} {f : Thread → Push} {d : BitVec 7} {on : Nat → Bool} {res : Nat → Nat}
    (r : Runs s t) (ready : LanesReady t) (legal : vtLegal t.vtype = true) (h : exec i s = vectorOp s i f) (hf : (f t).faults = [])
    (hp : plain (f t).op = true) (c : Clean t (f t).reads) (body : WritesGroup (viewOf t (entryOf t i (f t))) d on res) :
    Completes i s t fun u => Committed t u (f t).slots ∧ Quiet t u ∧ GroupWritten t u d (vtSew t.vtype) on res := by
  have ⟨idle, held, hv, hm, hk, hl⟩ := ready
  have stop : bodyStop (viewOf (t.pushed (entryOf t i (f t)) (f t).slots) (entryOf t i (f t))) = .finish := bodyStop_plain hp hv hm c
  have answer := h.trans (vectorOp_local r idle held (by rw [hf]; rfl) (local_of_plain hp) stop)
  rw [committedBody_group ready hp body] at answer
  refine completes_setThread r answer rfl ⟨committed_finished .., quiet_finished .., ?_⟩
  by_cases hz : t.vl = 0
  · exact groupWritten_vl_zero d _ on res hz (if_pos hz) rfl rfl
  · have spans : t.vl.toNat ≤ 2 ^ 17 := hl.trans (by norm_num)
    have counts : (entryOf t i (f t)).counts = false := counts_plain hp
    exact group_written d on res (width_of_legal legal) hk spans rfl rfl rfl counts t.masks hz (if_neg hz) rfl rfl

/-! ### Merges and moves (R131) -/

/-- The second operand of element j for a captured scalar x (R126). -/
def secondOf (t : Thread) (x : Dword) : VSrc → Nat → Nat
  | .vec b, j => elemOf t (vtSew t.vtype) b j
  | .scalar, _ => x.toNat % 2 ^ vtSew t.vtype

section
variable {t : Thread} {i : Instr} {p : Push}

/-! An entry that its own push executes reads the registers of the thread as they stand. -/

theorem elem_pushed (f : BitVec 7) (j : Nat) : (viewOf t (entryOf t i p)).elem f j = elemOf t (vtSew t.vtype) f j := rfl

theorem enabled_pushed (j : Nat) : (viewOf t (entryOf t i p)).enabled j = enabledAt t p.masked j := rfl

theorem second_pushed (b : VSrc) (j : Nat) : (viewOf t (entryOf t i p)).second b j = secondOf t p.scalar b j := by
  cases b <;> rfl

/-- VMERGE takes every element for active; the mask only chooses between its sources. -/
theorem writesGroup_merge {d a : BitVec 7} (b : VSrc) (h : p.op = .merge d a b) :
    WritesGroup (viewOf t (entryOf t i p)) d (fun _ => true)
      fun j => if enabledAt t p.masked j then secondOf t p.scalar b j else elemOf t (vtSew t.vtype) a j := by
  intro stop
  have op : (viewOf t (entryOf t i p)).e.op = .merge d a b := h
  simp only [vectorBody, op, elem_pushed, enabled_pushed, second_pushed]

/-- VMV writes where the mask enables it, and with the mask inverted where it does not. -/
theorem writesGroup_move {d : BitVec 7} (b : VSrc) (inverted : Bool) (h : p.op = .move d b inverted) :
    WritesGroup (viewOf t (entryOf t i p)) d (fun j => if inverted then !enabledAt t p.masked j else enabledAt t p.masked j)
      (secondOf t p.scalar b) := by
  intro stop
  have op : (viewOf t (entryOf t i p)).e.op = .move d b inverted := h
  simp only [vectorBody, op, enabled_pushed, second_pushed]

end

/-- Settles O38: each of the six pushes an entry that writes one group, of the elements and with the values that `writesGroup_merge` and
`writesGroup_move` give. The group forms capture no scalar register, so no operand of theirs can be poisoned. -/
theorem mergesAndMoves : Obligations.MergesAndMoves := by
  intro d a b g m s t r ready legal w y hd
  have any := formats_any legal
  refine ⟨fun ha hb => ?mergeGroup, fun ha c => ?mergeScalar, fun hb => ⟨?moveGroup, ?moveGroupInverted⟩,
    fun c => ⟨?moveScalar, ?moveScalarInverted⟩⟩
  case mergeGroup =>
    exact completes_group (f := groupsPush (.merge d a (.vec b)) m d a b anyFormats) r ready legal rfl
      (groupsPush_faults _ m any hd ha hb) rfl rfl (writesGroup_merge (.vec b) rfl)
  case mergeScalar =>
    exact completes_group (f := scalarPush (.merge d a .scalar) m d a g anyFormats) r ready legal rfl
      (scalarPush_faults _ m g any hd ha) rfl c (writesGroup_merge .scalar rfl)
  case moveGroup =>
    exact completes_group (f := unaryPush (.move d (.vec b) false) m d b anyFormats) r ready legal rfl
      (unaryPush_faults _ m any hd hb) rfl rfl (writesGroup_move (.vec b) false rfl)
  case moveGroupInverted =>
    exact completes_group (f := unaryPush (.move d (.vec b) true) true d b anyFormats) r ready legal rfl
      (unaryPush_faults _ true any hd hb) rfl rfl (writesGroup_move (.vec b) true rfl)
  case moveScalar =>
    exact completes_group (f := scalarPush (.move d .scalar false) m d d g anyFormats) r ready legal rfl
      (scalarPush_faults _ m g any hd hd) rfl c (writesGroup_move .scalar false rfl)
  case moveScalarInverted =>
    exact completes_group (f := scalarPush (.move d .scalar true) true d d g anyFormats) r ready legal rfl
      (scalarPush_faults _ true g any hd hd) rfl c (writesGroup_move .scalar true rfl)

end Sys2Proof.VectorCompute
end
